-- ==== Sys2Proof/Word.lean ====
section
/-!
DEFINITION. The word types of the Pranov 384 and the shape of a sparse table.
-/

namespace Sys2Proof

/-- A lane or scalar register (R10). -/
abbrev Word := BitVec 32

/-- A k register, or an even-odd pair (R10, R22). -/
abbrev DWord := BitVec 64

/-- A byte of memory. -/
abbrev Byte := BitVec 8

/-- A table from Nat keys to values, held with strictly rising keys. -/
abbrev SMap (α : Type) := List (Nat × α)

/-- The 32-bit word of a Nat, wrapping. -/
def w32 (n : Nat) : Word := BitVec.ofNat 32 n

/-- The 64-bit word of a Nat, wrapping. -/
def w64 (n : Nat) : DWord := BitVec.ofNat 64 n

end Sys2Proof
end

