-- ==== Sys2Proof/Config.lean ====
section
/-!
DEFINITION. What the manual fixes for every Pranov 384, and the values it leaves open.
An opaque constant is a free value: nothing proves which value it has.
-/

namespace Sys2Proof.Config

/-- Cores of a twelfth (R9). -/
def coresPerTwelfth : Nat := 32
/-- Twelfths of the module (R8). -/
def twelfths : Nat := 12
/-- Bytes populated in one HBM stack window (R91). -/
def stackBytes : Nat := 0x12A05F2000
/-- Stride of the stack windows (R91). -/
def stackStride : Nat := 0x2000000000
/-- Start of the host-coherent window (R91). -/
def hostBase : Nat := 0x8000000000000
/-- Start of the peer apertures (R91). -/
def peerBase : Nat := 0xC000000000000
/-- End of the peer apertures, exclusive (R91). -/
def peerEnd : Nat := 0xD000000000000
/-- Whole 64 KiB frames in one stack's populated part. -/
def framesPerStack : Nat := 1220703
/-- The window of R117. -/
def privBase : Nat := 0xFFFF0000000000
/-- Bytes of a lane's own frame (R117). -/
def privSize : Nat := 0x4000
/-- Base of the global twin addresses of lanes' own frames (R118). -/
def twinBase : Nat := 0xFE000000000000
/-- Lane registers of one side (R239). -/
def sideRegs : Nat := 98304
/-- Cycles a publish holds later shadow writes (R210). -/
def quiet : Nat := 33000
/-- PARKQ limit in cycles (R40). -/
def parkLimit : Nat := 4096
/-- RECONV hold limit in cycles (R330). -/
def reconvLimit : Nat := 256
/-- Age at which a bin is drawn or emptied (R334). -/
def binAge : Nat := 1024
/-- Age at which the walker applies an announcement (R407). -/
def walkerAge : Nat := 8192
/-- Cycles after which a save is forced (R434). -/
def forceLimit : Nat := 24000
/-- Default time slice (R457). -/
def tslice : Nat := 2400000
/-- Default frames of a replica region (R457). -/
def repln : Nat := 61035
/-- Outstanding copies and publishes of a partition (R188). -/
def maxCmds : Nat := 1024
/-- Outstanding commands of a matrix engine (R314). -/
def maxMat : Nat := 32

/-- FREE VALUE. The stream of choices the manual leaves to the implementation: which ready agent
goes next, which cached copy has been replaced, which latency passed. Read at the state's counter. -/
opaque freeNat : Nat → Nat

/-- FREE VALUE. Whether an access of a step to a granule goes by the old translation of a pinned or held leaf
that system software has changed (R105, R120): a function of the step's number and the granule. -/
opaque useOld : Nat → Nat → Bool

/-- FREE VALUE. A byte that another module or party supplies. -/
opaque freeByte : Nat → BitVec 8

/-- FREE VALUE. Which of the f32 values inside the bound of R293 a transcendental form returns:
a fixed function of the form's FN and the source bits. -/
opaque transPick : Nat → BitVec 32 → Nat

/-- FREE VALUE. The promise estimate beyond acceptance of a command of some length (R200). -/
opaque promiseDelay : Nat → Nat → Nat

/-- FREE VALUE. Whether a signature over a digest verifies under the module's fused key (R472). -/
opaque sigVerifies : Nat → Nat → Bool

/-- FREE VALUE: whether a debug token of a digest holds this module's identity (R482). -/
opaque tokenNamesModule : Nat → Bool

/-- FREE VALUE. Digests, certificates and signatures of the attestation messages (R472), by kind,
logical device and request content. -/
opaque attest : Nat → Nat → Nat → Nat

end Sys2Proof.Config
end

