-- ==== Sys2Proof/Syntax.lean ====
section
/-!
DEFINITION. The instructions of the Pranov 384 as typed data, and the events that the operation
table lists beside them. No file of the machine sees an encoded field again after Decode.
-/

namespace Sys2Proof

/-- Operand type codes 0 to 14 (R27); code 15 is no type. -/
inductive Ty where
  | i8 | i16 | i32 | i64 | n8 | n16 | n32 | n64 | f16 | bf16 | f32 | f64 | b8 | blk | h2
  deriving DecidableEq, Repr

/-- CACHE (R28). -/
inductive Cache where
  | near | far | stream | nowhere
  deriving DecidableEq, Repr

/-- The `$` special registers of R20. -/
inductive Sreg where
  | laneid | groupid | teamid | coreid | clusterid | ctx | part | pix | cyc | cychi | dq
  | dom (i : Fin 6)
  deriving DecidableEq, Repr

/-- An operand field (R18, R19, R20): class and legal index. -/
inductive Opnd where
  | v (n : BitVec 9)
  | s (n : BitVec 7)
  | q (n : BitVec 4)
  | g (n : BitVec 4)
  | p (n : BitVec 4)
  | k (n : BitVec 6)
  | spec (r : Sreg)
  /-- The value of IMM (class 0b11, index 0). -/
  | immL
  /-- A short immediate (class 0b11, index[8] = 1). -/
  | immS (x : BitVec 8)
  deriving DecidableEq, Repr

/-- The operation of `atoms`, `atom` and `ann` (R49). -/
inductive AOp where
  | fadd | fmin | fmax | fand | fior | fxor | xchg | cas
  deriving DecidableEq, Repr

/-- The fields of an instruction word other than OP and FN (R16, R28). A field that a form does not
use holds zero, which reads as `.v 0` in an operand field. -/
structure Fields where
  neg : Bool
  pred : BitVec 4
  dst : Opnd
  sa : Opnd
  sb : Opnd
  ty : Ty
  reuseA : Bool
  reuseB : Bool
  yield : Bool
  cache : Cache
  mod : BitVec 3
  imm : BitVec 32
  deriving DecidableEq, Repr

/-- A clause header (R30). A flag or queue whose valid bit is clear is absent. -/
structure Header where
  count : BitVec 4
  wait : BitVec 12
  seta : Option (BitVec 4)
  setb : Option (BitVec 4)
  parkq : Option (BitVec 4)
  yieldpol : BitVec 2
  reconv : Bool
  ganghint : BitVec 6
  deriving DecidableEq, Repr

/-- Who issues an instruction. -/
inductive Agent where
  /-- The gang that holds quad `q` of group `g` of a resident team (R330). -/
  | lane (team g q : Nat)
  /-- A team front context (R347). -/
  | front (team : Nat)
  /-- The matrix or copy sequencer program of a front context (R352). -/
  | seqr (team : Nat) (copy : Bool)
  /-- The handler slot of a core (R422). -/
  | handler (core q : Nat)
  deriving DecidableEq, Repr

/-- One partition as an ASSIGN leaves it (R455); `size` 0 removes it. -/
structure AssignPart where
  j0 : Nat
  size : Nat
  units : BitVec 48
  hbase : DWord
  hsize : DWord
  qosHost : BitVec 16
  qosCE : BitVec 16
  peers : List DWord
  deriving DecidableEq, Repr

/-- A snoop of the host (R470). `inv` invalidates the line and may carry the bytes that the host
then writes; `data` leaves it shared. -/
inductive Snoop where
  | data | inv
  deriving DecidableEq, Repr

/-- What a peer module asks of an aperture (R149, R471): a read, a write of bytes, or an atomic with
the value of the third source and the compared one. -/
inductive PeerReq where
  | read
  | write (bytes : List (BitVec 8))
  | atomic (ty : Ty) (op : AOp) (c e : Nat)
  deriving DecidableEq, Repr

/-- The debug instruments of R482. -/
inductive Instrument where
  | ident | frzstat | corestate | homestate | hubstate | errstate
  deriving DecidableEq, Repr

/-- One constructor for each row of the operation table: the 144 instructions of the opcode map
(R48, R49) with their decoded fields, and the steps of the device and of the parties around it,
which have no encoding. -/
inductive Instr where
  /-- Does nothing. (R336) -/
  | nop (f : Fields)
  /-- Transfers each participating lane to the clause-unit target. (R337) -/
  | bra (f : Fields)
  /-- Transfers lanes to their clause start plus a 64-bit byte offset held in a scalar pair. (R338) -/
  | brx (f : Fields)
  /-- Transfers lanes to a 64-bit absolute address, which may differ per lane. (R338) -/
  | jmpx (f : Fields)
  /-- Pushes the return address onto the lane return stack and transfers to the clause-unit target. (R337) -/
  | call (f : Fields)
  /-- Pushes the return address and transfers to a 64-bit absolute address. (R338) -/
  | callx (f : Fields)
  /-- Pops the lane return stack and transfers, or acts as exit when the stack is empty. (R339) -/
  | ret (f : Fields)
  /-- Ends the participating lanes; in the front thread it ends the context or counts down a rendezvous. (R340) -/
  | exitLane (f : Fields)
  /-- Files lanes with n carried registers into the team's bins under a target key. (R341) -/
  | reform (f : Fields)
  /-- Merges into the issuing gang those unheld gangs of the group that stand at the same slot. (R342) -/
  | regang (f : Fields)
  /-- Makes the gang youngest and forces a fairness choice at the next boundary. (R343) -/
  | yieldGang (f : Fields)
  /-- Holds the gang until $cyc reaches the largest given deadline. (R344) -/
  | sleepto (f : Fields)
  /-- Prefetches n code fetch blocks into the chosen instruction-cache levels. (R345) -/
  | ipref (f : Fields)
  /-- Front thread pushes a 32-bit decision with its clock onto the team's decision queue. (R349) -/
  | decide (f : Fields)
  /-- Front thread branches to the clause-unit target when the value is nonzero. (R350) -/
  | bru (f : Fields)
  /-- Front thread starts matrix and copy sequencer programs with a rendezvous target. (R351) -/
  | fork (f : Fields)
  /-- Integer add, wrapping or saturating. (R246) -/
  | add (f : Fields)
  /-- Integer subtract, wrapping or saturating. (R246) -/
  | sub (f : Fields)
  /-- Unsigned add with carry in and out through p13. (R247) -/
  | addc (f : Fields)
  /-- Low half of the integer product. (R246) -/
  | mul (f : Fields)
  /-- High half of the double-width integer product. (R246) -/
  | mulhi (f : Fields)
  /-- Integer multiply-add, wrapping or saturating. (R246) -/
  | mad (f : Fields)
  /-- High half of the double-width multiply-add. (R246) -/
  | madhi (f : Fields)
  /-- Integer minimum. (R246) -/
  | min (f : Fields)
  /-- Integer maximum. (R246) -/
  | max (f : Fields)
  /-- Integer absolute value, wrapping or saturating. (R246) -/
  | abs (f : Fields)
  /-- Integer negation, wrapping or saturating. (R246) -/
  | neg (f : Fields)
  /-- Bitwise and. (R248) -/
  | andb (f : Fields)
  /-- Bitwise or. (R248) -/
  | orb (f : Fields)
  /-- Bitwise exclusive or. (R248) -/
  | xorb (f : Fields)
  /-- Bitwise not. (R248) -/
  | notb (f : Fields)
  /-- Bitwise a and not b. (R248) -/
  | andn (f : Fields)
  /-- Logical shift left. (R248) -/
  | shl (f : Fields)
  /-- Logical shift right. (R248) -/
  | shr (f : Fields)
  /-- Arithmetic shift right. (R248) -/
  | sar (f : Fields)
  /-- Rotate left. (R248) -/
  | rol (f : Fields)
  /-- Extracts a bit field, sign- or zero-extended. (R249) -/
  | bfx (f : Fields)
  /-- Inserts a bit field. (R249) -/
  | bfi (f : Fields)
  /-- Counts set bits. (R250) -/
  | popc (f : Fields)
  /-- Counts leading zero bits. (R250) -/
  | clz (f : Fields)
  /-- Counts trailing zero bits. (R250) -/
  | ctz (f : Fields)
  /-- Reverses bit order. (R250) -/
  | brev (f : Fields)
  /-- Permutes bytes by nibble selectors. (R250) -/
  | bperm (f : Fields)
  /-- Selects a or b by a 32-bit selector. (R251) -/
  | sel (f : Fields)
  /-- Integer comparison writing 1 or 0. (R252) -/
  | setp (f : Fields)
  /-- Predicate and. (R253) -/
  | pand (f : Fields)
  /-- Predicate or. (R253) -/
  | por (f : Fields)
  /-- Predicate exclusive or. (R253) -/
  | pxor (f : Fields)
  /-- Predicate not. (R253) -/
  | pnot (f : Fields)
  /-- Moves a value, also popping from or pushing to queue registers. (R254) -/
  | mov (f : Fields)
  /-- Writes a 32-bit constant into one half of a 64-bit destination. (R255) -/
  | movi (f : Fields)
  /-- Computes an effective address, turning window addresses into twin addresses. (R256) -/
  | lea (f : Fields)
  /-- Reads a special register by computed index. (R257) -/
  | srd (f : Fields)
  /-- Sets the starting progress index of the gang's next instruction. (R258) -/
  | swr (f : Fields)
  /-- Floating-point add. (R287) -/
  | fadd (f : Fields)
  /-- Floating-point subtract. (R287) -/
  | fsub (f : Fields)
  /-- Floating-point multiply. (R287) -/
  | fmul (f : Fields)
  /-- Fused multiply-add with one rounding. (R287) -/
  | ffma (f : Fields)
  /-- Floating-point minimum with NaN and signed-zero rules. (R288) -/
  | fmin (f : Fields)
  /-- Floating-point maximum with NaN and signed-zero rules. (R288) -/
  | fmax (f : Fields)
  /-- Inverts the sign bit. (R287) -/
  | fneg (f : Fields)
  /-- Floating-point comparison writing 1 or 0. (R289) -/
  | fsetp (f : Fields)
  /-- Writes a one-hot class mask of each element. (R290) -/
  | fclass (f : Fields)
  /-- Rounds to an integral value. (R291) -/
  | frnd (f : Fields)
  /-- Multiplies by a power of two. (R291) -/
  | fscale (f : Fields)
  /-- Two-element dot product plus f32 accumulator, rounded once. (R292) -/
  | fdot2 (f : Fields)
  /-- Reciprocal. (R293) -/
  | frcp (f : Fields)
  /-- Reciprocal square root. (R293) -/
  | frsq (f : Fields)
  /-- Correctly rounded square root. (R293) -/
  | fsqrt (f : Fields)
  /-- Base-2 exponential. (R293) -/
  | fexp2 (f : Fields)
  /-- Base-2 logarithm. (R293) -/
  | flog2 (f : Fields)
  /-- Sine. (R293) -/
  | fsin (f : Fields)
  /-- Cosine. (R293) -/
  | fcos (f : Fields)
  /-- Hyperbolic tangent. (R293) -/
  | ftanh (f : Fields)
  /-- Converts between scalar types with rounding and saturation. (R273) -/
  | cvt (src : Ty) (f : Fields)
  /-- Converts between a wide type and a binary8 format. (R275) -/
  | cvt8 (f : Fields)
  /-- Packs the group's wide values into one described block with a scale. (R276) -/
  | bpack (f : Fields)
  /-- Expands each lane's share of a described block into wide values. (R278) -/
  | bunpack (f : Fields)
  /-- Adjusts the scale byte of a block tag. (R279) -/
  | bscale (f : Fields)
  /-- Reads the tag of a memory block or scratchpad row. (R281) -/
  | btagr (f : Fields)
  /-- Writes the tag of a memory block or scratchpad row. (R282) -/
  | btagw (f : Fields)
  /-- Exchanges values among the participating lanes of a gang. (R298) -/
  | shfl (f : Fields)
  /-- All, any or uniform vote over participating lanes. (R299) -/
  | vote (f : Fields)
  /-- Mask of participating lanes whose value is true. (R299) -/
  | ballot (f : Fields)
  /-- Sum over participating lanes, f32 in a fixed tree. (R300) -/
  | redadd (f : Fields)
  /-- Maximum over participating lanes. (R300) -/
  | redmax (f : Fields)
  /-- Inclusive or exclusive running add, max or min over participating lanes. (R301) -/
  | scan (f : Fields)
  /-- Loads from a scratchpad address. (R222) -/
  | lds (f : Fields)
  /-- Stores to a scratchpad address. (R222) -/
  | sts (f : Fields)
  /-- Front thread switches selected SRAM banks among cache, scratchpad and FIFO modes. (R225) -/
  | bankmode (f : Fields)
  /-- Front thread creates or destroys FIFOs and writes or clears capability entries. (R229) -/
  | qcfg (f : Fields)
  /-- Reads the status of a capability entry. (R235) -/
  | qstat (f : Fields)
  /-- Pops every entry of a FIFO into scratchpad rows. (R236) -/
  | qdrain (f : Fields)
  /-- Atomic read-modify-write on a scratchpad address. (R224) -/
  | atoms (op : AOp) (f : Fields)
  /-- Generic-path load. (R144) -/
  | ld (f : Fields)
  /-- Generic-path store. (R146) -/
  | st (f : Fields)
  /-- Constant-path load. (R144) -/
  | ldc (f : Fields)
  /-- Tile-path load. (R144) -/
  | ldt (f : Fields)
  /-- Prefetches lines on the generic path, dropping lanes outside the lease. (R153) -/
  | pref (f : Fields)
  /-- Ends the stale window of the constant or tile path or writes back and drops host-coherent lines. (R156) -/
  | pathfence (f : Fields)
  /-- Reports translation, lease and caching state of a line. (R154) -/
  | probe (f : Fields)
  /-- Writes a dirty host-coherent line back into the host-line cache. (R155) -/
  | cwb (f : Fields)
  /-- Generic-path atomic read-modify-write, a commit point. (R150) -/
  | atom (op : AOp) (f : Fields)
  /-- Reserves contiguous space at a page tail and writes scratchpad sources there. (R127) -/
  | appendRow (f : Fields)
  /-- Reads the settled tail of an append frame. (R130) -/
  | tailr (f : Fields)
  /-- Seals an append page, completing when all reservations settle. (R131) -/
  | sealPage (f : Fields)
  /-- Reads the state and tail of an append frame. (R132) -/
  | sealq (f : Fields)
  /-- Issues a linear copy command and returns its promise. (R191) -/
  | cpy (f : Fields)
  /-- Issues a two-dimensional copy command. (R191) -/
  | cpy2d (f : Fields)
  /-- Issues an indexed gather command. (R191) -/
  | gather (f : Fields)
  /-- Issues an indexed scatter command. (R191) -/
  | scatter (f : Fields)
  /-- Issues a fill command. (R191) -/
  | cfill (f : Fields)
  /-- Accepts a publish of a shadowed buffer and returns its ticket. (R211) -/
  | publish (f : Fields)
  /-- Reads the state of the command with a given ticket. (R204) -/
  | pstat (f : Fields)
  /-- Takes, sizes or frees a gong. (R306) -/
  | gset (f : Fields)
  /-- Binds a command record address to a gong. (R307) -/
  | garm (f : Fields)
  /-- Signs a gong; the sign completing the set issues the bound command. (R308) -/
  | sign (f : Fields)
  /-- Reads a gong's state. (R310) -/
  | gstat (f : Fields)
  /-- Matrix multiply-accumulate with both operands from lane registers. (R317) -/
  | mmaRr (f : Fields)
  /-- Matrix multiply-accumulate with A from registers and B from scratchpad. (R317) -/
  | mmaRs (f : Fields)
  /-- Matrix multiply-accumulate with A from scratchpad and B from registers. (R317) -/
  | mmaSr (f : Fields)
  /-- Matrix multiply-accumulate with both operands from scratchpad. (R317) -/
  | mmaSs (f : Fields)
  /-- Zeroes an accumulator tile. (R322) -/
  | mzero (f : Fields)
  /-- Scales an accumulator tile by a power of two. (R322) -/
  | mscale (f : Fields)
  /-- Converts an accumulator tile into scratchpad or memory with tags. (R323) -/
  | mcvt (f : Fields)
  /-- Checks and submits a launch descriptor to the scheduler. (R360) -/
  | launch (f : Fields)
  /-- Checks and pushes continuation records from scratchpad. (R370) -/
  | spawn (f : Fields)
  /-- Lanes arrive at the phase barrier with a resume target. (R374) -/
  | phase (f : Fields)
  /-- Ends every group and the front context of the team. (R373) -/
  | taskend (f : Fields)
  /-- Commits the task. (R364) -/
  | commit (f : Fields)
  /-- Grows the window or requests scratchpad, failing by the rules for unmet requests. (R379) -/
  | alloc (f : Fields)
  /-- Grows the window or parks the group on the side's claim queue. (R380) -/
  | claim (f : Fields)
  /-- Shrinks the window and returns registers to the pool. (R381) -/
  | releaseRegs (f : Fields)
  /-- Allocates announcement records and links them to a shared object. (R409) -/
  | ann (op : AOp) (f : Fields)
  /-- Applies or advances whatever record links an object's block. (R410) -/
  | helpObj (f : Fields)
  /-- Takes an announcement's result by handle and frees its record. (R411) -/
  | collect (f : Fields)
  /-- Reads an announcement record's status by handle. (R412) -/
  | annq (f : Fields)
  /-- Compare and swap of two shared objects by linked steps. (R413) -/
  | bcas (f : Fields)
  /-- Raises a trap fault to the handler or firmware. (R431) -/
  | trap (f : Fields)
  /-- Returns from firmware to the trapping handler group. (R430) -/
  | trapret (f : Fields)
  /-- Opens the access window on a stopped team. (R425) -/
  | hwin (f : Fields)
  /-- Reads an item of the stopped team through the window. (R427) -/
  | hwrd (f : Fields)
  /-- Writes an item of the stopped team through the window. (R428) -/
  | hwwr (f : Fields)
  /-- Ends the handler with a fix, skip, retry or kill of the stopped team. (R429) -/
  | dispose (f : Fields)
  /-- Saves a whole context. (R442) -/
  | ctxsave (f : Fields)
  /-- Releases a saved context to resume. (R443) -/
  | ctxload (f : Fields)
  /-- Drops TLB entries across the partition. (R444) -/
  | tlbinv (f : Fields)
  /-- A clause starts in a gang once its WAIT flags are free and any PARKQ queue holds data. (R38) -/
  | clauseStart (a : Agent)
  /-- A clause held on PARKQ for 4,096 cycles issues anyway. (R40) -/
  | parkqTimeout (a : Agent)
  /-- A quad splits, merges and chooses its current path at a clause boundary. (R328) -/
  | clauseBoundary (team g q : Nat)
  /-- A gang held at a RECONV clause start is released after 256 cycles. (R330) -/
  | reconvHoldTimeout (a : Agent)
  /-- A full or aged bin is drawn into a free group slot as a new group. (R334) -/
  | binDraw (team bin : Nat)
  /-- A bin aged 1,024 cycles is drawn or returns its lanes to their old groups. (R334) -/
  | binAgeExpiry (team bin : Nat)
  /-- A gang or front program held by sleepto resumes when $cyc reaches its deadline. (R344) -/
  | sleeptoWake (a : Agent)
  /-- A push to another core is delivered into the FIFO after mesh traversal. (R233) -/
  | queueDelivery (core : Nat)
  /-- A gang ready and unpicked for 1,024 cycles becomes the oldest. (R383) -/
  | gangAgePromotion (a : Agent)
  /-- The device prefetches lines, dropping and counting those outside the lease. (R112) -/
  | hardwarePrefetch (core team va : Nat)
  /-- The front thread fetches code ahead, dropping fetches outside the lease. (R347) -/
  | speculativeFetch (team va : Nat)
  /-- A rebase sweep ends and held events proceed. (R169) -/
  | rebaseSweepComplete (slice : Nat)
  /-- Each core's logical clock rises by 1 every 4 reference cycles. (R162) -/
  | ptsTick (cycles : Nat)
  /-- The walker applies a record that stayed announced for 8,192 cycles. (R407) -/
  | annWalkerApply (part ctx idx : Nat)
  /-- Load data lands in its destination and the bound flag falls. (R144) -/
  | loadReturn (op : Nat)
  /-- A store reaches home or is held tentative and its flag falls. (R158) -/
  | storeCompletion (op : Nat)
  /-- An atomic's old value lands and its flag falls. (R150) -/
  | atomicReturn (op : Nat)
  /-- A path fence finishes its write-backs and drops. (R156) -/
  | pathfenceCompletion (op : Nat)
  /-- The host-line cache holds the written-back line in M or E. (R155) -/
  | cwbCompletion (op : Nat)
  /-- The home slice answers an append grant, writing offsets and p14. (R127) -/
  | appendGrant (op : Nat)
  /-- A reservation's bytes are all written at home and SETTLED advances. (R124) -/
  | reservationComplete (part res : Nat)
  /-- A sealing page settles, becomes sealed and returns its length. (R131) -/
  | sealCompletion (op : Nat)
  /-- An engine takes the next accepted command of the partition. (R188) -/
  | copyCommandStart (part : Nat)
  /-- An engine writes one destination line and adds to the byte counter. (R197) -/
  | copyLineWrite (part cmd line : Nat)
  /-- An engine write held until QUIETEND proceeds. (R210) -/
  | shadowWriteRelease (part cmd : Nat)
  /-- A command's last write, counter addition and staging are done and its flags fall. (R200) -/
  | copyCommandCompletion (part cmd : Nat)
  /-- $cyc passes an incomplete command's promise, raising PROMISE or extending it. (R201) -/
  | promiseMiss (part cmd : Nat)
  /-- A waiting publish flips the dirty pages of a buffer in one event. (R211) -/
  | publishEvent (part cmd : Nat)
  /-- The matrix engine runs the next accepted command row by row. (R317) -/
  | matrixCommandExecute (core : Nat)
  /-- A matrix command writes its last row and its flags fall. (R317) -/
  | matrixCommandCompletion (core : Nat)
  /-- An ended team's banks are freed once commands touching them complete. (R216) -/
  | scratchBankRelease (core : Nat)
  /-- The scheduler checks, walks, pins and grants a pending launch. (R104) -/
  | launchGrant (launch : Nat)
  /-- The scheduler reads outstanding residency answers and walks again or refuses. (R458) -/
  | residencyAnswerPoll (part slot : Nat)
  /-- A lease ends, pins drop and the final launch STATE is written. (R362) -/
  | leaseEnd (launch : Nat)
  /-- An idle core pops the first fitting record and starts its team. (R358) -/
  | taskStart (part core : Nat)
  /-- A task's allowance runs out, aborting and splitting or pre-empting it. (R368) -/
  | allowanceExpiry (team : Nat)
  /-- A group whose lanes stopped at phase and whose flags are free writes its phase area. (R375) -/
  | groupArrival (team g : Nat)
  /-- A task commits, drains its operations and frees its team state. (R372) -/
  | taskEnd (team : Nat)
  /-- The handler slot starts the handler group for the next stopped team. (R422) -/
  | handlerStart (core : Nat)
  /-- A team's slice timer reaches zero and requests pre-emption or restarts. (R433) -/
  | sliceExpiry (team : Nat)
  /-- A team stopped at pre-emption points is saved or pushed back. (R435) -/
  | preemptSave (team : Nat)
  /-- Agents not stopped 24,000 cycles after a request are halted by force. (R434) -/
  | forcedSaveTimeout (team : Nat)
  /-- A saved team's resume entry is popped onto a fitting core. (R436) -/
  | teamResume (part core : Nat)
  /-- Every team and command of the context is saved and SAVED is set. (R442) -/
  | ctxsaveComplete (op : Nat)
  /-- PCMD START checks PCFG and sets the partition running. (R459) -/
  | startPart (part : Nat)
  /-- PCMD STOP halts popping and saves every context. (R460) -/
  | stopPart (part : Nat)
  /-- Drains finish, the dirty map is written and PSTATE becomes 3. (R460) -/
  | stopComplete (part : Nat)
  /-- PCMD RESET stops the partition without save and reinitialises it. (R461) -/
  | resetPart (part : Nat)
  /-- PCMD ROLLBACK returns a checkpoint-mode context to its last checkpoint. (R469) -/
  | rollback (part ctx : Nat)
  /-- PCMD CLEAR sets SUBERR to 0. (R459) -/
  | clearErr (part : Nat)
  /-- Writing LSUBDESC submits a host launch for context LSUBCTX. (R467) -/
  | lsubdescWrite (part size : Nat) (value : DWord)
  /-- Writing FREEDESC queues a free request. (R464) -/
  | freedescWrite (part size : Nat) (value : DWord)
  /-- The device serves the next free request, freeing and scrubbing its frames. (R464) -/
  | freeServe (part : Nat)
  /-- A host write to a BAR register without behaviour of its own. (R456) -/
  | registerWrite (part offset size : Nat) (value : DWord)
  /-- FM API command that changes partitions, units, windows, weights and apertures. (R455) -/
  | assign (cfg : List AssignPart)
  /-- A host CXL.mem read served at the line's home slice. (R465) -/
  | hostMemRead (part d n : Nat)
  /-- A host CXL.mem write served at the line's home slice. (R465) -/
  | hostMemWrite (part d : Nat) (bytes : List Byte)
  /-- The host-line cache answers a CXL.cache snoop. (R470) -/
  | hostSnoop (part line : Nat) (kind : Snoop) (bytes : List Byte)
  /-- A peer module's aperture access is served or refused. (R471) -/
  | peerAccessServe (part peerId peerPart o n : Nat) (req : PeerReq)
  /-- SPDM GET_VERSION on the DOE mailbox. (R472) -/
  | getVersion (ld : Option Nat)
  /-- SPDM GET_CAPABILITIES on the DOE mailbox. (R472) -/
  | getCapabilities (ld : Option Nat)
  /-- SPDM NEGOTIATE_ALGORITHMS on the DOE mailbox. (R472) -/
  | negotiateAlgorithms (ld : Option Nat)
  /-- SPDM GET_DIGESTS on the DOE mailbox. (R472) -/
  | getDigests (ld : Option Nat)
  /-- SPDM GET_CERTIFICATE on the DOE mailbox. (R472) -/
  | getCertificate (ld : Option Nat)
  /-- SPDM CHALLENGE on the DOE mailbox. (R472) -/
  | challenge (ld : Option Nat) (nonce : Nat)
  /-- SPDM GET_MEASUREMENTS returning the three measurements. (R472) -/
  | getMeasurements (ld : Option Nat) (index nonce : Nat)
  /-- DOE request returning up to 32 error records from a sequence number. (R479) -/
  | errlog (ld : Option Nat) (seq : Nat)
  /-- The management processor verifies and runs or refuses a firmware image. (R472) -/
  | firmwareImageLoad (digest sig version : Nat)
  /-- The daily patrol scrub reads a stack and corrects errors. (R474) -/
  | patrolScrub (stack : Nat)
  /-- A compute die stops answering and its partitions stop. (R480) -/
  | dieFailure (die : Nat)
  /-- The FRZ input freezes every clock of the module. (R481) -/
  | frzInput
  /-- FM API FREEZE freezes every clock of the module. (R481) -/
  | freeze
  /-- A signed debug token at power-on opens the instrument network. (R482) -/
  | debugToken (digest sig : Nat)
  /-- The Westan port reads a debug instrument while frozen. (R482) -/
  | instrumentRead (which : Instrument) (arg : Nat)
  /-- Power-on reset verifies firmware, trains and zeroes HBM and brings up the host link. (R483) -/
  | powerOn (untrained : List Nat)
  /-- A host write that unmasks an MSI-X vector whose pending bit is set sends the held interrupt. (R466) -/
  | msixVectorUnmask (part vector : Nat)
  /-- An Axeel port stops answering, so class 7 accesses that find every port of PORTS down are answered as
  uncorrectable data. (R471) -/
  | axeelPortDown (port : Nat)
  deriving DecidableEq, Repr

/-- What the machine does next: an agent issues, an event of the operation table takes place, or the host sets the mask
bit of an MSI-X vector (R466). -/
inductive Act where
  | issue (a : Agent)
  | event (i : Instr)
  | mask (part vector : Nat)
  deriving DecidableEq, Repr

end Sys2Proof
end

