-- ==== Sys2Proof/Machine/Forms.lean ====
section
/-!
DEFINITION. The opcode map as data (R44 to R50): for each instruction its OP and FN, the TYPE and
MOD values it accepts, its notes, and the operand classes its entry admits; and the checks of R51
that the word alone decides.
-/

namespace Sys2Proof

/-- TYPE code (R27). -/
def Ty.code : Ty → Nat
  | .i8 => 0 | .i16 => 1 | .i32 => 2 | .i64 => 3 | .n8 => 4 | .n16 => 5 | .n32 => 6 | .n64 => 7
  | .f16 => 8 | .bf16 => 9 | .f32 => 10 | .f64 => 11 | .b8 => 12 | .blk => 13 | .h2 => 14

/-- The type of a TYPE code; code 15 has none (R27). -/
def Ty.ofCode : Nat → Option Ty
  | 0 => some .i8 | 1 => some .i16 | 2 => some .i32 | 3 => some .i64
  | 4 => some .n8 | 5 => some .n16 | 6 => some .n32 | 7 => some .n64
  | 8 => some .f16 | 9 => some .bf16 | 10 => some .f32 | 11 => some .f64
  | 12 => some .b8 | 13 => some .blk | 14 => some .h2 | _ => none

/-- 64-bit types, whose register operands are pairs (R22). -/
def Ty.wide : Ty → Bool
  | .i64 | .n64 | .f64 => true
  | _ => false

/-- Bytes of a value of the type (R141); 64 for a block (R192). -/
def Ty.bytes : Ty → Nat
  | .i8 | .n8 | .b8 => 1
  | .i16 | .n16 | .f16 | .bf16 => 2
  | .i32 | .n32 | .f32 | .h2 => 4
  | .i64 | .n64 | .f64 => 8
  | .blk => 64

/-- Signed integer types. -/
def Ty.signed : Ty → Bool
  | .i8 | .i16 | .i32 | .i64 => true
  | _ => false

/-- Integer types (R27). -/
def Ty.isInt (t : Ty) : Bool := t.code < 8

/-- Floating-point types for R21: h2 counts as one, b8 and blk do not. -/
def Ty.isFloat : Ty → Bool
  | .f16 | .bf16 | .f32 | .f64 | .h2 => true
  | _ => false

/-- CACHE code (R28). -/
def Cache.code : Cache → BitVec 2
  | .near => 0 | .far => 1 | .stream => 2 | .nowhere => 3

/-- The CACHE of a code (R28). -/
def Cache.ofCode (c : BitVec 2) : Cache :=
  match c.toNat with
  | 0 => .near | 1 => .far | 2 => .stream | _ => .nowhere

/-- FN of an atomic operation (R49). -/
def AOp.code : AOp → Nat
  | .fadd => 0 | .fmin => 1 | .fmax => 2 | .fand => 3 | .fior => 4 | .fxor => 5 | .xchg => 6
  | .cas => 7

/-- The atomic operation of an FN (R49); FN 8 and above are illegal. -/
def AOp.ofCode : Nat → Option AOp
  | 0 => some .fadd | 1 => some .fmin | 2 => some .fmax | 3 => some .fand
  | 4 => some .fior | 5 => some .fxor | 6 => some .xchg | 7 => some .cas | _ => none

/-- Index of a special register in class 0b10 (R20). -/
def Sreg.index : Sreg → Nat
  | .laneid => 256 | .groupid => 257 | .teamid => 258 | .coreid => 259 | .clusterid => 260
  | .ctx => 261 | .part => 262 | .pix => 263 | .cyc => 264 | .cychi => 265 | .dq => 266
  | .dom i => 272 + i.val

/-- The special register of an index, for the indices R20 lists. -/
def Sreg.ofIndex (n : Nat) : Option Sreg :=
  match n with
  | 256 => some .laneid | 257 => some .groupid | 258 => some .teamid | 259 => some .coreid
  | 260 => some .clusterid | 261 => some .ctx | 262 => some .part | 263 => some .pix
  | 264 => some .cyc | 265 => some .cychi | 266 => some .dq
  | 272 => some (.dom 0) | 273 => some (.dom 1) | 274 => some (.dom 2)
  | 275 => some (.dom 3) | 276 => some (.dom 4) | 277 => some (.dom 5)
  | _ => none

/-- An operand field of a class and an index (R18). -/
def opcode11 (cls idx : Nat) : BitVec 11 := BitVec.ofNat 11 (cls * 512 + idx)

/-- The 11 bits of an operand (R18 to R21). -/
def Opnd.code : Opnd → BitVec 11
  | .v n => opcode11 0 n.toNat
  | .s n => opcode11 1 n.toNat
  | .q n => opcode11 2 n.toNat
  | .g n => opcode11 2 (16 + n.toNat)
  | .p n => opcode11 2 (32 + n.toNat)
  | .k n => opcode11 2 (64 + n.toNat)
  | .spec r => opcode11 2 r.index
  | .immL => opcode11 3 0
  | .immS x => opcode11 3 (256 + x.toNat)

/-- The named register of a class 0b10 index (R19, R20). -/
def namedOfIndex (i : Nat) : Option Opnd :=
  if i < 16 then some (.q (BitVec.ofNat 4 i))
  else if i < 32 then some (.g (BitVec.ofNat 4 (i - 16)))
  else if i < 48 then some (.p (BitVec.ofNat 4 (i - 32)))
  else if i < 64 then none
  else if i < 128 then some (.k (BitVec.ofNat 6 (i - 64)))
  else (Sreg.ofIndex i).map .spec

/-- The operand of 11 bits, where class and index are legal (R18 to R21). -/
def Opnd.ofCode (c : BitVec 11) : Option Opnd :=
  let i := c.toNat % 512
  match c.toNat / 512 with
  | 0 => some (.v (BitVec.ofNat 9 i))
  | 1 => if i < 128 then some (.s (BitVec.ofNat 7 i)) else none
  | 2 => namedOfIndex i
  | _ =>
    if i = 0 then some .immL
    else if 256 ≤ i then some (.immS (BitVec.ofNat 8 (i - 256)))
    else none

/-- Operand classes that an entry admits. `spec` is a `$` register other than a 64-bit `$cyc`,
`cyc` that 64-bit pair, `pix` the destination of `swr`, `p15` the detached destination of `ann`. -/
inductive Cls where
  | v | s | q | g | p | k | spec | cyc | immS | immL | pix | p15
  deriving DecidableEq, Repr

/-- What an entry admits in one operand field. No class at all means that the field is unused and
must be zero (R23). `al` is the number that a lane register's index must be a multiple of. -/
structure OpSpec where
  cls : List Cls
  wide : Bool
  al : Nat
  deriving DecidableEq, Repr

/-- A field that the form does not use. -/
def unused : OpSpec := ⟨[], false, 1⟩

/-- A 32-bit source of R244. -/
def src32 : OpSpec := ⟨[.v, .s, .k, .q, .p, .spec, .immS, .immL], false, 1⟩

/-- A source at the width of a TYPE (R244): pairs and `$cyc` when that is 64 bits. -/
def srcT (t : Ty) : OpSpec :=
  if t.wide then ⟨[.v, .s, .k, .cyc, .immS, .immL], true, 1⟩ else src32

/-- A 32-bit third source (R244): never an immediate. -/
def thr32 : OpSpec := ⟨[.v, .s, .k, .q, .p, .spec], false, 1⟩

/-- A third source at the width of a TYPE (R244). -/
def thrT (t : Ty) : OpSpec := if t.wide then ⟨[.v, .s, .k, .cyc], true, 1⟩ else thr32

/-- A 32-bit destination of R244. -/
def dst32 : OpSpec := ⟨[.v, .s, .k, .q, .p], false, 1⟩

/-- A destination at the width of a TYPE (R244). -/
def dstT (t : Ty) : OpSpec := if t.wide then ⟨[.v, .s, .k], true, 1⟩ else dst32

/-- The wide values of `bpack` and `bunpack`: four registers for f32, two for f16 and bf16
(R276, R278). -/
def blockRegs (t : Ty) : OpSpec := ⟨[.v], false, if t = .f32 then 4 else 2⟩

/-- A register operand of `mma` (R315). -/
def matRegs (_mod : BitVec 3) : OpSpec := ⟨[.v], false, 16⟩

/-- Destination of `cvt` (R273): a pair for a 64-bit TYPE and for the two halves of an h2 source. -/
def cvtDst (src t : Ty) : OpSpec :=
  if t.wide || src = .h2 then ⟨[.v, .s], true, 1⟩ else ⟨[.v, .s, .q, .p], false, 1⟩

/-- Source of `cvt` (R273, R274): a register pair or `$cyc`, never an immediate, for `cvt.f32.h2`. -/
def cvtSrc (src t : Ty) : OpSpec :=
  if t = .h2 then ⟨[.v, .s, .cyc], true, 1⟩ else srcT src

/-- The accumulator of `mma` (R317, R321): a scalar register. -/
def accReg : OpSpec := ⟨[.s], false, 1⟩

def tyNone : List Ty := [.i8]
def tyIW : List Ty := [.i32, .i64, .n32, .n64]
def tyIS : List Ty := [.i32, .i64]
def tyIN : List Ty := [.n32, .n64]
def tyN32 : List Ty := [.n32]
def tyFV : List Ty := [.f16, .bf16, .f32, .f64, .h2]
def tyFT : List Ty := [.f16, .f32, .h2]
def tyFD : List Ty := [.h2, .bf16]
def tyFW : List Ty := [.f16, .bf16, .f32]
def tyRD : List Ty := [.i32, .i64, .n32, .n64, .f32]
def tyMW : List Ty :=
  [.i8, .i16, .i32, .i64, .n8, .n16, .n32, .n64, .f16, .bf16, .f32, .f64, .b8, .h2]
def tyEW : List Ty := [.n8, .n16, .n32, .n64, .blk]
def tyCF : List Ty := [.n8, .n16, .n32, .n64]
def tyBK : List Ty := [.blk]
def tyMC : List Ty := [.f16, .bf16, .f32, .b8]

/-- TYPE of an atomic form (R45, R49): f32 only with `fadd`, `fmin` and `fmax`. -/
def atTys : AOp → List Ty
  | .fadd | .fmin | .fmax => [.i32, .i64, .n32, .n64, .f32]
  | _ => tyIW

/-- TYPE of a `cvt` from a source type (R48, R274): not the source itself, and h2 only with f32. -/
def cvtTys (src : Ty) : List Ty :=
  match src with
  | .h2 => [.f32]
  | .b8 | .blk => []
  | .f32 => [.i8, .i16, .i32, .i64, .n8, .n16, .n32, .n64, .f16, .bf16, .f64, .h2]
  | _ =>
    ([.i8, .i16, .i32, .i64, .n8, .n16, .n32, .n64, .f16, .bf16, .f32, .f64] : List Ty).filter
      (· ≠ src)

/-- Level below which a form is illegal (R47, R421). -/
inductive Level where
  | lane | handler | firmware
  deriving DecidableEq, Repr

/-- How a form uses IMM when no operand is a long immediate. -/
inductive ImmUse where
  | zero | branch | own
  deriving DecidableEq, Repr

/-- One row of the opcode map (R48) with the operand classes of the form's entry. -/
structure Form where
  op : Nat
  fn : Nat
  tys : List Ty := tyNone
  mods : List Nat := [0]
  dst : OpSpec := unused
  sa : OpSpec := unused
  sb : OpSpec := unused
  third : OpSpec := unused
  long : Bool := false
  ends : Bool := false
  uni : Bool := false
  mem : Bool := false
  frontOnly : Bool := false
  front : Bool := true
  dstRead : Bool := false
  level : Level := .lane
  immUse : ImmUse := .zero
  deriving DecidableEq, Repr

/-- The opcode map: the form of each instruction; an event has none. -/
def form : Instr → Option Form
  | .nop _ => some { op := 0x00, fn := 0x00 }
  | .bra _ => some { op := 0x00, fn := 0x01, ends := true, immUse := .branch }
  | .brx _ => some { op := 0x00, fn := 0x02, sa := ⟨[.s, .k], true, 1⟩, ends := true }
  | .jmpx _ => some { op := 0x00, fn := 0x03, sa := ⟨[.v, .s, .k], true, 1⟩, ends := true }
  | .call _ => some { op := 0x00, fn := 0x04, ends := true, immUse := .branch }
  | .callx _ => some { op := 0x00, fn := 0x05, sa := ⟨[.v, .s, .k], true, 1⟩, ends := true }
  | .ret _ => some { op := 0x00, fn := 0x06, ends := true }
  | .exitLane _ => some { op := 0x00, fn := 0x07, ends := true }
  | .reform _ => some {
      op := 0x00, fn := 0x08, sa := ⟨[.v, .s], true, 1⟩, ends := true,
      front := false, immUse := .own }
  | .regang _ => some { op := 0x00, fn := 0x09, front := false }
  | .yieldGang _ => some { op := 0x00, fn := 0x0A }
  | .sleepto _ => some { op := 0x00, fn := 0x0B, sa := ⟨[.v, .s, .k, .cyc], true, 1⟩ }
  | .ipref _ => some { op := 0x00, fn := 0x0C, sa := ⟨[.v, .s, .k], true, 1⟩, immUse := .own }
  | .decide _ => some {
      op := 0x00, fn := 0x0D, sa := ⟨[.k, .immS, .immL], false, 1⟩,
      frontOnly := true }
  | .bru _ => some {
      op := 0x00, fn := 0x0E, sa := ⟨[.k], false, 1⟩, ends := true,
      frontOnly := true, immUse := .branch }
  | .fork _ => some {
      op := 0x00, fn := 0x0F, dst := ⟨[.k], false, 1⟩,
      sa := ⟨[.k, .immS], false, 1⟩, sb := ⟨[.k, .immS], false, 1⟩, frontOnly := true,
      immUse := .branch }
  | .add f => some {
      op := 0x10, fn := 0x00, tys := tyIW, mods := [0, 1], dst := (dstT f.ty),
      sa := (srcT f.ty), sb := (srcT f.ty) }
  | .sub f => some {
      op := 0x10, fn := 0x01, tys := tyIW, mods := [0, 1], dst := (dstT f.ty),
      sa := (srcT f.ty), sb := (srcT f.ty) }
  | .addc f => some {
      op := 0x10, fn := 0x02, tys := tyIW, dst := (dstT f.ty), sa := (srcT f.ty),
      sb := (srcT f.ty) }
  | .mul f => some {
      op := 0x10, fn := 0x03, tys := tyIW, dst := (dstT f.ty), sa := (srcT f.ty),
      sb := (srcT f.ty) }
  | .mulhi f => some {
      op := 0x10, fn := 0x04, tys := tyIW, dst := (dstT f.ty), sa := (srcT f.ty),
      sb := (srcT f.ty) }
  | .mad f => some {
      op := 0x10, fn := 0x05, tys := tyIW, mods := [0, 1], dst := (dstT f.ty),
      sa := (srcT f.ty), sb := (srcT f.ty), third := (thrT f.ty) }
  | .madhi f => some {
      op := 0x10, fn := 0x06, tys := tyIW, dst := (dstT f.ty), sa := (srcT f.ty),
      sb := (srcT f.ty), third := (thrT f.ty) }
  | .min f => some {
      op := 0x10, fn := 0x07, tys := tyIW, dst := (dstT f.ty), sa := (srcT f.ty),
      sb := (srcT f.ty) }
  | .max f => some {
      op := 0x10, fn := 0x08, tys := tyIW, dst := (dstT f.ty), sa := (srcT f.ty),
      sb := (srcT f.ty) }
  | .abs f => some {
      op := 0x10, fn := 0x09, tys := tyIS, mods := [0, 1], dst := (dstT f.ty),
      sa := (srcT f.ty) }
  | .neg f => some {
      op := 0x10, fn := 0x0A, tys := tyIS, mods := [0, 1], dst := (dstT f.ty),
      sa := (srcT f.ty) }
  | .andb f => some {
      op := 0x11, fn := 0x00, tys := tyIN, dst := (dstT f.ty), sa := (srcT f.ty),
      sb := (srcT f.ty) }
  | .orb f => some {
      op := 0x11, fn := 0x01, tys := tyIN, dst := (dstT f.ty), sa := (srcT f.ty),
      sb := (srcT f.ty) }
  | .xorb f => some {
      op := 0x11, fn := 0x02, tys := tyIN, dst := (dstT f.ty), sa := (srcT f.ty),
      sb := (srcT f.ty) }
  | .notb f => some { op := 0x11, fn := 0x03, tys := tyIN, dst := (dstT f.ty), sa := (srcT f.ty) }
  | .andn f => some {
      op := 0x11, fn := 0x04, tys := tyIN, dst := (dstT f.ty), sa := (srcT f.ty),
      sb := (srcT f.ty) }
  | .shl f => some {
      op := 0x11, fn := 0x05, tys := tyIN, dst := (dstT f.ty), sa := (srcT f.ty),
      sb := src32 }
  | .shr f => some {
      op := 0x11, fn := 0x06, tys := tyIN, dst := (dstT f.ty), sa := (srcT f.ty),
      sb := src32 }
  | .sar f => some {
      op := 0x11, fn := 0x07, tys := tyIS, dst := (dstT f.ty), sa := (srcT f.ty),
      sb := src32 }
  | .rol f => some {
      op := 0x11, fn := 0x08, tys := tyIN, dst := (dstT f.ty), sa := (srcT f.ty),
      sb := src32 }
  | .bfx f => some {
      op := 0x12, fn := 0x00, tys := tyIW, dst := (dstT f.ty), sa := (srcT f.ty),
      sb := src32, third := thr32 }
  | .bfi f => some {
      op := 0x12, fn := 0x01, tys := tyIN, dst := (dstT f.ty), sa := (srcT f.ty),
      sb := (srcT f.ty), third := thr32 }
  | .popc f => some { op := 0x12, fn := 0x02, tys := tyIN, dst := dst32, sa := (srcT f.ty) }
  | .clz f => some { op := 0x12, fn := 0x03, tys := tyIN, dst := dst32, sa := (srcT f.ty) }
  | .ctz f => some { op := 0x12, fn := 0x04, tys := tyIN, dst := dst32, sa := (srcT f.ty) }
  | .brev f => some { op := 0x12, fn := 0x05, tys := tyIN, dst := (dstT f.ty), sa := (srcT f.ty) }
  | .bperm _ => some { op := 0x12, fn := 0x06, tys := tyN32, dst := dst32, sa := src32, sb := src32 }
  | .sel f => some {
      op := 0x20, fn := 0x00, tys := tyIN, dst := (dstT f.ty), sa := (srcT f.ty),
      sb := (srcT f.ty), front := false, third := thr32 }
  | .setp f => some {
      op := 0x20, fn := 0x01, tys := tyIW, mods := [0, 1, 2, 3, 4, 5], dst := dst32,
      sa := (srcT f.ty), sb := (srcT f.ty), front := false }
  | .pand _ => some {
      op := 0x20, fn := 0x02, dst := ⟨[.p], false, 1⟩, sa := ⟨[.p], false, 1⟩,
      sb := ⟨[.p], false, 1⟩, front := false }
  | .por _ => some {
      op := 0x20, fn := 0x03, dst := ⟨[.p], false, 1⟩, sa := ⟨[.p], false, 1⟩,
      sb := ⟨[.p], false, 1⟩, front := false }
  | .pxor _ => some {
      op := 0x20, fn := 0x04, dst := ⟨[.p], false, 1⟩, sa := ⟨[.p], false, 1⟩,
      sb := ⟨[.p], false, 1⟩, front := false }
  | .pnot _ => some {
      op := 0x20, fn := 0x05, dst := ⟨[.p], false, 1⟩, sa := ⟨[.p], false, 1⟩,
      front := false }
  | .mov f => some { op := 0x21, fn := 0x00, tys := tyIN, dst := (dstT f.ty), sa := (srcT f.ty) }
  | .movi _ => some {
      op := 0x21, fn := 0x01, mods := [0, 1], dst := ⟨[.v, .s, .k], true, 1⟩,
      immUse := .own }
  | .lea _ => some {
      op := 0x21, fn := 0x02, dst := ⟨[.v, .s, .k], true, 1⟩,
      sa := ⟨[.v, .s, .k], true, 1⟩, sb := ⟨[.v, .s, .k, .immS, .immL], false, 1⟩ }
  | .srd _ => some { op := 0x21, fn := 0x03, dst := dst32, sa := src32, uni := true, front := false }
  | .swr _ => some { op := 0x21, fn := 0x04, dst := ⟨[.pix], false, 1⟩, sa := src32, front := false }
  | .fadd f => some {
      op := 0x30, fn := 0x00, tys := tyFV, mods := [0, 1, 2, 3], dst := (dstT f.ty),
      sa := (srcT f.ty), sb := (srcT f.ty), front := false }
  | .fsub f => some {
      op := 0x30, fn := 0x01, tys := tyFV, mods := [0, 1, 2, 3], dst := (dstT f.ty),
      sa := (srcT f.ty), sb := (srcT f.ty), front := false }
  | .fmul f => some {
      op := 0x30, fn := 0x02, tys := tyFV, mods := [0, 1, 2, 3], dst := (dstT f.ty),
      sa := (srcT f.ty), sb := (srcT f.ty), front := false }
  | .ffma f => some {
      op := 0x30, fn := 0x03, tys := tyFV, mods := [0, 1, 2, 3], dst := (dstT f.ty),
      sa := (srcT f.ty), sb := (srcT f.ty), front := false, third := (thrT f.ty) }
  | .fmin f => some {
      op := 0x30, fn := 0x04, tys := tyFV, dst := (dstT f.ty), sa := (srcT f.ty),
      sb := (srcT f.ty), front := false }
  | .fmax f => some {
      op := 0x30, fn := 0x05, tys := tyFV, dst := (dstT f.ty), sa := (srcT f.ty),
      sb := (srcT f.ty), front := false }
  | .fneg f => some {
      op := 0x30, fn := 0x06, tys := tyFV, dst := (dstT f.ty), sa := (srcT f.ty),
      front := false }
  | .fsetp f => some {
      op := 0x30, fn := 0x07, tys := tyFV, mods := [0, 1, 2, 3, 4, 5, 6, 7],
      dst := dst32, sa := (srcT f.ty), sb := (srcT f.ty), front := false }
  | .fclass f => some {
      op := 0x30, fn := 0x08, tys := tyFV, dst := dst32, sa := (srcT f.ty),
      front := false }
  | .frnd f => some {
      op := 0x30, fn := 0x09, tys := tyFV, mods := [0, 1, 2, 3], dst := (dstT f.ty),
      sa := (srcT f.ty), front := false }
  | .fscale f => some {
      op := 0x30, fn := 0x0A, tys := tyFV, mods := [0, 1, 2, 3],
      dst := (dstT f.ty), sa := (srcT f.ty), sb := src32, front := false }
  | .fdot2 _ => some {
      op := 0x30, fn := 0x0B, tys := tyFD, mods := [0, 1, 2, 3], dst := dst32,
      sa := src32, sb := src32, front := false, third := thr32 }
  | .frcp f => some {
      op := 0x40, fn := 0x00, tys := tyFT, dst := (dstT f.ty), sa := (srcT f.ty),
      front := false }
  | .frsq f => some {
      op := 0x40, fn := 0x01, tys := tyFT, dst := (dstT f.ty), sa := (srcT f.ty),
      front := false }
  | .fsqrt f => some {
      op := 0x40, fn := 0x02, tys := tyFV, mods := [0, 1, 2, 3],
      dst := (dstT f.ty), sa := (srcT f.ty), front := false }
  | .fexp2 f => some {
      op := 0x40, fn := 0x03, tys := tyFT, dst := (dstT f.ty), sa := (srcT f.ty),
      front := false }
  | .flog2 f => some {
      op := 0x40, fn := 0x04, tys := tyFT, dst := (dstT f.ty), sa := (srcT f.ty),
      front := false }
  | .fsin f => some {
      op := 0x40, fn := 0x05, tys := tyFT, dst := (dstT f.ty), sa := (srcT f.ty),
      front := false }
  | .fcos f => some {
      op := 0x40, fn := 0x06, tys := tyFT, dst := (dstT f.ty), sa := (srcT f.ty),
      front := false }
  | .ftanh f => some {
      op := 0x40, fn := 0x07, tys := tyFT, dst := (dstT f.ty), sa := (srcT f.ty),
      front := false }
  | .cvt src f => some {
      op := 0x50, fn := src.code, tys := (cvtTys src),
      mods := [0, 1, 2, 3, 4, 5, 6, 7], dst := (cvtDst src f.ty), sa := (cvtSrc src f.ty),
      front := false }
  | .cvt8 _ => some {
      op := 0x51, fn := 0x00, tys := tyFW, mods := [0, 1, 2, 3, 4, 5, 6, 7],
      dst := dst32, sa := src32, sb := ⟨[.v, .s, .q, .immS, .immL], false, 1⟩, front := false }
  | .bpack f => some {
      op := 0x51, fn := 0x01, tys := tyFW, mods := [0, 1, 2, 3, 4, 5, 6, 7],
      dst := ⟨[.v], false, 1⟩, sa := (blockRegs f.ty), sb := ⟨[.v, .s, .immS, .immL], false, 1⟩,
      front := false }
  | .bunpack f => some {
      op := 0x51, fn := 0x02, tys := tyFW, dst := (blockRegs f.ty),
      sa := ⟨[.v, .s, .q], false, 1⟩, sb := ⟨[.v, .s, .immS, .immL], false, 1⟩, front := false }
  | .bscale _ => some { op := 0x51, fn := 0x03, dst := dst32, sa := src32, sb := src32, front := false }
  | .btagr _ => some {
      op := 0x51, fn := 0x04, dst := ⟨[.v, .s], false, 1⟩,
      sa := ⟨[.v, .s], true, 1⟩, sb := ⟨[.v, .s, .immS, .immL], false, 1⟩, long := true,
      mem := true, front := false }
  | .btagw _ => some {
      op := 0x51, fn := 0x05, dst := ⟨[.v, .s], false, 1⟩,
      sa := ⟨[.v, .s], true, 1⟩, sb := ⟨[.v, .s, .immS, .immL], false, 1⟩, long := true,
      mem := true, front := false, dstRead := true }
  | .shfl f => some {
      op := 0x60, fn := 0x00, tys := tyIN, mods := [0, 1, 2, 3], dst := (dstT f.ty),
      sa := (srcT f.ty), sb := src32, front := false }
  | .vote _ => some {
      op := 0x60, fn := 0x01, mods := [0, 1, 2], dst := dst32, sa := src32,
      uni := true, front := false }
  | .ballot _ => some { op := 0x60, fn := 0x02, dst := dst32, sa := src32, uni := true, front := false }
  | .redadd f => some {
      op := 0x60, fn := 0x03, tys := tyRD, dst := (dstT f.ty), sa := (srcT f.ty),
      uni := true, front := false }
  | .redmax f => some {
      op := 0x60, fn := 0x04, tys := tyRD, dst := (dstT f.ty), sa := (srcT f.ty),
      uni := true, front := false }
  | .scan f => some {
      op := 0x60, fn := 0x05, tys := tyRD, mods := [0, 1, 2, 3, 4, 5],
      dst := (dstT f.ty), sa := (srcT f.ty), front := false }
  | .lds f => some {
      op := 0x70, fn := 0x00, tys := tyMW, dst := ⟨[.v, .s], f.ty.wide, 1⟩,
      sa := ⟨[.v, .s], false, 1⟩, sb := ⟨[.v, .s, .immS, .immL], false, 1⟩, front := false }
  | .sts f => some {
      op := 0x70, fn := 0x01, tys := tyMW, dst := ⟨[.v, .s], f.ty.wide, 1⟩,
      sa := ⟨[.v, .s], false, 1⟩, sb := ⟨[.v, .s, .immS, .immL], false, 1⟩, front := false,
      dstRead := true }
  | .bankmode _ => some {
      op := 0x70, fn := 0x02, dst := ⟨[.k], false, 1⟩,
      sa := ⟨[.k, .immS, .immL], false, 1⟩, sb := ⟨[.immS], false, 1⟩, long := true,
      frontOnly := true }
  | .qcfg _ => some {
      op := 0x70, fn := 0x03, dst := ⟨[.k], false, 1⟩,
      sa := ⟨[.k, .immS, .immL], false, 1⟩, sb := ⟨[.k], false, 1⟩, frontOnly := true }
  | .qstat _ => some {
      op := 0x70, fn := 0x04, dst := ⟨[.v, .s, .p, .q], false, 1⟩,
      sa := ⟨[.v, .s, .p, .spec, .immS, .immL], false, 1⟩, uni := true, front := false }
  | .qdrain _ => some {
      op := 0x70, fn := 0x05, dst := ⟨[.v, .s, .p, .q], false, 1⟩,
      sa := src32, sb := ⟨[.immS], false, 1⟩, long := true, front := false }
  | .atoms op f => some {
      op := 0x71, fn := op.code, tys := (atTys op),
      dst := ⟨[.v, .s], f.ty.wide, 1⟩, sa := ⟨[.v, .s], false, 1⟩,
      sb := ⟨[.v, .s, .immS, .immL], f.ty.wide, 1⟩, front := false,
      third := (if op = .cas then ⟨[.v, .s], f.ty.wide, 1⟩ else unused) }
  | .ld f => some {
      op := 0x80, fn := 0x00, tys := tyMW, dst := ⟨[.v, .s, .k], f.ty.wide, 1⟩,
      sa := ⟨[.v, .s, .k], true, 1⟩, sb := ⟨[.v, .s, .k, .immS, .immL], false, 1⟩, long := true,
      mem := true }
  | .st f => some {
      op := 0x80, fn := 0x01, tys := tyMW, dst := ⟨[.v, .s, .k], f.ty.wide, 1⟩,
      sa := ⟨[.v, .s, .k], true, 1⟩, sb := ⟨[.v, .s, .k, .immS, .immL], false, 1⟩, long := true,
      mem := true, dstRead := true }
  | .ldc f => some {
      op := 0x80, fn := 0x02, tys := tyMW, dst := ⟨[.v, .s, .k], f.ty.wide, 1⟩,
      sa := ⟨[.v, .s, .k], true, 1⟩, sb := ⟨[.v, .s, .k, .immS, .immL], false, 1⟩, long := true,
      mem := true }
  | .ldt f => some {
      op := 0x80, fn := 0x03, tys := tyMW, dst := ⟨[.v, .s], f.ty.wide, 1⟩,
      sa := ⟨[.v, .s], true, 1⟩, sb := ⟨[.v, .s, .immS, .immL], false, 1⟩, long := true,
      mem := true, front := false }
  | .pref _ => some {
      op := 0x80, fn := 0x04, sa := ⟨[.v, .s, .k], true, 1⟩,
      sb := ⟨[.v, .s, .k, .immS, .immL], false, 1⟩, mem := true }
  | .pathfence _ => some {
      op := 0x80, fn := 0x05, mods := [1, 2, 3, 4, 5, 6, 7], long := true,
      front := false }
  | .probe _ => some {
      op := 0x80, fn := 0x06, dst := ⟨[.v, .s], false, 1⟩,
      sa := ⟨[.v, .s], true, 1⟩, sb := ⟨[.v, .s, .immS, .immL], false, 1⟩, long := true,
      mem := true, front := false }
  | .cwb _ => some {
      op := 0x80, fn := 0x07, sa := ⟨[.v, .s], true, 1⟩,
      sb := ⟨[.v, .s, .immS, .immL], false, 1⟩, long := true, mem := true, front := false }
  | .atom op f => some {
      op := 0x81, fn := op.code, tys := (atTys op),
      dst := ⟨[.v, .s, .k], f.ty.wide, 1⟩, sa := ⟨[.v, .s, .k], true, 1⟩,
      sb := ⟨[.v, .s, .k, .immS, .immL], f.ty.wide, 1⟩, long := true, mem := true,
      third := (if op = .cas then ⟨[.v, .s, .k], f.ty.wide, 1⟩ else unused) }
  | .appendRow _ => some {
      op := 0x90, fn := 0x00, dst := ⟨[.v, .s], false, 1⟩,
      sa := ⟨[.s], true, 1⟩, sb := ⟨[.v, .s, .immS], false, 1⟩, long := true, front := false,
      immUse := .own }
  | .tailr _ => some {
      op := 0x90, fn := 0x01, dst := ⟨[.v, .s, .p, .q], false, 1⟩,
      sa := ⟨[.v, .s], true, 1⟩, sb := src32, long := true,
      uni := true, front := false }
  | .sealPage _ => some {
      op := 0x90, fn := 0x02, dst := ⟨[.v, .s, .p, .q], false, 1⟩,
      sa := ⟨[.v, .s], true, 1⟩, sb := src32, long := true,
      front := false }
  | .sealq _ => some {
      op := 0x90, fn := 0x03, dst := ⟨[.v, .s, .p, .q], false, 1⟩,
      sa := ⟨[.v, .s], true, 1⟩, sb := src32, long := true,
      uni := true, front := false }
  | .cpy _ => some {
      op := 0xA0, fn := 0x00, dst := ⟨[.v, .s, .k], true, 1⟩,
      sa := ⟨[.v, .s, .k, .immS, .immL], false, 1⟩, long := true }
  | .cpy2d _ => some {
      op := 0xA0, fn := 0x01, dst := ⟨[.v, .s, .k], true, 1⟩,
      sa := ⟨[.v, .s, .k, .immS, .immL], false, 1⟩, long := true }
  | .gather _ => some {
      op := 0xA0, fn := 0x02, tys := tyEW, dst := ⟨[.v, .s, .k], true, 1⟩,
      sa := ⟨[.v, .s, .k, .immS, .immL], false, 1⟩, long := true }
  | .scatter _ => some {
      op := 0xA0, fn := 0x03, tys := tyEW, dst := ⟨[.v, .s, .k], true, 1⟩,
      sa := ⟨[.v, .s, .k, .immS, .immL], false, 1⟩, long := true }
  | .cfill _ => some {
      op := 0xA0, fn := 0x04, tys := tyCF, dst := ⟨[.v, .s, .k], true, 1⟩,
      sa := ⟨[.v, .s, .k, .immS, .immL], false, 1⟩, long := true }
  | .publish _ => some {
      op := 0xA0, fn := 0x05, dst := ⟨[.v, .s, .k], false, 1⟩,
      sa := ⟨[.v, .s, .k], true, 1⟩, long := true }
  | .pstat _ => some {
      op := 0xA0, fn := 0x06, dst := ⟨[.v, .s, .q, .k], false, 1⟩,
      sa := src32, uni := true }
  | .gset _ => some {
      op := 0xB0, fn := 0x00, dst := ⟨[.g], false, 1⟩,
      sa := ⟨[.v, .s, .k, .immS, .immL], false, 1⟩ }
  | .garm _ => some {
      op := 0xB0, fn := 0x01, dst := ⟨[.g], false, 1⟩,
      sa := ⟨[.v, .s, .k, .immS, .immL], false, 1⟩ }
  | .sign _ => some { op := 0xB0, fn := 0x02, dst := ⟨[.g], false, 1⟩, long := true, dstRead := true }
  | .gstat _ => some {
      op := 0xB0, fn := 0x03, dst := ⟨[.v, .s, .q, .k], false, 1⟩,
      sa := ⟨[.g], false, 1⟩, uni := true }
  | .mmaRr f => some {
      op := 0xB1, fn := 0x00, tys := tyBK, mods := [0, 1, 2, 3], dst := accReg,
      sa := (matRegs f.mod), sb := (matRegs f.mod), long := true, front := false, dstRead := true }
  | .mmaRs f => some {
      op := 0xB1, fn := 0x01, tys := tyBK, mods := [0, 1, 2, 3], dst := accReg,
      sa := (matRegs f.mod), sb := ⟨[.s], true, 1⟩, long := true, front := false, dstRead := true }
  | .mmaSr f => some {
      op := 0xB1, fn := 0x02, tys := tyBK, mods := [0, 1, 2, 3], dst := accReg,
      sa := ⟨[.s], true, 1⟩, sb := (matRegs f.mod), long := true, front := false, dstRead := true }
  | .mmaSs _ => some {
      op := 0xB1, fn := 0x03, tys := tyBK, mods := [0, 1, 2, 3],
      dst := ⟨[.s, .k], false, 1⟩, sa := ⟨[.s, .k], true, 1⟩, sb := ⟨[.s, .k], true, 1⟩,
      long := true, dstRead := true }
  | .mzero _ => some {
      op := 0xB2, fn := 0x00, dst := ⟨[.s, .k], false, 1⟩, long := true,
      dstRead := true }
  | .mscale _ => some {
      op := 0xB2, fn := 0x01, dst := ⟨[.s, .k], false, 1⟩,
      sa := src32, long := true, dstRead := true }
  | .mcvt _ => some {
      op := 0xB2, fn := 0x02, tys := tyMC, mods := [0, 1, 2, 3, 4, 5, 6, 7],
      dst := ⟨[.s, .k], true, 1⟩, sa := ⟨[.s, .k], false, 1⟩,
      sb := ⟨[.v, .s, .k, .immS, .immL], false, 1⟩, long := true, dstRead := true }
  | .launch _ => some { op := 0xC0, fn := 0x00, sa := ⟨[.v, .s, .k], true, 1⟩, long := true }
  | .spawn _ => some {
      op := 0xC0, fn := 0x01, sa := ⟨[.v, .s, .q, .k, .immS, .immL], false, 1⟩,
      long := true }
  | .phase _ => some {
      op := 0xC0, fn := 0x02, sa := ⟨[.s, .immS], true, 1⟩, ends := true,
      front := false, immUse := .branch }
  | .taskend _ => some { op := 0xC0, fn := 0x03, ends := true, front := false }
  | .commit _ => some { op := 0xC0, fn := 0x04 }
  | .alloc _ => some {
      op := 0xC0, fn := 0x05, sa := ⟨[.v, .s, .immS, .immL], false, 1⟩,
      sb := ⟨[.immS], false, 1⟩, front := false }
  | .claim _ => some {
      op := 0xC0, fn := 0x06, sa := ⟨[.v, .s, .immS, .immL], false, 1⟩,
      ends := true, front := false }
  | .releaseRegs _ => some {
      op := 0xC0, fn := 0x07, sa := ⟨[.v, .s, .immS, .immL], false, 1⟩,
      front := false }
  | .ann op f => some {
      op := 0xD0, fn := op.code, tys := (atTys op),
      dst := ⟨[.v, .s, .k, .p15], false, 1⟩, sa := ⟨[.v, .s, .k], true, 1⟩,
      sb := ⟨[.v, .s, .k, .immS, .immL], f.ty.wide, 1⟩, long := true,
      third := (if op = .cas then ⟨[.v, .s, .k], f.ty.wide, 1⟩ else unused) }
  | .helpObj _ => some {
      op := 0xD1, fn := 0x00, dst := ⟨[.v, .s, .q, .k], false, 1⟩,
      sa := ⟨[.v, .s, .k], true, 1⟩, long := true }
  | .collect _ => some {
      op := 0xD1, fn := 0x01, dst := ⟨[.v, .s, .k], true, 1⟩,
      sa := src32, long := true }
  | .annq _ => some {
      op := 0xD1, fn := 0x02, dst := ⟨[.v, .s, .q, .k], false, 1⟩,
      sa := src32, long := true, uni := true }
  | .bcas _ => some {
      op := 0xD1, fn := 0x03, tys := tyIW, dst := ⟨[.v, .s, .q, .k], false, 1⟩,
      sa := ⟨[.v, .s, .k], true, 1⟩, sb := ⟨[.v, .s, .k], true, 1⟩, long := true,
      third := ⟨[.v, .s, .k], false, 1⟩ }
  | .trap _ => some { op := 0xE0, fn := 0x00, sa := ⟨[.v, .s, .k, .immS, .immL], false, 1⟩ }
  | .trapret _ => some { op := 0xE0, fn := 0x01, ends := true, front := false, level := .handler }
  | .hwin _ => some {
      op := 0xE0, fn := 0x02, dst := ⟨[.v, .s], false, 1⟩,
      sa := ⟨[.v, .s, .immS, .immL], false, 1⟩, front := false, level := .handler }
  | .hwrd _ => some {
      op := 0xE0, fn := 0x03, dst := ⟨[.v, .s], false, 1⟩,
      sa := ⟨[.v, .s, .immS, .immL], false, 1⟩, front := false, level := .handler }
  | .hwwr _ => some {
      op := 0xE0, fn := 0x04, sa := ⟨[.v, .s, .immS, .immL], false, 1⟩,
      sb := ⟨[.v, .s, .immS, .immL], false, 1⟩, front := false, level := .handler }
  | .dispose _ => some {
      op := 0xE0, fn := 0x05, sa := ⟨[.immS], false, 1⟩, ends := true,
      front := false, level := .handler }
  | .ctxsave _ => some {
      op := 0xE0, fn := 0x06, dst := ⟨[.v, .s], false, 1⟩,
      sa := ⟨[.v, .s, .immS, .immL], false, 1⟩, long := true, front := false, level := .firmware }
  | .ctxload _ => some {
      op := 0xE0, fn := 0x07, dst := ⟨[.v, .s], false, 1⟩,
      sa := ⟨[.v, .s, .immS, .immL], false, 1⟩, long := true, front := false, level := .firmware }
  | .tlbinv _ => some {
      op := 0xE0, fn := 0x08, sa := ⟨[.s], true, 1⟩,
      sb := ⟨[.v, .s, .immS, .immL], false, 1⟩, long := true, front := false, level := .firmware }
  | .clauseStart _ => none
  | .parkqTimeout _ => none
  | .clauseBoundary _ _ _ => none
  | .reconvHoldTimeout _ => none
  | .binDraw _ _ => none
  | .binAgeExpiry _ _ => none
  | .sleeptoWake _ => none
  | .queueDelivery _ => none
  | .gangAgePromotion _ => none
  | .hardwarePrefetch _ _ _ => none
  | .speculativeFetch _ _ => none
  | .rebaseSweepComplete _ => none
  | .ptsTick _ => none
  | .annWalkerApply _ _ _ => none
  | .loadReturn _ => none
  | .storeCompletion _ => none
  | .atomicReturn _ => none
  | .pathfenceCompletion _ => none
  | .cwbCompletion _ => none
  | .appendGrant _ => none
  | .reservationComplete _ _ => none
  | .sealCompletion _ => none
  | .copyCommandStart _ => none
  | .copyLineWrite _ _ _ => none
  | .shadowWriteRelease _ _ => none
  | .copyCommandCompletion _ _ => none
  | .promiseMiss _ _ => none
  | .publishEvent _ _ => none
  | .matrixCommandExecute _ => none
  | .matrixCommandCompletion _ => none
  | .scratchBankRelease _ => none
  | .launchGrant _ => none
  | .residencyAnswerPoll _ _ => none
  | .leaseEnd _ => none
  | .taskStart _ _ => none
  | .allowanceExpiry _ => none
  | .groupArrival _ _ => none
  | .taskEnd _ => none
  | .handlerStart _ => none
  | .sliceExpiry _ => none
  | .preemptSave _ => none
  | .forcedSaveTimeout _ => none
  | .teamResume _ _ => none
  | .ctxsaveComplete _ => none
  | .startPart _ => none
  | .stopPart _ => none
  | .stopComplete _ => none
  | .resetPart _ => none
  | .rollback _ _ => none
  | .clearErr _ => none
  | .lsubdescWrite _ _ _ => none
  | .freedescWrite _ _ _ => none
  | .freeServe _ => none
  | .registerWrite _ _ _ _ => none
  | .assign _ => none
  | .hostMemRead _ _ _ => none
  | .hostMemWrite _ _ _ => none
  | .hostSnoop _ _ _ _ => none
  | .peerAccessServe _ _ _ _ _ _ => none
  | .getVersion _ => none
  | .getCapabilities _ => none
  | .negotiateAlgorithms _ => none
  | .getDigests _ => none
  | .getCertificate _ => none
  | .challenge _ _ => none
  | .getMeasurements _ _ _ => none
  | .errlog _ _ => none
  | .firmwareImageLoad _ _ _ => none
  | .patrolScrub _ => none
  | .dieFailure _ => none
  | .frzInput => none
  | .freeze => none
  | .debugToken _ _ => none
  | .instrumentRead _ _ => none
  | .powerOn _ => none
  | .msixVectorUnmask _ _ => none
  | .axeelPortDown _ => none

/-- The fields of an instruction; an event has none. -/
def fields : Instr → Option Fields
  | .nop f => some f
  | .bra f => some f
  | .brx f => some f
  | .jmpx f => some f
  | .call f => some f
  | .callx f => some f
  | .ret f => some f
  | .exitLane f => some f
  | .reform f => some f
  | .regang f => some f
  | .yieldGang f => some f
  | .sleepto f => some f
  | .ipref f => some f
  | .decide f => some f
  | .bru f => some f
  | .fork f => some f
  | .add f => some f
  | .sub f => some f
  | .addc f => some f
  | .mul f => some f
  | .mulhi f => some f
  | .mad f => some f
  | .madhi f => some f
  | .min f => some f
  | .max f => some f
  | .abs f => some f
  | .neg f => some f
  | .andb f => some f
  | .orb f => some f
  | .xorb f => some f
  | .notb f => some f
  | .andn f => some f
  | .shl f => some f
  | .shr f => some f
  | .sar f => some f
  | .rol f => some f
  | .bfx f => some f
  | .bfi f => some f
  | .popc f => some f
  | .clz f => some f
  | .ctz f => some f
  | .brev f => some f
  | .bperm f => some f
  | .sel f => some f
  | .setp f => some f
  | .pand f => some f
  | .por f => some f
  | .pxor f => some f
  | .pnot f => some f
  | .mov f => some f
  | .movi f => some f
  | .lea f => some f
  | .srd f => some f
  | .swr f => some f
  | .fadd f => some f
  | .fsub f => some f
  | .fmul f => some f
  | .ffma f => some f
  | .fmin f => some f
  | .fmax f => some f
  | .fneg f => some f
  | .fsetp f => some f
  | .fclass f => some f
  | .frnd f => some f
  | .fscale f => some f
  | .fdot2 f => some f
  | .frcp f => some f
  | .frsq f => some f
  | .fsqrt f => some f
  | .fexp2 f => some f
  | .flog2 f => some f
  | .fsin f => some f
  | .fcos f => some f
  | .ftanh f => some f
  | .cvt _ f => some f
  | .cvt8 f => some f
  | .bpack f => some f
  | .bunpack f => some f
  | .bscale f => some f
  | .btagr f => some f
  | .btagw f => some f
  | .shfl f => some f
  | .vote f => some f
  | .ballot f => some f
  | .redadd f => some f
  | .redmax f => some f
  | .scan f => some f
  | .lds f => some f
  | .sts f => some f
  | .bankmode f => some f
  | .qcfg f => some f
  | .qstat f => some f
  | .qdrain f => some f
  | .atoms _ f => some f
  | .ld f => some f
  | .st f => some f
  | .ldc f => some f
  | .ldt f => some f
  | .pref f => some f
  | .pathfence f => some f
  | .probe f => some f
  | .cwb f => some f
  | .atom _ f => some f
  | .appendRow f => some f
  | .tailr f => some f
  | .sealPage f => some f
  | .sealq f => some f
  | .cpy f => some f
  | .cpy2d f => some f
  | .gather f => some f
  | .scatter f => some f
  | .cfill f => some f
  | .publish f => some f
  | .pstat f => some f
  | .gset f => some f
  | .garm f => some f
  | .sign f => some f
  | .gstat f => some f
  | .mmaRr f => some f
  | .mmaRs f => some f
  | .mmaSr f => some f
  | .mmaSs f => some f
  | .mzero f => some f
  | .mscale f => some f
  | .mcvt f => some f
  | .launch f => some f
  | .spawn f => some f
  | .phase f => some f
  | .taskend f => some f
  | .commit f => some f
  | .alloc f => some f
  | .claim f => some f
  | .releaseRegs f => some f
  | .ann _ f => some f
  | .helpObj f => some f
  | .collect f => some f
  | .annq f => some f
  | .bcas f => some f
  | .trap f => some f
  | .trapret f => some f
  | .hwin f => some f
  | .hwrd f => some f
  | .hwwr f => some f
  | .dispose f => some f
  | .ctxsave f => some f
  | .ctxload f => some f
  | .tlbinv f => some f
  | .clauseStart _ => none
  | .parkqTimeout _ => none
  | .clauseBoundary _ _ _ => none
  | .reconvHoldTimeout _ => none
  | .binDraw _ _ => none
  | .binAgeExpiry _ _ => none
  | .sleeptoWake _ => none
  | .queueDelivery _ => none
  | .gangAgePromotion _ => none
  | .hardwarePrefetch _ _ _ => none
  | .speculativeFetch _ _ => none
  | .rebaseSweepComplete _ => none
  | .ptsTick _ => none
  | .annWalkerApply _ _ _ => none
  | .loadReturn _ => none
  | .storeCompletion _ => none
  | .atomicReturn _ => none
  | .pathfenceCompletion _ => none
  | .cwbCompletion _ => none
  | .appendGrant _ => none
  | .reservationComplete _ _ => none
  | .sealCompletion _ => none
  | .copyCommandStart _ => none
  | .copyLineWrite _ _ _ => none
  | .shadowWriteRelease _ _ => none
  | .copyCommandCompletion _ _ => none
  | .promiseMiss _ _ => none
  | .publishEvent _ _ => none
  | .matrixCommandExecute _ => none
  | .matrixCommandCompletion _ => none
  | .scratchBankRelease _ => none
  | .launchGrant _ => none
  | .residencyAnswerPoll _ _ => none
  | .leaseEnd _ => none
  | .taskStart _ _ => none
  | .allowanceExpiry _ => none
  | .groupArrival _ _ => none
  | .taskEnd _ => none
  | .handlerStart _ => none
  | .sliceExpiry _ => none
  | .preemptSave _ => none
  | .forcedSaveTimeout _ => none
  | .teamResume _ _ => none
  | .ctxsaveComplete _ => none
  | .startPart _ => none
  | .stopPart _ => none
  | .stopComplete _ => none
  | .resetPart _ => none
  | .rollback _ _ => none
  | .clearErr _ => none
  | .lsubdescWrite _ _ _ => none
  | .freedescWrite _ _ _ => none
  | .freeServe _ => none
  | .registerWrite _ _ _ _ => none
  | .assign _ => none
  | .hostMemRead _ _ _ => none
  | .hostMemWrite _ _ _ => none
  | .hostSnoop _ _ _ _ => none
  | .peerAccessServe _ _ _ _ _ _ => none
  | .getVersion _ => none
  | .getCapabilities _ => none
  | .negotiateAlgorithms _ => none
  | .getDigests _ => none
  | .getCertificate _ => none
  | .challenge _ _ => none
  | .getMeasurements _ _ _ => none
  | .errlog _ _ => none
  | .firmwareImageLoad _ _ _ => none
  | .patrolScrub _ => none
  | .dieFailure _ => none
  | .frzInput => none
  | .freeze => none
  | .debugToken _ _ => none
  | .instrumentRead _ _ => none
  | .powerOn _ => none
  | .msixVectorUnmask _ _ => none
  | .axeelPortDown _ => none

/-- The third source, laid out in IMM[10:0] (R18). -/
def Fields.third (f : Fields) : Option Opnd := Opnd.ofCode (f.imm.extractLsb' 0 11)

/-- Why a word is not an instruction: each raises ILLEGAL (R51). -/
inductive Illegal where
  /-- OP or FN that the map does not list, or OP 0xFF in a slot (R33, R48, R49). -/
  | unlisted
  /-- TYPE 15, or outside the form's set (R27). -/
  | badType
  /-- MOD outside the form's set (R46). -/
  | badMod
  /-- A nonzero CACHE on a form that is not M (R29). -/
  | badCache
  /-- An illegal class or index, or a class the entry does not admit (R18 to R21). -/
  | badOperand
  /-- An odd or misaligned register of a multi-register operand (R22). -/
  | badPair
  /-- A scalar destination that R24 does not allow. -/
  | badScalar
  /-- A nonzero unused field (R23). -/
  | unusedField
  /-- A value of IMM or of a short immediate that the entry excludes. -/
  | badValue
  deriving DecidableEq, Repr

/-- The class of an operand read at a width. -/
def Opnd.cls (o : Opnd) (wide : Bool) : Cls :=
  match o with
  | .v _ => .v | .s _ => .s | .q _ => .q | .g _ => .g | .p _ => .p | .k _ => .k
  | .spec .cyc => if wide then .cyc else .spec
  | .spec _ => .spec
  | .immL => .immL | .immS _ => .immS

/-- Whether an operand field holds an operand that its specification admits (R18, R22, R23). -/
def checkOpnd (sp : OpSpec) (o : Opnd) : Option Illegal :=
  if sp.cls = [] then (if o = .v 0 then none else some .unusedField)
  else if sp.cls.contains .pix then (if o = .spec .pix then none else some .badOperand)
  else if o = .p 15 && sp.cls.contains .p15 then none
  else if !sp.cls.contains (o.cls sp.wide) then some .badOperand
  else
    match o with
    | .v n => if (sp.wide && n.toNat % 2 ≠ 0) || n.toNat % sp.al ≠ 0 then some .badPair else none
    | .s n => if sp.wide && n.toNat % 2 ≠ 0 then some .badPair else none
    | .spec r => if sp.wide && r ≠ .cyc then some .badPair else none
    | _ => none

/-- A source that lets R24 write a scalar: a scalar, a `$` register or an immediate. -/
def Opnd.uniform : Opnd → Bool
  | .s _ | .spec _ | .immL | .immS _ => true
  | _ => false

/-- R24: a scalar destination needs a U form or only uniform sources. -/
def scalarOk (fm : Form) (f : Fields) : Bool :=
  match f.dst with
  | .s _ =>
    fm.dstRead || fm.uni ||
      ((fm.sa.cls = [] || f.sa.uniform) && (fm.sb.cls = [] || f.sb.uniform) &&
        (fm.third.cls = [] || (f.third.map Opnd.uniform).getD false))
  | _ => true

/-- IMM under R18, R21 and R23: the value of a long immediate, a third source with IMM[31:11]
zero, a use of the entry's own, or zero. -/
def checkImm (fm : Form) (f : Fields) : Option Illegal :=
  let long := f.sa = .immL || f.sb = .immL
  if fm.third.cls ≠ [] then
    if long then some .badOperand
    else if f.imm.toNat ≥ 2048 then some .unusedField
    else
      match f.third with
      | none => some .badOperand
      | some o => checkOpnd fm.third o
  else if fm.immUse ≠ .zero then (if long then some .badOperand else none)
  else if long then none
  else if f.imm = 0 then none else some .unusedField

/-- A short immediate's raw value (R21). -/
def shortVal (x : BitVec 8) : Int := x.toInt

/-- Values that an entry excludes, beyond classes: R128, R225, R236, R345, R341, R351, R374, R379,
R429. -/
def checkValue (i : Instr) : Option Illegal :=
  let bad (b : Bool) : Option Illegal := if b then some .badValue else none
  let zeroS (o : Opnd) : Bool := match o with | .immS x => x ≠ 0 | _ => false
  let overS (o : Opnd) (n : Nat) : Bool := match o with | .immS x => decide (x.toNat > n) | _ => false
  match i with
  | .appendRow f => bad (f.imm.toNat = 0 || f.imm.toNat % 4 ≠ 0 || f.imm.toNat > 4096)
  | .bankmode f => bad (overS f.sb 2)
  | .qdrain f => bad (overS f.sb 15)
  | .ipref f =>
    bad (f.imm.toNat % 65536 = 0 || f.imm.toNat % 65536 > 4096 ||
      f.imm.toNat / 65536 % 4 = 3 || f.imm.toNat / 262144 ≠ 0)
  | .reform f => bad (f.imm.toNat = 0 || f.imm.toNat > 512)
  | .fork f => bad (zeroS f.sa || zeroS f.sb)
  | .phase f => bad (zeroS f.sa)
  | .alloc f => bad (overS f.sb 1)
  | .dispose f => bad (overS f.sa 3)
  | _ => none

/-- The checks of R51 that the word alone decides, in the order of its list; the checks that depend
on the issuer (level, front thread, window, slot) are made when it issues. -/
def staticCheck (i : Instr) : Option Illegal :=
  match form i, fields i with
  | some fm, some f =>
    if !fm.tys.contains f.ty then some .badType
    else if !fm.mods.contains f.mod.toNat then some .badMod
    else if f.cache ≠ .near && !fm.mem then some .badCache
    else
      (checkOpnd fm.dst f.dst) <|> (checkOpnd fm.sa f.sa) <|> (checkOpnd fm.sb f.sb) <|>
        (checkImm fm f) <|> (if scalarOk fm f then none else some .badScalar) <|> checkValue i
  | _, _ => none

end Sys2Proof
end

