-- ==== Sys2Proof/Machine/Float.lean ====
section
/-!
DEFINITION. Number formats (R261 to R272) and floating-point arithmetic (R285 to R294): exact values,
one rounding, and the special values.
-/

namespace Sys2Proof.Machine

/-- An exact value: ±m·2^e, an infinity or a NaN. -/
inductive FVal where
  | nan
  | inf (neg : Bool)
  | fin (neg : Bool) (m : Nat) (e : Int)
  deriving DecidableEq, Repr

/-- How a format spells its special values. -/
inductive FStyle where
  | ieee | finite | extended
  deriving DecidableEq, Repr

/-- A floating-point format: exponent bits, trailing bits, bias, whether it has a sign. -/
structure Fmt where
  ebits : Nat
  mbits : Nat
  bias : Nat
  signed : Bool
  style : FStyle
  deriving DecidableEq, Repr

/-- The wide formats (R266). -/
def Fmt.f16 : Fmt := ⟨5, 10, 15, true, .ieee⟩
def Fmt.bf16 : Fmt := ⟨8, 7, 127, true, .ieee⟩
def Fmt.f32 : Fmt := ⟨8, 23, 127, true, .ieee⟩
def Fmt.f64 : Fmt := ⟨11, 52, 1023, true, .ieee⟩

/-- The binary8 format of a format byte (R261, R262, R268). -/
def Fmt.b8 (code : Nat) : Option Fmt :=
  let p := code % 16
  match code / 16 with
  | 1 => if 1 ≤ p && p ≤ 7 then some ⟨8 - p, p - 1, 2 ^ (7 - p), true, .finite⟩ else none
  | 2 => if 1 ≤ p && p ≤ 7 then some ⟨8 - p, p - 1, 2 ^ (7 - p), true, .extended⟩ else none
  | 3 => if 1 ≤ p && p ≤ 8 then some ⟨9 - p, p - 1, 2 ^ (8 - p), false, .finite⟩ else none
  | 4 => if 1 ≤ p && p ≤ 8 then some ⟨9 - p, p - 1, 2 ^ (8 - p), false, .extended⟩ else none
  | _ => none

/-- Bits of a code without its sign. -/
def Fmt.magBits (f : Fmt) : Nat := f.ebits + f.mbits

/-- The sign bit's weight; 0 for an unsigned format. -/
def Fmt.signBit (f : Fmt) : Nat := if f.signed then 2 ^ f.magBits else 0

/-- Magnitude code of the largest finite value (R263, R264). -/
def Fmt.maxCode (f : Fmt) : Nat :=
  match f.style, f.signed with
  | .ieee, _ => (2 ^ f.ebits - 1) * 2 ^ f.mbits - 1
  | .finite, true => 2 ^ f.magBits - 1
  | .extended, true => 2 ^ f.magBits - 2
  | .finite, false => 2 ^ f.magBits - 2
  | .extended, false => 2 ^ f.magBits - 3

/-- The NaN of a format (R262, R266). -/
def Fmt.nanCode (f : Fmt) : Nat :=
  match f.style, f.signed with
  | .ieee, _ => (2 ^ f.ebits - 1) * 2 ^ f.mbits + 2 ^ (f.mbits - 1)
  | _, true => f.signBit
  | _, false => 2 ^ f.magBits - 1

/-- The infinity of a format, the NaN where it has none. -/
def Fmt.infCode (f : Fmt) (neg : Bool) : Nat :=
  match f.style with
  | .finite => f.nanCode
  | _ => f.maxCode + 1 + (if neg then f.signBit else 0)

/-- Exponent of the smallest normal value. -/
def Fmt.emin (f : Fmt) : Int := 1 - f.bias

/-- Value of a magnitude code read without regard to special codes. -/
def Fmt.magVal (f : Fmt) (neg : Bool) (c : Nat) : FVal :=
  let e := c / 2 ^ f.mbits
  let m := c % 2 ^ f.mbits
  if e = 0 then (if f.mbits = 0 then .fin neg 0 0 else .fin neg m (f.emin - f.mbits))
  else .fin neg (2 ^ f.mbits + m) (e - f.bias - f.mbits)

/-- The exact value of a code (R261, R262, R266). -/
def Fmt.decode (f : Fmt) (c : Nat) : FVal :=
  let c := c % 2 ^ (f.magBits + (if f.signed then 1 else 0))
  let neg : Bool := f.signed && decide (2 ^ f.magBits ≤ c)
  let mag := c % 2 ^ f.magBits
  match f.style with
  | .ieee =>
    if mag / 2 ^ f.mbits = 2 ^ f.ebits - 1 then (if mag % 2 ^ f.mbits = 0 then .inf neg else .nan)
    else f.magVal neg mag
  | _ =>
    if c = f.nanCode then .nan
    else if f.style = .extended && mag = f.maxCode + 1 then .inf neg
    else f.magVal neg mag

/-! ## Rounding (R270, R271) -/

/-- Whether a truncated magnitude grows by one unit: `odd` its low bit, `cmp` the remainder against
half a unit, `ex` whether there is a remainder. -/
def roundUp (mode : Nat) (neg odd : Bool) (cmp : Ordering) (ex : Bool) : Bool :=
  match mode with
  | 0 => (match cmp with | .lt => false | .gt => true | .eq => odd)
  | 1 => false
  | 2 => neg && ex
  | _ => !neg && ex

/-- Integer part of m/2^k, the remainder compared with one half, and whether there is one. -/
def cutAt (m k : Nat) : Nat × Ordering × Bool :=
  if k = 0 then (m, .lt, false)
  else if Nat.log2 m + 2 ≤ k then (0, .lt, decide (m ≠ 0))
  else
    let r := m % 2 ^ k
    (m / 2 ^ k, compare r (2 ^ (k - 1)), decide (r ≠ 0))

/-- The magnitude code that a nonzero m·2^e rounds to, with no limit above. -/
def Fmt.roundMag (f : Fmt) (mode : Nat) (neg : Bool) (m : Nat) (e : Int) : Nat :=
  if m = 0 then 0
  else
    let top : Int := Nat.log2 m + e
    let lead : Int := if top < f.emin then f.emin else top
    let q : Int := lead - f.mbits
    let (n, cmp, ex) : Nat × Ordering × Bool :=
      if q ≤ e then (m * 2 ^ (e - q).toNat, .lt, false) else cutAt m (q - e).toNat
    let code := (lead - f.emin).toNat * 2 ^ f.mbits + n
    if roundUp mode neg (code % 2 = 1) cmp ex then code + 1 else code

/-- An overflow goes to infinity (R271). -/
def toInf (mode : Nat) (neg : Bool) : Bool :=
  match mode with
  | 0 => true
  | 1 => false
  | 2 => neg
  | _ => !neg

/-- A value rounded to a format (R270, R271). -/
def Fmt.round (f : Fmt) (mode : Nat) (sat : Bool) (v : FVal) : Nat :=
  let sgn (neg : Bool) : Nat := if neg then f.signBit else 0
  match v with
  | .nan => f.nanCode
  | .inf neg =>
    if neg && !f.signed then (if sat then 0 else f.nanCode)
    else if sat then f.maxCode + sgn neg else f.infCode neg
  | .fin neg m e =>
    let c := f.roundMag mode neg m e
    if c = 0 then (if f.style = .ieee then sgn neg else 0)
    else if neg && !f.signed then (if sat then 0 else f.nanCode)
    else if c ≤ f.maxCode then c + sgn neg
    else if sat || !toInf mode neg then f.maxCode + sgn neg
    else f.infCode neg

/-- A value rounded to an integer (R270); a NaN or an infinity has none. -/
def roundInt (mode : Nat) (neg : Bool) (m : Nat) (e : Int) : Int :=
  let (n, cmp, ex) : Nat × Ordering × Bool :=
    if 0 ≤ e then (m * 2 ^ e.toNat, .lt, false) else cutAt m (-e).toNat
  let n := if roundUp mode neg (n % 2 = 1) cmp ex then n + 1 else n
  if neg then -(n : Int) else n

/-- The value of an integer. -/
def FVal.ofInt (i : Int) : FVal := .fin (decide (i < 0)) i.natAbs 0

/-- A value multiplied by 2^n. -/
def FVal.scale (v : FVal) (n : Int) : FVal :=
  match v with
  | .fin s m e => .fin s m (e + n)
  | v => v

/-- An integer limited to a range. -/
def clampInt (lo hi x : Int) : Int := if x < lo then lo else if hi < x then hi else x

/-- A value limited to an integer range under R272. -/
def FVal.toIntSat (v : FVal) (mode : Nat) (lo hi : Int) : Int :=
  match v with
  | .nan => 0
  | .inf neg => if neg then lo else hi
  | .fin neg m e =>
    if m ≠ 0 && 200 < (Nat.log2 m : Int) + e then (if neg then lo else hi)
    else clampInt lo hi (roundInt mode neg m e)

/-! ## Arithmetic (R286, R287) -/

/-- A value with its sign inverted. -/
def FVal.negate : FVal → FVal
  | .nan => .nan
  | .inf n => .inf (!n)
  | .fin n m e => .fin (!n) m e

/-- Exact product (R286). -/
def FVal.mul : FVal → FVal → FVal
  | .nan, _ => .nan
  | _, .nan => .nan
  | .inf a, .inf b => .inf (a.xor b)
  | .inf a, .fin b m _ => if m = 0 then .nan else .inf (a.xor b)
  | .fin a m _, .inf b => if m = 0 then .nan else .inf (a.xor b)
  | .fin a m e, .fin b n k => .fin (a.xor b) (m * n) (e + k)

/-- The signed mantissa of a value at an exponent not above its own. -/
def FVal.at (v : FVal) (e : Int) : Int :=
  match v with
  | .fin n m k => if n then -((m * 2 ^ (k - e).toNat : Nat) : Int) else ((m * 2 ^ (k - e).toNat : Nat) : Int)
  | _ => 0

/-- The exponent of a nonzero finite value. -/
def FVal.expo? : FVal → Option Int
  | .fin _ m e => if m = 0 then none else some e
  | _ => none

/-- Whether a value is a zero of a sign. -/
def FVal.isZeroOf (neg : Bool) : FVal → Bool
  | .fin n m _ => m = 0 && n = neg
  | _ => false

/-- Exact sum of terms, with the sign of a zero sum (R286). -/
def sumV (mode : Nat) (l : List FVal) : FVal :=
  if l.contains .nan then .nan
  else if l.contains (.inf false) then (if l.contains (.inf true) then .nan else .inf false)
  else if l.contains (.inf true) then .inf true
  else
    match l.filterMap FVal.expo? with
    | [] =>
      if l.all (FVal.isZeroOf true) then .fin true 0 0
      else if l.all (FVal.isZeroOf false) then .fin false 0 0
      else .fin (decide (mode = 2)) 0 0
    | e :: es =>
      let lo := es.foldl (fun a b => if b < a then b else a) e
      let x := (l.map fun v => match v.expo? with | none => 0 | some _ => v.at lo).foldl (· + ·) (0 : Int)
      if x = 0 then .fin (decide (mode = 2)) 0 0 else .fin (decide (x < 0)) x.natAbs lo

/-- a + b (R287). -/
def faddBits (f : Fmt) (mode a b : Nat) : Nat :=
  f.round mode false (sumV mode [f.decode a, f.decode b])

/-- a − b (R287). -/
def fsubBits (f : Fmt) (mode a b : Nat) : Nat :=
  f.round mode false (sumV mode [f.decode a, (f.decode b).negate])

/-- a·b (R287). -/
def fmulBits (f : Fmt) (mode a b : Nat) : Nat :=
  f.round mode false ((f.decode a).mul (f.decode b))

/-- a·b + c with one rounding (R287). -/
def ffmaBits (f : Fmt) (mode a b c : Nat) : Nat :=
  f.round mode false (sumV mode [(f.decode a).mul (f.decode b), f.decode c])

/-- Order of two values that are not NaN; zeros of both signs are equal. -/
def FVal.cmp (a b : FVal) : Ordering :=
  match a, b with
  | .inf x, .inf y => if x = y then .eq else if x then .lt else .gt
  | .inf x, _ => if x then .lt else .gt
  | _, .inf y => if y then .gt else .lt
  | a, b =>
    match a.expo?, b.expo? with
    | none, none => .eq
    | some e, none => compare (a.at e) 0
    | none, some e => compare 0 (b.at e)
    | some e, some k =>
      let lo := if e < k then e else k
      compare (a.at lo) (b.at lo)

/-- The sign of a value. -/
def FVal.isNeg : FVal → Bool
  | .nan => false
  | .inf n => n
  | .fin n _ _ => n

/-- The lesser or the greater of two codes, with −0 below +0 and the NaN rules (R151, R288). -/
def fminmax (f : Fmt) (wantMax : Bool) (a b : Nat) : Nat :=
  match f.decode a, f.decode b with
  | .nan, .nan => f.nanCode
  | .nan, _ => b
  | _, .nan => a
  | x, y =>
    let aLess : Bool := match x.cmp y with | .lt => true | .gt => false | .eq => x.isNeg || !y.isNeg
    if aLess.xor wantMax then a else b

/-- fcmp relations 0 to 7 of MOD (R46, R289). -/
def fcmpHolds (rel : Nat) (a b : FVal) : Bool :=
  let un : Bool := a = .nan || b = .nan
  let o := a.cmp b
  match rel with
  | 0 => !un && o = .eq
  | 1 => !un && o ≠ .eq
  | 2 => !un && o = .lt
  | 3 => !un && o ≠ .gt
  | 4 => !un && o = .gt
  | 5 => !un && o ≠ .lt
  | 6 => !un
  | _ => un

/-- The class mask of a code of a wide format (R290). -/
def fclassBits (f : Fmt) (c : Nat) : Nat :=
  match f.decode c with
  | .nan => 256
  | .inf n => if n then 1 else 128
  | .fin n m _ =>
    let sub : Bool := c % 2 ^ f.magBits < 2 ^ f.mbits
    if m = 0 then (if n then 8 else 16)
    else if sub then (if n then 4 else 32)
    else (if n then 2 else 64)

/-- A rounded to an integral value of its format (R291). -/
def frndBits (f : Fmt) (mode a : Nat) : Nat :=
  match f.decode a with
  | .fin n m e =>
    if 0 ≤ e || m = 0 then a % 2 ^ (f.magBits + 1)
    else f.round 0 false (.fin n (roundInt mode n m e).natAbs 0)
  | v => f.round mode false v

/-- a·2^n (R291). -/
def fscaleBits (f : Fmt) (mode a : Nat) (n : Int) : Nat := f.round mode false ((f.decode a).scale n)

/-- a0·b0 + a1·b1 + c rounded once to f32 (R292). -/
def fdot2Bits (f : Fmt) (mode a b c : Nat) : Nat :=
  let lo (x : Nat) : FVal := f.decode (x % 65536)
  let hi (x : Nat) : FVal := f.decode (x / 65536 % 65536)
  Fmt.f32.round mode false
    (sumV mode [(lo a).mul (lo b), (hi a).mul (hi b), Fmt.f32.decode c])

/-! ## Square root and transcendental functions (R293, R294) -/

/-- ⌊√n⌋ by bits from 2^k down. -/
def isqrtFrom (n : Nat) : Nat → Nat → Nat
  | 0, r => if (r + 1) * (r + 1) ≤ n then r + 1 else r
  | k + 1, r =>
    let t := r + 2 ^ (k + 1)
    isqrtFrom n k (if t * t ≤ n then t else r)

/-- ⌊√n⌋. -/
def isqrt (n : Nat) : Nat := isqrtFrom n (Nat.log2 n / 2 + 1) 0

/-- A positive value with everything below one unit told by a last bit. -/
def sticky (n : Nat) (exact : Bool) (e : Int) : FVal := .fin false (2 * n + (if exact then 0 else 1)) (e - 1)

/-- √(m·2^e) to at least `bits` bits. -/
def sqrtV (m : Nat) (e : Int) (bits : Nat) : FVal :=
  let (m, e) := if e % 2 = 0 then (m, e) else (2 * m, e - 1)
  let m := m * 2 ^ (2 * bits)
  let r := isqrt m
  sticky r (r * r = m) (e / 2 - bits)

/-- Square root under a rounding mode (R293, R294). -/
def fsqrtBits (f : Fmt) (mode a : Nat) : Nat :=
  match f.decode a with
  | .nan => f.nanCode
  | .inf n => if n then f.nanCode else f.infCode false
  | .fin n m e =>
    if m = 0 then a % 2 ^ (f.magBits + 1)
    else if n then f.nanCode
    else f.round mode false (sqrtV m e (f.mbits + 4))

/-- Fractional bits of the series below. -/
def fracBits : Nat := 200

/-- ⌊ln 2 · 2^200⌋. -/
def ln2Fix : Nat := 0xb17217f7d1cf79abc9e3b39803f2f6af40f343267298b62d8a

/-- ⌊π/2 · 2^400⌋. -/
def piHalfFix : Nat := 0x1921fb54442d18469898cc51701b839a252049c1114cf98e804177d4c76273644a29410f31c6809bbdf2a33679a7486366056

/-- exp x for 0 ≤ x < 1, both at 200 fractional bits: `k` terms of the series from term `i` on. -/
def expSeries (x : Nat) : Nat → Nat → Nat → Nat → Nat
  | 0, _, _, acc => acc
  | k + 1, i, t, acc =>
    let t := t * x / (2 ^ fracBits * i)
    expSeries x k (i + 1) t (acc + t)

/-- 2^x for 0 ≤ x < 1 at 200 fractional bits. -/
def exp2Frac (x : Nat) : Nat :=
  expSeries (x * ln2Fix / 2 ^ fracBits) 60 1 (2 ^ fracBits) (2 ^ fracBits)

/-- Sum of the alternating series of sine (from i = 1) or cosine (from i = 0) in x at 200 bits. -/
def trigSeries (x2 : Nat) : Nat → Nat → Nat → Bool → Int → Int
  | 0, _, _, _, acc => acc
  | k + 1, i, t, neg, acc =>
    let acc := if neg then acc - t else acc + t
    trigSeries x2 k (i + 2) (t * x2 / (2 ^ fracBits * ((i + 1) * (i + 2)))) (!neg) acc

/-- Sine of an angle in [0, π/2) at 200 bits. -/
def sinFix (x : Nat) : Nat := (trigSeries (x * x / 2 ^ fracBits) 45 1 x false 0).toNat

/-- Cosine of an angle in [0, π/2) at 200 bits. -/
def cosFix (x : Nat) : Nat := (trigSeries (x * x / 2 ^ fracBits) 45 0 (2 ^ fracBits) false 0).toNat

/-- 2·atanh z at 200 bits for z below 1/2. -/
def atanhSeries (z2 : Nat) : Nat → Nat → Nat → Nat → Nat
  | 0, _, _, acc => 2 * acc
  | k + 1, i, t, acc => atanhSeries z2 k (i + 2) (t * z2 / 2 ^ fracBits) (acc + t / i)

/-- log2 of a mantissa m in [1, 2) given at 200 bits. -/
def log2Frac (m : Nat) : Nat :=
  let one := 2 ^ fracBits
  let z := (m - one) * one / (m + one)
  atanhSeries (z * z / one) 70 1 z 0 * one / ln2Fix

/-- x = m·2^e at 200 fractional bits, truncated. -/
def fixOf (m : Nat) (e : Int) : Nat :=
  let k := e + fracBits
  if 0 ≤ k then m * 2 ^ k.toNat else m / 2 ^ (-k).toNat

/-- 2^x for a finite x, to 200 bits below its leading one. -/
def exp2V (neg : Bool) (m : Nat) (e : Int) : FVal :=
  if m ≠ 0 && 12 < (Nat.log2 m : Int) + e then .fin false 1 (if neg then -8192 else 8192)
  else
    let x : Int := if neg then -(fixOf m e : Int) else fixOf m e
    let one : Int := ((2 ^ fracBits : Nat) : Int)
    let i := Int.fdiv x one
    let fr := (x - i * one).toNat
    if fr = 0 && (0 ≤ e + fracBits || m = 0) then .fin false 1 i
    else sticky (exp2Frac fr) false (i - fracBits)

/-- log2 x for a finite x > 0. -/
def log2V (m : Nat) (e : Int) : FVal :=
  let k : Int := Nat.log2 m + e
  let frac := log2Frac (m * 2 ^ fracBits / 2 ^ Nat.log2 m)
  let y : Int := k * ((2 ^ fracBits : Nat) : Int) + frac
  if m = 2 ^ Nat.log2 m then FVal.ofInt k
  else if y < 0 then (sticky y.natAbs false (-fracBits)).negate else sticky y.natAbs false (-fracBits)

/-- Quadrant and remainder, at 200 bits, of a finite positive angle (R293: the reduction is exact). -/
def reduceAngle (m : Nat) (e : Int) : Nat × Nat :=
  let k := e + 400
  let x := if 0 ≤ k then m * 2 ^ k.toNat else m / 2 ^ (-k).toNat
  (x / piHalfFix % 4, x % piHalfFix / 2 ^ 200)

/-- Sine of a finite positive angle. -/
def sinV (m : Nat) (e : Int) : FVal :=
  let (q, r) := reduceAngle m e
  let y := if q % 2 = 0 then sinFix r else cosFix r
  let v := sticky y false (-fracBits)
  if q ≥ 2 then v.negate else v

/-- Cosine of a finite angle. -/
def cosV (m : Nat) (e : Int) : FVal :=
  let (q, r) := reduceAngle m e
  let y := if q % 2 = 0 then cosFix r else sinFix r
  let v := sticky y false (-fracBits)
  if q = 1 || q = 2 then v.negate else v

/-- Hyperbolic tangent of a finite positive value: always below 1 and below the value, which it all but reaches where
that is tiny. -/
def tanhV (m : Nat) (e : Int) : FVal :=
  let one := 2 ^ fracBits
  if 6 < (Nat.log2 m : Int) + e then sticky (one - 1) false (-fracBits)
  else if (Nat.log2 m : Int) + e < -60 then sticky (m * 2 ^ 60 - 1) false (e - 60)
  else
    let t := 2 * fixOf m e
    let k := t / ln2Fix
    let r := t - k * ln2Fix
    let w := expSeries r 60 1 one one
    let u := one * one / w / 2 ^ k
    let q := (one - u) * one / (one + u)
    sticky (if q < one then q else one - 1) false (-fracBits)

/-- 1/(m·2^e). -/
def rcpV (m : Nat) (e : Int) : FVal :=
  let n := 2 ^ (fracBits + Nat.log2 m)
  sticky (n / m) (n % m = 0) (-e - fracBits - Nat.log2 m)

/-- 1/√(m·2^e). -/
def rsqV (m : Nat) (e : Int) : FVal :=
  let (m, e) := if e % 2 = 0 then (m, e) else (2 * m, e - 1)
  let n := 2 ^ (2 * fracBits) / m
  let r := isqrt n
  sticky r (r * r * m = 2 ^ (2 * fracBits)) (-(e / 2) - fracBits)

/-- The transcendental forms of OP 0x40, by FN. -/
inductive Transc where
  | rcp | rsq | exp2 | log2 | sin | cos | tanh
  deriving DecidableEq, Repr

/-- FN of a transcendental form (R293). -/
def Transc.fn : Transc → Nat
  | .rcp => 0 | .rsq => 1 | .exp2 => 3 | .log2 => 4 | .sin => 5 | .cos => 6 | .tanh => 7

/-- Values of special operands (R294); absent where the function's value is computed. -/
def Transc.special (t : Transc) (v : FVal) : Option FVal :=
  let zero (n : Bool) : Option FVal := some (.fin n 0 0)
  let one (n : Bool) : Option FVal := some (.fin n 1 0)
  match t, v with
  | _, .nan => some .nan
  | .rcp, .inf n => zero n
  | .rsq, .inf n => if n then some .nan else zero false
  | .exp2, .inf n => if n then zero false else some (.inf false)
  | .log2, .inf n => if n then some .nan else some (.inf false)
  | .sin, .inf _ => some .nan
  | .cos, .inf _ => some .nan
  | .tanh, .inf n => one n
  | t, .fin n m _ =>
    if m = 0 then
      match t with
      | .rcp | .rsq => some (.inf n)
      | .exp2 | .cos => one false
      | .log2 => some (.inf true)
      | .sin | .tanh => zero n
    else if n && (t = .rsq || t = .log2) then some .nan
    else none

/-- The function's value at a finite nonzero operand, with a last bit for what lies below. -/
def Transc.value (t : Transc) (neg : Bool) (m : Nat) (e : Int) : FVal :=
  let odd (v : FVal) : FVal := if neg then v.negate else v
  match t with
  | .rcp => odd (rcpV m e)
  | .rsq => rsqV m e
  | .exp2 => exp2V neg m e
  | .log2 => log2V m e
  | .sin => odd (sinV m e)
  | .cos => cosV m e
  | .tanh => odd (tanhV m e)

/-- Whether 2 to a negative integer lies under the least f32 value, 2⁻¹⁴⁹. -/
def exp2Tiny (neg : Bool) (m : Nat) (e : Int) : Bool :=
  neg && m ≠ 0 && (decide (12 < (Nat.log2 m : Int) + e) ||
    decide (149 < (if 0 ≤ e then m * 2 ^ e.toNat else m / 2 ^ (-e).toNat)))

/-- The operands at which R293 makes an f32 result exact: those whose exact result f32 represents. -/
def Transc.exactAt (t : Transc) (neg : Bool) (m : Nat) (e : Int) : Bool :=
  let pow : Bool := m = 2 ^ Nat.log2 m
  match t with
  | .rcp | .log2 => pow
  | .exp2 => (decide (0 ≤ e) || m % 2 ^ (-e).toNat = 0) && !(exp2Tiny neg m e)
  | _ => false

/-- Whether a code lies inside the bound of R293 for a function's value at f32. -/
def Transc.within (t : Transc) (y : FVal) (c : Nat) : Bool :=
  match y, Fmt.f32.decode c with
  | .fin _ m e, .fin n m' e' =>
    let top : Int := Nat.log2 m + e
    let ulp : Int := (if top < -126 then -126 else top) - 23
    let bound : FVal := .fin false (if t = .rcp || t = .rsq then 1 else 2) ulp
    let abs : Bool := t = .log2 || t = .sin || t = .cos
    let diff := match sumV 0 [.fin n m' e', y.negate] with | .fin _ a b => FVal.fin false a b | v => v
    let unit : Bool := !(t = .sin || t = .cos) || (FVal.fin false m' e').cmp (.fin false 1 0) ≠ .gt
    unit && (diff.cmp bound ≠ .gt || (abs && diff.cmp (.fin false 1 (-22)) ≠ .gt))
  | _, _ => false

/-- A transcendental form on one code (R293, R294). At f32 the result is a free value inside the bound,
a fixed function of the source bits (log 11); at f16 it is correctly rounded. -/
def Transc.apply (t : Transc) (f : Fmt) (a : Nat) : Nat :=
  match t.special (f.decode a), f.decode a with
  | some v, _ => f.round 0 false v
  | none, .fin n m e =>
    let y := t.value n m e
    let near := f.round 0 false y
    if f = Fmt.f32 && !t.exactAt n m e then
      let c := Config.transPick t.fn (BitVec.ofNat 32 a) % 2 ^ 32
      if t.within y c then c else near
    else near
  | none, _ => f.nanCode

/-! ## Formats by type and by format byte -/

/-- The wide format of a TYPE; h2 performs f16 twice (R285). -/
def tyFmt : Ty → Option Fmt
  | .f16 | .h2 => some .f16
  | .bf16 => some .bf16
  | .f32 => some .f32
  | .f64 => some .f64
  | _ => none

/-- Width of an integer TYPE in bits. -/
def tyBits (t : Ty) : Nat := 8 * t.bytes

/-- Least and greatest values of an integer TYPE. -/
def tyRange (t : Ty) : Int × Int :=
  if t.signed then (-(2 ^ ((tyBits t) - 1) : Nat), ((2 ^ ((tyBits t) - 1) - 1 : Nat) : Int))
  else (0, ((2 ^ (tyBits t) - 1 : Nat) : Int))

/-- The two's-complement or unsigned reading of a bit pattern of a width. -/
def intOf (signed : Bool) (bits x : Nat) : Int :=
  let x := x % 2 ^ bits
  if signed && 2 ^ (bits - 1) ≤ x then (x : Int) - ((2 ^ bits : Nat) : Int) else x

/-- Low bits of an integer at a width. -/
def lowBits (bits : Nat) (x : Int) : Nat := (x % ((2 ^ bits : Nat) : Int)).toNat

/-- A value of a TYPE as a register of 32 or 64 bits holds it (R141): narrow signed integers
sign-extended, everything else zero-extended. -/
def place (t : Ty) (x : Nat) : DWord :=
  match t with
  | .i8 => ((BitVec.ofNat 8 x).signExtend 32).setWidth 64
  | .i16 => ((BitVec.ofNat 16 x).signExtend 32).setWidth 64
  | t => BitVec.ofNat 64 (x % 2 ^ (tyBits t))

/-- A short immediate converted exactly to a floating-point TYPE (R21). -/
def shortFloat (t : Ty) (x : Int) : Nat :=
  match t with
  | .h2 => let h := Fmt.f16.round 0 false (.ofInt x); h + 65536 * h
  | t => match tyFmt t with | some f => f.round 0 false (.ofInt x) | none => 0

/-- An f32 pattern converted exactly to f64 (R21). -/
def f32ToF64 (x : Nat) : Nat := Fmt.f64.round 0 false (Fmt.f32.decode x)

/-- A scalar conversion on one value (R270 to R273): from a pattern of S to a pattern of T. -/
def convert (src dst : Ty) (mode : Nat) (sat : Bool) (x : Nat) : Nat :=
  match tyFmt src, tyFmt dst with
  | none, none =>
    let v := intOf src.signed (tyBits src) x
    let r := if sat then clampInt (tyRange dst).1 (tyRange dst).2 v else v
    lowBits (tyBits dst) r
  | none, some f => f.round mode sat (.ofInt (intOf src.signed (tyBits src) x))
  | some f, none => lowBits (tyBits dst) ((f.decode x).toIntSat mode (tyRange dst).1 (tyRange dst).2)
  | some f, some g => g.round mode sat (f.decode x)

/-- The element format that a format byte names (R268). -/
inductive Elem where
  | flt (f : Fmt) (bits : Nat)
  | int (signed : Bool) (bits : Nat)
  deriving DecidableEq, Repr

/-- The element format of a format byte; absent for undescribed, poisoned and reserved bytes. -/
def elemOf (code : Nat) : Option Elem :=
  match code with
  | 0x50 => some (.int true 8)
  | 0x51 => some (.int false 8)
  | 0x52 => some (.int true 4)
  | 0x53 => some (.int false 4)
  | 0x60 => some (.flt .bf16 16)
  | 0x61 => some (.flt .f16 16)
  | c => (Fmt.b8 c).map fun f => .flt f 8

/-- Bits of an element. -/
def Elem.width : Elem → Nat
  | .flt _ b => b
  | .int _ b => b

/-- Exact value of an element code. -/
def Elem.decode : Elem → Nat → FVal
  | .flt f _, c => f.decode c
  | .int s b, c => .ofInt (intOf s b c)

/-- A value rounded to an element code (R270 to R272). -/
def Elem.encode : Elem → Nat → Bool → FVal → Nat
  | .flt f _, mode, sat, v => f.round mode sat v
  | .int s b, mode, _, v =>
    let lo : Int := if s then -((2 ^ (b - 1) : Nat) : Int) else 0
    let hi : Int := if s then ((2 ^ (b - 1) - 1 : Nat) : Int) else ((2 ^ b - 1 : Nat) : Int)
    lowBits b (v.toIntSat mode lo hi)

/-- ⌊log2⌋ of the largest finite value of an element format (R276). -/
def Elem.emax : Elem → Int
  | .flt f _ => f.emin - 1 + ((f.maxCode / 2 ^ f.mbits : Nat) : Int)
  | .int s b => ((b - 1 : Nat) : Int) - (if s then 1 else 0)

end Sys2Proof.Machine
end

