-- ==== Sys2Proof/Machine/Map.lean ====
section
/-!
DEFINITION. Sparse tables with strictly rising keys, and the canonical form of memory: no entry holds
the value that an absent key reads as.
-/

namespace Sys2Proof

/-- The entry of a key. -/
def SMap.get? {α : Type} (m : SMap α) (k : Nat) : Option α :=
  match m with
  | [] => none
  | (j, x) :: t => if j = k then some x else SMap.get? t k

/-- The entry of a key, or the value that an absent key reads as. -/
def SMap.getD {α : Type} (d : α) (m : SMap α) (k : Nat) : α := (SMap.get? m k).getD d

/-- The table with a key written. -/
def SMap.put {α : Type} (m : SMap α) (k : Nat) (x : α) : SMap α :=
  match m with
  | [] => [(k, x)]
  | (j, y) :: t =>
    if k < j then (k, x) :: (j, y) :: t
    else if k = j then (k, x) :: t
    else (j, y) :: SMap.put t k x

/-- The table without a key. -/
def SMap.del {α : Type} (m : SMap α) (k : Nat) : SMap α := m.filter fun e => decide (e.1 ≠ k)

/-- The table with a key written, holding no entry equal to the absent value `d`. -/
def SMap.putD {α : Type} [DecidableEq α] (d : α) (m : SMap α) (k : Nat) (x : α) : SMap α :=
  if x = d then SMap.del m k else SMap.put m k x

/-- The table without the keys that a test selects. -/
def SMap.drop {α : Type} (m : SMap α) (p : Nat → Bool) : SMap α := m.filter fun e => !p e.1

/-- The table with every entry rewritten. -/
def SMap.map {α : Type} (m : SMap α) (f : Nat → α → α) : SMap α := List.map (fun e => (e.1, f e.1 e.2)) m

/-- The table with an entry rewritten where it is present. -/
def SMap.modify {α : Type} (m : SMap α) (k : Nat) (f : α → α) : SMap α :=
  match SMap.get? m k with
  | none => m
  | some x => SMap.put m k (f x)

/-- The entries from one key up to another, exclusive. -/
def SMap.range {α : Type} (m : SMap α) (lo hi : Nat) : SMap α := m.filter fun e => lo ≤ e.1 && e.1 < hi

/-- Keys strictly rising and every key above `lo`. -/
def SMap.rising {α : Type} (lo : Option Nat) (m : SMap α) : Bool :=
  match m with
  | [] => true
  | (k, _) :: t => (match lo with | none => true | some l => decide (l < k)) && SMap.rising (some k) t

/-- Canonical form: keys strictly rising and no entry equal to the absent value. -/
def SMap.canon {α : Type} [DecidableEq α] (d : α) (m : SMap α) : Bool :=
  SMap.rising none m && m.all fun e => decide (e.2 ≠ d)

/-- A set of numbers in rising order: insertion. -/
def insertNat (l : List Nat) (n : Nat) : List Nat :=
  match l with
  | [] => [n]
  | x :: t => if n < x then n :: x :: t else if n = x then x :: t else x :: insertNat t n

/-- Bit `i` of a Nat. -/
def bitN (x i : Nat) : Bool := x / 2 ^ i % 2 = 1

/-- Bits [hi:lo] of a Nat. -/
def bitsN (x hi lo : Nat) : Nat := x / 2 ^ lo % 2 ^ (hi + 1 - lo)

/-- The mask of a list of bit numbers. -/
def maskOf (l : List Nat) : Nat := l.foldl (fun m i => if bitN m i then m else m + 2 ^ i) 0

/-- The 32-bit mask of a list of lanes. -/
def laneMask (l : List Nat) : BitVec 32 := BitVec.ofNat 32 (maskOf l)

/-- ⌈a/b⌉. -/
def ceilDiv (a b : Nat) : Nat := (a + b - 1) / b

/-- The lesser of two. -/
def minN (a b : Nat) : Nat := if a ≤ b then a else b

/-- The greater of two. -/
def maxN (a b : Nat) : Nat := if a ≤ b then b else a

/-- The `i`-th element rewritten. -/
def setNth {α : Type} (l : List α) (i : Nat) (x : α) : List α :=
  match l, i with
  | [], _ => []
  | _ :: t, 0 => x :: t
  | y :: t, n + 1 => y :: setNth t n x

/-- The `i`-th element rewritten by a function. -/
def modNth {α : Type} (l : List α) (i : Nat) (f : α → α) : List α :=
  match l, i with
  | [], _ => []
  | y :: t, 0 => f y :: t
  | y :: t, n + 1 => y :: modNth t n f

/-- Whether two byte ranges [a, a+m) and [b, b+n) share a byte. -/
def overlaps (a m b n : Nat) : Bool := decide (a < b + n) && decide (b < a + m)

end Sys2Proof
end

