-- ==== Sys2Proof/Machine/State.lean ====
section
/-!
DEFINITION. The whole state of the module as plain data, the reasons a step can stop, and the module
right after power-on.
-/

namespace Sys2Proof.Machine

/-- Why the model stops although the hardware may go on. It never does: the manual gives every instruction and
event an effect, and what it leaves open is a free value or a choice that the assumption log names. -/
inductive Fault where
  deriving DecidableEq, Repr

/-- Why an instruction has no meaning in a state. -/
inductive Refusal where
  /-- Raised by an arm of `exec` that has no meaning yet. Safe. -/
  | notModelled (mnemonic : String)
  /-- Raised when an instruction is executed while the state's issuing agent does not exist or stands
  in no clause: no such step of the machine exists. Safe. -/
  | noIssuer
  deriving DecidableEq, Repr

/-- Modes of a task (R363). -/
inductive Mode where
  | tentative | direct | committed
  deriving DecidableEq, Repr

/-- Levels of execution (R421). -/
inductive ExecLevel where
  | lane | handler | firmware
  deriving DecidableEq, Repr

/-- The clause that a gang or a program is issuing: its start, header, the slot of the next
instruction (1 to COUNT) and the number of L forms in the slots before it (R36). `gang` is the lowest
quad of the gang when it started. -/
structure Latch where
  gang : Nat
  start : Nat
  hdr : Header
  slot : Nat
  lcnt : Nat
  deriving DecidableEq, Repr

/-- A fault record (R419). The last four fields are the model's own: the lanes of the faulting gang,
where they go on when the instruction counts as executed, and whether the fault stood at a clause
start. -/
structure FaultRec where
  kind : Nat
  cause : Nat
  precise : Bool
  src : Nat
  unit : Nat
  mask : BitVec 32
  iaddr : Nat
  addr : Nat
  info : List Word
  newp : DWord
  lanes : BitVec 32
  next : Nat
  nbase : Nat
  atStart : Bool
  deriving DecidableEq, Repr

/-- A continuation record (R355). -/
structure TaskRec where
  jointo : Nat
  join : Nat
  cluster : Nat
  affin : Nat
  team : Nat
  slot : Nat
  groups : Nat
  prio : Nat
  rst : Nat
  direct : Bool
  later : Bool
  dom : List Word
  frame : Nat
  front : Nat
  code : Nat
  ts : Nat
  gen : Nat
  deriving DecidableEq, Repr

/-- What a lane that is not on a path of its quad is doing (R326, R374). A lane on a path is `live`:
the quad's masks tell the current path from the recorded ones. -/
inductive LaneSt where
  | live | filed | ended | arrived
  deriving DecidableEq, Repr

/-- A lane (R238, R326, R339). `base` is the start of the clause that `pc` stands in; `v` lists the
registers that are not zero. -/
structure Lane where
  pc : Nat
  base : Nat
  st : LaneSt
  v : SMap Word
  p : BitVec 15
  rsd : Nat
  tgt : Nat
  deriving DecidableEq, Repr

/-- A split record (R327); its PC is that of its lanes, and its waiting count runs from `since`. -/
structure Split where
  mask : BitVec 4
  since : Nat
  deriving DecidableEq, Repr

/-- A quad (R327 to R331). `bound` says that it stands at a clause boundary whose choice has not been made, `force`
that the choice acts as if the timer had reached 64 (R343), `parkSince` and `recSince` when a hold at a clause start
began (R40, R330), `sleep` the deadline of a `sleepto` (R344), `await` the operation whose answer holds it, `wait` the
WAIT that holds it at its clause, none of its flags where no WAIT does (R38), `age` its place in the age order and
`lastCyc` when it last issued (R383), `forced` that its agents were halted for a forced save (R434, R439). -/
structure Quad where
  cur : BitVec 4
  recs : List Split
  solo : Option Nat
  timer : Nat
  gang : Nat
  latch : Option Latch
  bound : Bool
  force : Bool
  parkSince : Option Nat
  recSince : Option Nat
  sleep : Option Nat
  await : Option Nat
  wait : BitVec 12
  age : Nat
  lastCyc : Nat
  forced : Bool
  deriving DecidableEq, Repr

/-- A group of 32 lanes. `alloc` counts the registers that the group holds of its side's pool: those of its window, and
until the commit those that a tentative `release` freed (R378, R381); `pix` is the PIX of R441 and `pixBy` the gang
that `swr` set it for; `park` the registers a parked claim asks for (R380); `dqPos` the read position
(R348); `late` the faults recorded after issue that wait for a clause boundary (R417); `atPoint` says
that it stopped for pre-emption (R434); `live` that the group exists and has not ended. -/
structure Group where
  lanes : List Lane
  quads : List Quad
  sreg : SMap Word
  flags : SMap Nat
  w : Nat
  alloc : Nat
  pix : Nat
  pixBy : Option Nat
  skid : Nat
  pfault : Option FaultRec
  late : List FaultRec
  park : Option Nat
  dqPos : Nat
  hasArrived : Bool
  live : Bool
  atPoint : Bool
  age : Nat
  deriving DecidableEq, Repr

/-- A rendezvous of a `fork` (R351): exits still due, target, largest clock so far. -/
structure Rendezvous where
  j : Nat
  target : Nat
  clk : Nat
  deriving DecidableEq, Repr

/-- A program of the front thread: a team front context or a sequencer program (R347, R352). -/
structure Prog where
  run : Bool
  pc : Nat
  base : Nat
  k : SMap DWord
  flags : SMap Nat
  latch : Option Latch
  sleep : Option Nat
  parkSince : Option Nat
  stack : List Nat
  rdv : Option Rendezvous
  clk : Nat
  late : List FaultRec
  pfault : Option FaultRec
  atPoint : Bool
  deriving DecidableEq, Repr

/-- A capability entry (R228). -/
structure Cap where
  v : Bool
  r : Bool
  w : Bool
  core : Nat
  fifo : Nat
  allow : Nat
  out : Nat
  deriving DecidableEq, Repr

/-- A filed lane (R333). -/
structure Filed where
  v : SMap Word
  p : BitVec 15
  group : Nat
  lane : Nat
  deriving DecidableEq, Repr

/-- A bin that holds lanes (R333); `since` is when its first lane was filed. -/
structure Bin where
  key : Nat
  n : Nat
  w : Nat
  since : Nat
  lanes : List Filed
  deriving DecidableEq, Repr

/-- A group's area of the phase record (R375, R377). -/
structure Area where
  w : Nat
  mask : BitVec 32
  targets : List Nat
  s : SMap Word
  v : SMap (List Word)
  deriving DecidableEq, Repr

/-- The phase record (R377). -/
structure PhaseRec where
  nfront : Nat
  arrived : BitVec 64
  live : BitVec 64
  tsmax : Nat
  phn : Nat
  frontIn : Bool
  frontDone : Bool
  areas : SMap Area
  deriving DecidableEq, Repr

/-- A FIFO entry (R227): words, mask, clock, the life and entry number that sent it, and the core it was sent from
(R439). -/
structure FEntry where
  words : List Word
  mask : BitVec 32
  clk : Nat
  life : Nat
  cap : Nat
  core : Nat
  deriving DecidableEq, Repr

/-- A FIFO (R226) with its occupied slots, oldest first. `owner` is the life that created it. -/
structure Fifo where
  owner : Nat
  bank : Nat
  base : Nat
  depth : Nat
  head : Nat
  granted : Nat
  slots : List FEntry
  deriving DecidableEq, Repr

/-- A gong (R304). `holder` is the life that holds it. -/
structure Gong where
  holder : Nat
  armed : Bool
  gen : Nat
  n : Nat
  count : Nat
  recAddr : Word
  deriving DecidableEq, Repr

/-- A line of an engine write that a tentative task has staged (R199): the line's address, the pieces of
it that are written, the tag that the block takes, whether its source could not be corrected, and the
counter addition that follows it: address (0 for none) and amount. -/
structure Staged where
  va : Nat
  parts : List (Nat × List Byte)
  tag : Option (BitVec 16)
  bad : Bool
  caddr : Nat
  cadd : Nat
  deriving DecidableEq, Repr

/-- What a stopped or stopping team is doing (R415, R433, R434). -/
inductive RunSt where
  | running
  /-- A fault or a halt was broadcast: agents stop at their next clause boundary. -/
  | halting
  /-- Pre-emption was requested at this cycle. -/
  | preempting (since : Nat)
  deriving DecidableEq, Repr

/-- How a task ends (R372, R373). -/
inductive EndKind where
  | life | phase
  deriving DecidableEq, Repr

/-- The life of a team from its first phase to its last (R372 step 4): what persists between phases. `core` holds the
banks, FIFOs and gongs; `seat` is its team front context there, 0 to 3 (R226, R304). `frames` holds the pages of its
lanes and then those of its phase record. An `ended` life keeps its banks while commands of its cluster are outstanding
(R216). -/
structure Life where
  part : Nat
  ctx : Nat
  launch : Nat
  cluster : Nat
  team : Nat
  core : Nat
  banks : List Nat
  scratch : Nat
  cap : SMap Cap
  frames : List Nat
  ngroups : Nat
  phase : PhaseRec
  ended : Bool
  seat : Nat
  deriving DecidableEq, Repr

/-- A resident team: one phase of a life (R12, R359). `tent` and `tentTags` hold the tentative bytes and tags by
physical address, `reads` the lines read tentatively with the write timestamps they saw (R158, R182), `popped` the
slots of each own FIFO that tentative pops have freed (R234), `token` the stop token of a team that waits for the
handler or is served by it (R422), `tentLeaves` the leaf entries whose D bit its commit sets (R96), `tentPairs` the
shadowed pages that its commit refreshes: descriptor, pair entry and frame 0 (R469), `tentShared` the class 2 lines it
writes tentatively (R396), `tentBy` for each line that it writes tentatively the agents' SRC, instruction address and
lanes (R160), `entry` the areas of the phase record that a later phase started from and `entryGongs` the gongs that its
life held then (R305, R376, R435), `allowOut` that the allowance ran out and pre-emption was requested for it (R368).
-/
structure Team where
  life : Nat
  core : Nat
  task : TaskRec
  mode : Mode
  gen : Nat
  groups : SMap Group
  front : Prog
  mseq : Prog
  cseq : Prog
  bins : SMap Bin
  dq : List (Word × Nat)
  dqBase : Nat
  allow : Nat
  allowOut : Bool
  slice : Nat
  run : RunSt
  fault : Option FaultRec
  token : Option Nat
  tent : SMap Byte
  tentTags : SMap (BitVec 16)
  reads : SMap Nat
  staged : List Staged
  popped : SMap Nat
  tentLeaves : List Nat
  tentPairs : List (Nat × Nat × Nat)
  tentShared : List Nat
  tentBy : SMap (List (Nat × Nat × BitVec 32))
  entry : SMap Area
  entryGongs : SMap Gong
  ending : Option EndKind
  deriving DecidableEq, Repr

/-- A saved team (R435, R439): its save slot, TST, the team, the FIFOs and gongs it held, and when it was
saved. Its scratchpad stands in the table of cores at `slotCore` of its life. -/
structure Saved where
  slot : Nat
  tst : Nat
  team : Team
  fifos : SMap Fifo
  gongs : SMap Gong
  savedAt : Nat
  deriving DecidableEq, Repr

/-- The number under which the table of cores keeps the scratchpad of a saved life: its rows in the save
slot (R439), as team banks 0 on. -/
def slotCore (life : Nat) : Nat := 384 + life

/-- Who an operation belongs to (R437): a life and generation, with the issuing agent as SRC of R419
and its quad; or the handler slot of a core. -/
structure Owner where
  life : Nat
  gen : Nat
  core : Nat
  src : Nat
  quad : Nat
  deriving DecidableEq, Repr

/-- SRC of an operation of a handler slot: the model's own number. -/
def handlerSrc : Nat := 255

/-- A register or predicate of the issuing group or program. -/
inductive RegRef where
  | v (lane n : Nat)
  | s (n : Nat)
  | p (lane n : Nat)
  | k (n : Nat)
  | q (lane n : Nat)
  deriving DecidableEq, Repr

/-- What an operation waits for before it completes. -/
inductive Wait where
  | cmd (id : Nat)
  | mat (core id : Nat)
  | res (id : Nat)
  | gong (life g round : Nat)
  deriving DecidableEq, Repr

/-- Bytes that an `append` read from scratchpad at issue: the bytes, the tag of each 64-byte row, and the
runs, offset and length, whose row could not be corrected (R127, R129). -/
structure AppendSrc where
  bytes : List Byte
  tags : List (BitVec 16)
  bad : List (Nat × Nat)
  deriving DecidableEq, Repr

/-- The request of an `append` that the home has not answered (R127): the frame as the issuer names it and where it
lies, the length, the lanes that append, the lanes that take part, what was read for each appending lane and the lives
whose scratchpad it was read from (R216), the destination, whether the page has T, E relative to the frame, exclusive,
the leaf's entry (R96), and the YIELD hint of its word. -/
structure AppendReq where
  va : Nat
  frame : Nat
  n : Nat
  lanes : List Nat
  act : List Nat
  srcs : List AppendSrc
  lives : List Nat
  dst : Opnd
  tagged : Bool
  room : Nat
  entry : Nat
  young : Bool
  deriving DecidableEq, Repr

/-- A lane's part of a `bcas` that is not done (R413): its records, its argument block and where it lies, the two
objects with their virtual addresses and leaf entries, OWNER, the registers of its status, whether the block could not
be read, whether its first step is made, and whether it met uncorrectable data. -/
structure BcasPart where
  lane : Nat
  i : Nat
  k : Nat
  sp : Nat
  arg : List Byte
  lost : Bool
  x : Nat
  xva : Nat
  xent : Nat
  y : Nat
  yva : Nat
  yent : Nat
  own : Nat
  refs : List RegRef
  begun : Bool
  bad : Bool
  deriving DecidableEq, Repr

/-- What a long-latency operation still does when it completes; `appended` is an `append` whose grant was answered, with
the lives whose scratchpad it read; `ecc` is the record of ECCU that a `bcas` takes
where a lane of it meets uncorrectable data. -/
inductive OpKind where
  | load | store | atomic
  | fence (paths : BitVec 3)
  | cwb (lines : List Nat)
  | append (r : AppendReq)
  | appended (lives : List Nat)
  | seal (frames : List (RegRef × Nat))
  | engine
  | spawn (part : Nat) (orders : List Nat)
  | ctxsave (ctx : Nat)
  | bcas (ctx : Nat) (ty : Ty) (ecc : FaultRec) (todo : List BcasPart)
  deriving DecidableEq, Repr

/-- An outstanding long-latency operation (R35 to R39, R437). `dests` are pending until it completes;
`vals` are what it writes; `late` a fault recorded after issue; `ts` its last timestamp; `iaddr` the
address of its instruction. -/
structure Op where
  owner : Owner
  flag : Option Nat
  kind : OpKind
  dests : List RegRef
  vals : List (RegRef × DWord)
  late : Option FaultRec
  ts : Nat
  waits : List Wait
  iaddr : Nat
  deriving DecidableEq, Repr

/-- A copy command record (R189). `kind` and `etype` are its bytes that only a gong's command reads. -/
structure CopyRec where
  addrc : Nat
  addrs : Nat
  addrd : Nat
  len : Nat
  rows : Nat
  spitch : Nat
  dpitch : Nat
  addri : Nat
  ctl : BitVec 8
  kind : Nat
  etype : Nat
  deriving DecidableEq, Repr

/-- The forms of the copy pool (R191, R211); `flush` carries the lines that a tentative task staged
(R199). -/
inductive CopyForm where
  | cpy | cpy2d | gather | scatter | cfill
  | publish
  | flush (lines : List Staged)
  deriving DecidableEq, Repr

/-- STATE of `pstat` (R204). -/
inductive CmdSt where
  | queued | running | saved | waiting
  deriving DecidableEq, Repr

/-- An outstanding command of the copy pool (R188 to R204). `done` lists the destination lines written,
by number; `missed` says that its promise has passed, `raised` that PROMISE waits or is served for it. -/
structure Cmd where
  id : Nat
  ticket : Nat
  ctx : Nat
  launch : Nat
  owner : Owner
  form : CopyForm
  ty : Ty
  cr : CopyRec
  idx : List Int
  st : CmdSt
  promise : Nat
  missed : Bool
  raised : Bool
  clk : Nat
  done : List Nat
  tentative : Bool
  savedAt : Nat
  deriving DecidableEq, Repr

/-- A block captured from lane registers or read from scratchpad: bytes, tag, poison. -/
structure Block where
  bytes : List Byte
  tag : BitVec 16
  poison : Bool
  deriving DecidableEq, Repr

/-- A matrix operand: captured blocks with their first register, or a scratchpad descriptor (R315, R316). -/
inductive MatSrc where
  | regs (base : Nat) (blocks : List Block)
  | sp (addr : Word) (desc : Word)
  deriving DecidableEq, Repr

/-- The forms of the matrix engine (R317, R322, R323). -/
inductive MatForm where
  | mma (k4 sat : Bool) (a b : MatSrc)
  | mzero
  | mscale (n : Word)
  | mcvt (ty : Ty) (mod : BitVec 3) (c : Word) (dest : DWord)
  deriving DecidableEq, Repr

/-- An accepted matrix command (R314). `blocks` are the scratchpad operand blocks read so far, `rows` the
number of accumulator rows done, `out` what an `mcvt` has converted and not yet written. -/
structure MCmd where
  id : Nat
  owner : Owner
  launch : Nat
  form : MatForm
  acc : Word
  blocks : List Block
  rows : Nat
  out : List Byte
  failed : Bool
  tentative : Bool
  clk : Nat
  deriving DecidableEq, Repr

/-- An L1 copy (R164, R267): the write timestamp it carries, its lease end, its bytes and tag, and the
launch whose slot a stable line carries (R113). -/
structure L1Line where
  wts : Nat
  lease : Nat
  data : List Byte
  tag : BitVec 16
  stable : Option Nat
  deriving DecidableEq, Repr

/-- A privatised holder of a line (R172). -/
structure Holder where
  core : Nat
  mask : BitVec 64
  tg : Nat
  dirty : SMap Byte
  ts : Nat
  deriving DecidableEq, Repr

/-- Home state of a line (R163), the linking context (R395), the context tag of a dirty line (R476),
and what R172 compares: the core and bytes of the last write, and the holders. -/
structure LineSt where
  e : BitVec 1
  wts : BitVec 24
  rts : BitVec 24
  lam : BitVec 4
  link : Option Nat
  dirty : Option Nat
  lastCore : Option Nat
  lastMask : BitVec 64
  holders : List Holder
  deriving DecidableEq, Repr

/-- A directory region entry (R174). -/
structure Region where
  tag : Nat
  grain : Bool
  dlo : Nat
  dhi : Nat
  ylo : Nat
  yhi : Nat
  xlo : Nat
  xhi : Nat
  nhold : Nat
  deriving DecidableEq, Repr

/-- A home slice (R169, R174, R476). Directory entries stand most recently used last. -/
structure Slice where
  base0 : DWord
  base1 : DWord
  cb : BitVec 1
  sweep : Bool
  regions : List Region
  lineEnts : List (Nat × List Nat)
  quarantined : List Nat
  deriving DecidableEq, Repr

/-- Bank modes (R214). -/
inductive BankMode where
  | cache | scratch | fifo
  deriving DecidableEq, Repr

/-- A TLB entry (R97): context, page base, size, leaf, and the physical address of the leaf's entry. -/
structure TlbEnt where
  ctx : Nat
  va : Nat
  size : Nat
  leaf : DWord
  entry : Nat
  deriving DecidableEq, Repr

/-- A push on its way to another core (R233). -/
structure Push where
  life : Nat
  fifo : Nat
  entry : FEntry
  deriving DecidableEq, Repr

/-- The handler slot (R422 to R425). `halt` is the record of a fault of the handler group that waits for the group's
other gangs to reach a clause boundary (R416, R424); `below` is a handler group stopped by such a fault, with
its record, token and window. -/
structure Handler where
  gen : Nat
  level : ExecLevel
  group : Group
  team : Nat
  ctx : Nat
  window : Option Nat
  halt : Option FaultRec
  below : Option (Group × FaultRec × Nat × Option Nat)
  deriving DecidableEq, Repr

/-- A core. `sram` lists bytes by 32,768·bank + 64·row + byte, `stags` tags by 512·bank + row, `spois`
poisoned rows by the same number (R214, R488); `modes` lists the banks not in their reset mode. -/
structure Core where
  pts : Nat
  modes : SMap BankMode
  sram : SMap Byte
  stags : SMap (BitVec 16)
  spois : List Nat
  fifos : SMap Fifo
  gongs : SMap Gong
  mq : List MCmd
  l1 : SMap L1Line
  con : SMap (List Byte × BitVec 16)
  tile : SMap (List Byte × BitVec 16)
  l0i0 : List Nat
  l0i1 : List Nat
  l1i : List Nat
  tlb : List TlbEnt
  handler : Option Handler
  stops : List Nat
  nextTok : Nat
  claimq0 : List (Nat × Nat)
  claimq1 : List (Nat × Nat)
  solocyc : DWord
  ifstall0 : DWord
  ifstall1 : DWord
  ifstall2 : DWord
  inflight : List Push
  deriving DecidableEq, Repr

/-- A declared range (R85, R102). -/
structure Range where
  base : Nat
  size : Nat
  rights : BitVec 8
  deriving DecidableEq, Repr

/-- A pinned leaf (R105): page base, size, leaf as walked, and the physical address of its entry. -/
structure Pin where
  va : Nat
  size : Nat
  leaf : DWord
  entry : Nat
  deriving DecidableEq, Repr

/-- A kernel descriptor as read (R84). -/
structure Kernel where
  scarry : BitVec 128
  vcarry : BitVec 512
  allow : Nat
  grain : List Nat
  scratch : Nat
  regs : Nat
  prio : Nat
  split : Nat
  axes : Nat
  clh : Nat
  clw : Nat
  entry : Nat
  ranges : List Range
  deriving DecidableEq, Repr

/-- How far a launch has come (R103, R104, R362). -/
inductive LaunchSt where
  | pending | granted | done
  deriving DecidableEq, Repr

/-- A launch. `waiting` is the residency slot it waits for, `killed` the address of a killed
instruction or failed join record (R362), `clk` the submitter's clock. `ready` says that steps 1 to 7 of
R104 are done, `freed` lists the frames whose FREE began while it was pending (R107). -/
structure Launch where
  part : Nat
  ctx : Nat
  desc : Nat
  parent : Option Nat
  host : Bool
  args : Nat
  kdesc : Nat
  status : Nat
  statusPin : Pin
  ext : List Nat
  rangen : Nat
  ranges : List Range
  kernel : Option Kernel
  st : LaunchSt
  slot : Nat
  pins : List Pin
  waiting : Option Nat
  killed : Option Nat
  clk : Nat
  ready : Bool
  freed : List Nat
  deriving DecidableEq, Repr

/-- A place in the task queues (R357): a record, a later phase of a life, or a resume entry of a saved
cluster (R435). `place` is its place in the task area, `kept` the frames of each team of a task that starts again
(R119, R366). -/
structure QEnt where
  task : TaskRec
  ctx : Nat
  launch : Nat
  life : Option Nat
  resume : List Nat
  pushed : Nat
  order : Nat
  place : Nat
  kept : List (List Nat)
  deriving DecidableEq, Repr

/-- An append reservation that is not complete (R124): the launch and context that issued it, the timestamp of its
grant, the entry of the leaf through which it writes, and the virtual address of its frame and its lane (R477). -/
structure Resv where
  id : Nat
  launch : Nat
  frame : Nat
  start : Nat
  src : AppendSrc
  tagged : Bool
  ctx : Nat
  clk : Nat
  entry : Nat
  va : Nat
  lane : Nat
  deriving DecidableEq, Repr

/-- A residency request outstanding in a slot (R106, R458): the launch and the VA of the request. -/
structure ResReq where
  slot : Nat
  launch : Nat
  va : Nat
  deriving DecidableEq, Repr

/-- PCFG (R457). -/
structure PCfg where
  dirtymap : Nat
  fentry : Nat
  tslice : Nat
  resqn : Nat
  resq : Nat
  repln : Nat
  fpooln : Nat
  fpool : Nat
  taskarea : Nat
  taskn : Nat
  nctx : Nat
  ctxtab : Nat
  astab : Nat
  hbase : Nat
  hsize : Nat
  cemask : BitVec 48
  qosHost : Nat
  qosCE : Nat
  deriving DecidableEq, Repr

/-- Per-context device state: next ticket (R191), generation counter (R355), popping stopped (R442), a `ctxsave` in
progress, and the saved teams that a `ctxload` from a later index has not released (R258, R443). -/
structure CtxSt where
  ticket : Nat
  gen : Nat
  noPop : Bool
  saving : Bool
  kept : List Nat
  deriving DecidableEq, Repr

/-- An error record (R479). -/
structure ErrRec where
  time : Nat
  paddr : Nat
  seq : Nat
  ctx : Nat
  unit : Nat
  part : Nat
  array : Nat
  kind : Nat
  deriving DecidableEq, Repr

/-- An error ring (R479): records, oldest first, and the records lost since the last read. -/
structure ErrRing where
  recs : List ErrRec
  lost : Nat
  next : Nat
  deriving DecidableEq, Repr

/-- A partition (R452 to R471). `freeing` is the number of frames freed of the head of
`freeq`, absent until its FREE has begun (R107, R464); `pushq` holds
the records whose push finds the task area full (R357); `annSince` when each announced record was
linked, by 65,536·context + index, `replicas` the frames that each twelfth has replicated with their
replica frames, most recently used last (R134), and `walker` the record the walker applied last (R407); `lost` that
a die of it failed (R480). -/
structure Part where
  size : Nat
  cfg : PCfg
  pstate : Nat
  err : Nat
  suberr : Bool
  clockout : Bool
  fwfault : Bool
  lsubctx : Word
  freeq : List Nat
  freeing : Option Nat
  freedone : DWord
  peers : List DWord
  clkmax : Nat
  xpprobe : DWord
  latecmd : DWord
  dropspec : DWord
  hostclk : Nat
  unmasked : List Nat
  pendVec : List Nat
  heldVec : List Nat
  errs : ErrRing
  queue : List QEnt
  pushq : List QEnt
  nextOrder : Nat
  cmds : List Cmd
  resPos : Nat
  resUsed : List Nat
  resq : List ResReq
  poolTaken : List Nat
  dirtyFrames : List Nat
  replicas : SMap (List (Nat × Nat))
  codeLines : SMap (List Nat)
  ctxs : SMap CtxSt
  resvs : List Resv
  annSince : SMap Nat
  walker : Nat
  measured : Option PCfg
  lost : Bool
  deriving DecidableEq, Repr

/-- An array error that the environment has injected and no read has met (R473, R475): where, and
whether the code corrects it. `copy` lies in a clean L1, constant or tile copy of a core, `code` in its
fetch caches, `shared` in the code cache of a twelfth, `leaf` in its TLB entries of a page, `dir` in the directory
entry that tracks a line, `record` in a gong or FIFO record of a life, `hub` in hub state (R481). -/
inductive Upset where
  | block (line : Nat) (corrects : Bool)
  | l2 (line : Nat) (corrects : Bool)
  | row (core row : Nat) (corrects : Bool)
  | reg (team : Nat) (corrects : Bool)
  | copy (core line : Nat)
  | code (core line : Nat)
  | shared (twelfth line : Nat)
  | record (life : Nat) (corrects : Bool)
  | leaf (core va : Nat)
  | dir (line : Nat)
  | hub
  deriving DecidableEq, Repr

/-- MESI states of the host-line cache (R470); an absent line is invalid. -/
inductive Mesi where
  | m | e | s
  deriving DecidableEq, Repr

/-- A home copy of a class 6 line (R149): bytes and the cores whose writes made it dirty, none where it is
clean (R156). -/
structure Home6 where
  data : List Byte
  dirty : List Nat
  deriving DecidableEq, Repr

/-- What the module sends to the parties around it. -/
inductive Msg where
  | memData (part : Nat) (bytes : List Byte)
  | memPoison (part : Nat)
  | memDone (part : Nat)
  | snoopData (part : Nat) (bytes : List Byte)
  | snoopMiss (part : Nat)
  | backInv (line : Nat)
  | vector (part v : Nat)
  | peerData (bytes : List Byte)
  | peerDone
  | peerRefused
  | peerWrite (pa : Nat) (bytes : List Byte)
  | peerAtomic (pa : Nat) (ty : Ty) (op : AOp) (c e : Nat)
  | peerPoison (pa : Nat)
  | fm (ok : Bool)
  | spdm (ld : Option Nat) (code : Nat) (fields : List Nat)
  | errlog (ld : Option Nat) (recs : List (ErrRec × Nat))
  | firmware (accepted : Bool)
  | instrument (which : Instrument) (data : List Nat)
  | linkLost
  deriving DecidableEq, Repr

/-- The module. `agenda` is what happens next, `cur` the agent that issues, `free` the number of free
values read so far, `pick` the number of the step, which the choices of R105 depend on, `serial` the next
serial number of a life, operation or launch, `strikes` the dirty L2 lines lost in this step whose contexts are still
to be struck (R476): partition, line, context tag and way: the model's own fields. -/
structure State where
  cyc : Nat
  mem : SMap Byte
  tags : SMap (BitVec 16)
  poison : List Nat
  upsets : List Upset
  strikes : List (Nat × Nat × Nat × Nat)
  lines : SMap LineSt
  slices : SMap Slice
  hlc : SMap (Mesi × List Byte)
  hlcPoison : List Nat
  home6 : SMap Home6
  hostHeld : List Nat
  parts : SMap Part
  cores : SMap Core
  teams : SMap Team
  lives : SMap Life
  launches : SMap Launch
  saved : SMap Saved
  ops : SMap Op
  retired : List Nat
  corrErr : SMap (List Nat)
  rtc : Nat
  fmErrs : ErrRing
  deadDies : List Nat
  frozen : Bool
  frzSrc : Nat
  frzCyc : Nat
  debugOpen : Bool
  tokenWindow : Bool
  portsDown : List Nat
  fwImage : Nat
  fwSig : Nat
  fwVer : Nat
  fwMin : Nat
  outbox : List Msg
  agenda : List Act
  cur : Agent
  free : Nat
  pick : Nat
  serial : Nat
  deriving DecidableEq, Repr

/-- An error ring with no record; numbers count from 1 (R479). -/
def ErrRing.empty : ErrRing := ⟨[], 0, 1⟩

/-- A line that no access has reached (R163). -/
def LineSt.init : LineSt := ⟨0, 0, 0, 3, none, none, none, 0, []⟩

/-- A slice at reset (R169, R174). -/
def Slice.init : Slice := ⟨0, 0, 0, false, [], [], []⟩

/-- A core at reset: banks 0 to 15 cache, 16 to 47 scratchpad (R214). -/
def Core.init : Core :=
  { pts := 0, modes := [], sram := [], stags := [], spois := [], fifos := [], gongs := [], mq := [],
    l1 := [], con := [], tile := [], l0i0 := [], l0i1 := [], l1i := [], tlb := [],
    handler := none, stops := [], nextTok := 0, claimq0 := [], claimq1 := [], solocyc := 0,
    ifstall0 := 0, ifstall1 := 0, ifstall2 := 0, inflight := [] }

/-- The module after the bring-up of R483: memory zero, no partition. The values that no rule gives
are those of log entries 2 to 10. -/
def State.reset : State :=
  { cyc := 0, mem := [], tags := [], poison := [], upsets := [], strikes := [], lines := [], slices := [],
    hlc := [], hlcPoison := [], home6 := [], hostHeld := [], parts := [], cores := [], teams := [],
    lives := [], launches := [], saved := [], ops := [], retired := [], corrErr := [], rtc := 0,
    fmErrs := ErrRing.empty, deadDies := [], frozen := false, frzSrc := 0, frzCyc := 0,
    debugOpen := false, tokenWindow := true, portsDown := [], fwImage := 0, fwSig := 0, fwVer := 0, fwMin := 0, outbox := [],
    agenda := [], cur := .lane 0 0 0, free := 0, pick := 0, serial := 1 }

end Sys2Proof.Machine
end

