-- ==== Sys2Proof/Machine/Phys.lean ====
section
/-!
DEFINITION. Physical memory and the numbering of the module: bytes, tags and poison of memory, stacks
and frames, home slices, and the tables of cores, partitions, teams and lives.
-/

namespace Sys2Proof.Machine

open Config

/-- A core of the module; one that is not listed is at its reset value. -/
def State.core (s : State) (c : Nat) : Core := (SMap.get? s.cores c).getD Core.init

/-- The module with a core rewritten. -/
def State.setCore (s : State) (c : Nat) (x : Core) : State := { s with cores := SMap.put s.cores c x }

/-- The module with a core changed by a function. -/
def State.updCore (s : State) (c : Nat) (f : Core → Core) : State := s.setCore c (f (s.core c))

/-- A partition by its first twelfth. -/
def State.part? (s : State) (j : Nat) : Option Part := SMap.get? s.parts j

/-- The module with a partition changed. -/
def State.updPart (s : State) (j : Nat) (f : Part → Part) : State :=
  { s with parts := SMap.modify s.parts j f }

/-- A resident team. -/
def State.team? (s : State) (t : Nat) : Option Team := SMap.get? s.teams t

/-- The module with a resident team changed. -/
def State.updTeam (s : State) (t : Nat) (f : Team → Team) : State :=
  { s with teams := SMap.modify s.teams t f }

/-- The life of a team. -/
def State.life? (s : State) (l : Nat) : Option Life := SMap.get? s.lives l

/-- The module with a life changed. -/
def State.updLife (s : State) (l : Nat) (f : Life → Life) : State :=
  { s with lives := SMap.modify s.lives l f }

/-- A launch. -/
def State.launch? (s : State) (n : Nat) : Option Launch := SMap.get? s.launches n

/-- The module with a launch changed. -/
def State.updLaunch (s : State) (n : Nat) (f : Launch → Launch) : State :=
  { s with launches := SMap.modify s.launches n f }

/-- The partition that holds a twelfth. -/
def State.partOfTwelfth (s : State) (j : Nat) : Option Nat :=
  (s.parts.find? fun e => e.1 ≤ j && j < e.1 + e.2.size).map (·.1)

/-- The partition of a core (R9, R452). -/
def State.partOfCore (s : State) (c : Nat) : Option Nat := s.partOfTwelfth (c / coresPerTwelfth)

/-- A fresh serial number. -/
def State.fresh (s : State) : Nat × State := (s.serial, { s with serial := s.serial + 1 })

/-! ## Places in memory (R91) -/

/-- An address of no table entry: beyond the device's physical space. -/
def noEntry : Nat := 2 ^ 64

/-- HBM stack of a physical address below the stack windows' end. -/
def stackOf (pa : Nat) : Nat := pa / stackStride

/-- Whether a physical address lies in the populated part of a stack window. -/
def isHbm (pa : Nat) : Bool := stackOf pa < 24 && pa % stackStride < stackBytes

/-- Whether a physical address lies in the host-coherent window. -/
def isHostWin (pa : Nat) : Bool := hostBase ≤ pa && pa < peerBase

/-- Whether a physical address lies in the peer apertures. -/
def isPeer (pa : Nat) : Bool := peerBase ≤ pa && pa < peerEnd

/-- Whether a stack belongs to a partition (R9). -/
def stackIn (j size stack : Nat) : Bool := 2 * j ≤ stack && stack < 2 * (j + size)

/-- Whether the bytes [pa, pa+n) lie in the populated HBM of one stack of a partition. -/
def inPartHbm (j size pa n : Nat) : Bool :=
  stackIn j size (stackOf pa) && pa % stackStride + n ≤ stackBytes

/-- Index of a frame among its partition's frames (R121). -/
def frameIndex (j pa : Nat) : Nat := (stackOf pa - 2 * j) * framesPerStack + pa % stackStride / 65536

/-- Physical address of a frame of a partition by index. -/
def frameOfIndex (j i : Nat) : Nat :=
  (2 * j + i / framesPerStack) * stackStride + i % framesPerStack * 65536

/-- Home slice of a line in a partition of `size` twelfths starting at `j`, numbered over the module
(R161). -/
def homeSlice (j size line : Nat) : Nat :=
  let h := (line % 65536).xor ((line / 65536 % 65536).xor (line / 4294967296 % 16384))
  128 * j + h % (128 * size)

/-- Whether a line's home is in a partition: a line of its stacks, or of its host-coherent window, which the tables of
lines keep under the partition's number. -/
def homedIn (j size line : Nat) : Bool :=
  stackIn j size (stackOf (64 * line)) || (line / 2 ^ 64 = j && isHostWin (64 * (line % 2 ^ 64)))

/-- Whether a slice of a partition homes a line (R161). -/
def homedAt (j size h line : Nat) : Bool := homedIn j size line && homeSlice j size line = h

/-- Twelfth of a slice. -/
def twelfthOfSlice (s : Nat) : Nat := s / 128

/-! ## Bytes, tags and poison -/

/-- The byte at a physical address; a byte that is not listed reads 0 (R483; host window: log 3). -/
def State.byte (s : State) (pa : Nat) : Byte := SMap.getD 0 s.mem pa

/-- The module with a byte of memory written. -/
def State.setByte (s : State) (pa : Nat) (b : Byte) : State := { s with mem := SMap.putD 0 s.mem pa b }

/-- `n` bytes from a physical address. -/
def State.bytes (s : State) (pa : Nat) : Nat → List Byte
  | 0 => []
  | n + 1 => s.byte pa :: s.bytes (pa + 1) n

/-- The module with a run of bytes written. -/
def State.setBytes (s : State) (pa : Nat) : List Byte → State
  | [] => s
  | b :: bs => (s.setByte pa b).setBytes (pa + 1) bs

/-- The little-endian number of a byte list (R2). -/
def leOf (l : List Byte) : Nat := l.foldr (fun b n => b.toNat + 256 * n) 0

/-- `n` little-endian bytes of a number (R2). -/
def leBytesOf (n x : Nat) : List Byte :=
  match n with
  | 0 => []
  | k + 1 => BitVec.ofNat 8 x :: leBytesOf k (x / 256)

/-- A little-endian number in memory. -/
def State.le (s : State) (pa n : Nat) : Nat := leOf (s.bytes pa n)

/-- The module with a little-endian number written. -/
def State.setLe (s : State) (pa n x : Nat) : State := s.setBytes pa (leBytesOf n x)

/-- The tag of the block of a line (R267). -/
def State.tag (s : State) (line : Nat) : BitVec 16 := SMap.getD 0 s.tags line

/-- The module with a block's tag written. -/
def State.setTag (s : State) (line : Nat) (t : BitVec 16) : State :=
  { s with tags := SMap.putD 0 s.tags line t }

/-- Whether a line is poisoned (R475). -/
def State.isPoison (s : State) (line : Nat) : Bool := s.poison.contains line

/-- The module with a line poisoned. -/
def State.addPoison (s : State) (line : Nat) : State := { s with poison := insertNat s.poison line }

/-- The module with a line's poison cleared (R477). -/
def State.clearPoison (s : State) (line : Nat) : State :=
  { s with poison := s.poison.filter (· ≠ line) }

/-- The module with a line that one write has covered: its poison is gone, and what waited in its arrays is written over
(R473, R477). -/
def State.freshLine (s : State) (line : Nat) : State :=
  { s.clearPoison line with upsets := s.upsets.filter fun u =>
      match u with | .block l _ | .l2 l _ => decide (l ≠ line) | _ => true }

/-- Home state of a line (R163). -/
def State.line (s : State) (line : Nat) : LineSt := SMap.getD LineSt.init s.lines line

/-- The module with a line's home state written. -/
def State.setLine (s : State) (line : Nat) (x : LineSt) : State :=
  { s with lines := SMap.putD LineSt.init s.lines line x }

/-- A byte as home would give it: with what a privatised holder has written (R173). -/
def State.homeByte (s : State) (pa : Nat) : Byte :=
  match (s.line (pa / 64)).holders.find? fun h => (SMap.get? h.dirty (pa % 64)).isSome with
  | some h => SMap.getD 0 h.dirty (pa % 64)
  | none => s.byte pa

/-- A little-endian number as home would give it. -/
def State.homeLe (s : State) (pa n : Nat) : Nat :=
  leOf ((List.range n).map fun i => s.homeByte (pa + i))

/-- A home slice. -/
def State.slice (s : State) (n : Nat) : Slice := (SMap.get? s.slices n).getD Slice.init

/-- The module with a slice changed. -/
def State.updSlice (s : State) (n : Nat) (f : Slice → Slice) : State :=
  { s with slices := SMap.put s.slices n (f (s.slice n)) }

/-- A frame marked dirty for R462; the bytes of a stack above its last whole frame lie in none. -/
def State.markDirty (s : State) (part pa : Nat) : State :=
  if isHbm pa && pa % stackStride / 65536 < framesPerStack then
    s.updPart part fun p => { p with dirtyFrames := insertNat p.dirtyFrames (pa / 65536) }
  else s

/-! ## Messages and vectors (R466, R479) -/

/-- The module with a message sent. -/
def State.send (s : State) (m : Msg) : State := { s with outbox := s.outbox ++ [m] }

/-- A vector of a partition raised: held during PSTATE 2 except vector 0, pending while masked. -/
def State.vector (s : State) (part v : Nat) : State :=
  match s.part? part with
  | none => s
  | some p =>
    if p.pstate = 2 && v ≠ 0 then
      s.updPart part fun p => { p with heldVec := insertNat p.heldVec v }
    else if p.unmasked.contains v then s.send (.vector part v)
    else s.updPart part fun p => { p with pendVec := insertNat p.pendVec v }

/-- A record added to a ring of 1,024 (R479). -/
def ErrRing.add (r : ErrRing) (e : ErrRec) : ErrRing :=
  let e := { e with seq := r.next }
  if r.recs.length < 1024 then { r with recs := r.recs ++ [e], next := r.next + 1 }
  else { recs := r.recs.drop 1 ++ [e], lost := minN (r.lost + 1) 65535, next := r.next + 1 }

/-- An error record made (R479): on the partition's ring, with vector 3, and on the fabric manager's. -/
def State.errRec (s : State) (part : Option Nat) (kind array paddr unit : Nat)
    (ctx : Option Nat) : State :=
  let e : ErrRec := ⟨s.rtc, paddr, 0, ctx.getD 65535, unit, part.getD 0, array, kind⟩
  let s := { s with fmErrs := s.fmErrs.add e }
  match part with
  | none => s
  | some j => (s.updPart j fun p => { p with errs := p.errs.add e }).vector j 3

/-- UNIT of a record that concerns a block of memory: its stack (R479); 0 for a line of no stack. -/
def unitOf (pa : Nat) : Nat := if isHbm pa then stackOf pa else 0

/-- The record of a write dropped at a poisoned or lost line (R477, R479, R480). -/
def State.dropRec (s : State) (part pa : Nat) : State :=
  s.errRec (some part) 8 0 (pa / 64 * 64) (unitOf pa) none

/-- A FREEZE (R481): every clock stops; the links stop answering. -/
def State.freezeBy (s : State) (src : Nat) : State :=
  { s with frozen := true, frzSrc := src, frzCyc := s.cyc }.send .linkLost

/-! ## Writes that the device makes for itself -/

/-- Whether the bytes [pa, pa+n) lie in a partition's own populated HBM (R15). -/
def State.own (s : State) (j pa n : Nat) : Bool := ((s.part? j).map fun p => inPartHbm j p.size pa n).getD false

/-- A line that the host caches taken back before a write of the device (R465, log 5). -/
def State.takeBack (s : State) (line : Nat) : State :=
  if s.hostHeld.contains line then
    { s with hostHeld := s.hostHeld.filter (· ≠ line), outbox := s.outbox ++ [.backInv line] }
  else s

/-- A holder whose bytes [o, o+n) of the line home has written since (R173). -/
def Holder.overwritten (h : Holder) (o n : Nat) : Holder :=
  { h with dirty := SMap.drop h.dirty fun k => o ≤ k && k < o + n }

/-- The context tag of a line that a write of no context has made dirty: of the host, a peer or the device itself
(R476, log 55). -/
def noCtx : Nat := 65535

/-- A line that a write has made dirty, with the context tag of the write (R476). -/
def LineSt.dirtied (l : LineSt) (ctx : Option Nat) : LineSt := { l with dirty := some (ctx.getD noCtx) }

/-- A line of which home writes `n` bytes at `o`: the host's copy is taken back, no holder's older bytes come over
them (R173, R465), and the line is dirty (R476). -/
def State.overwriteLine (s : State) (line o n : Nat) (ctx : Option Nat) : State :=
  let s := s.takeBack line
  let l := s.line line
  s.setLine line (LineSt.dirtied { l with holders := l.holders.map fun h => h.overwritten o n } ctx)

/-- The pieces of `n` bytes from an offset that lie in one 64-byte line or row each: start and length. -/
def pieces (off n : Nat) : List (Nat × Nat) :=
  let k := (off % 64 + n + 63) / 64
  ((List.range k).map fun i =>
    let lo := maxN off ((off / 64 + i) * 64)
    (lo, minN (off + n) ((off / 64 + i + 1) * 64) - lo)).filter fun e => e.2 ≠ 0

/-- BYTES THAT THE DEVICE WRITES INTO ITS OWN TABLES AND RECORDS: only inside the partition's own stacks (R15, R452,
R458), with the host's copies taken back (R465) and the frame marked (R462). A poisoned line takes none (R477). -/
def State.devPut (s : State) (j pa : Nat) (bs : List Byte) : State :=
  if !(s.own j pa bs.length) then s
  else (pieces pa bs.length).foldl (fun s e =>
    if s.isPoison (e.1 / 64) then s.dropRec j e.1
    else ((s.overwriteLine (e.1 / 64) (e.1 % 64) e.2 none).setBytes e.1 ((bs.drop (e.1 - pa)).take e.2)).markDirty j e.1) s

/-! ## The append state table (R121) -/

/-- A record of the append state table. -/
structure AppendRec where
  settled : Nat
  tail : Nat
  limit : Nat
  st : Nat
  zero : Bool
  deriving DecidableEq, Repr

/-- Physical address of a frame's append record. -/
def appendAddr (j : Nat) (p : Part) (frame : Nat) : Nat := p.cfg.astab + 16 * frameIndex j frame

/-- The append record of a frame as its home would give it (R123); `zero` says that its reserved fields are zero. -/
def State.appendRec (s : State) (j : Nat) (p : Part) (frame : Nat) : AppendRec :=
  let a := appendAddr j p frame
  { settled := s.homeLe (a + 8) 4, tail := s.homeLe (a + 4) 4, limit := s.homeLe (a + 2) 2,
    st := s.homeLe a 1 % 4,
    zero := s.homeLe (a + 12) 4 = 0 && s.homeLe (a + 1) 1 = 0 && s.homeLe a 1 / 4 = 0 }

/-- The 16 bytes of an append record, reserved fields zero (R121). -/
def AppendRec.toBytes (r : AppendRec) : List Byte :=
  leBytesOf 1 r.st ++ leBytesOf 1 0 ++ leBytesOf 2 r.limit ++ leBytesOf 4 r.tail ++ leBytesOf 4 r.settled ++ leBytesOf 4 0

/-- The module with a frame's append record written by the device (R121, R123). -/
def State.setAppendRec (s : State) (j : Nat) (p : Part) (frame : Nat) (r : AppendRec) : State :=
  s.devPut j (appendAddr j p frame) r.toBytes

/-! ## Context records (R438) -/

/-- Physical address of a context record. -/
def ctxAddr (p : Part) (ctx : Nat) : Nat := p.cfg.ctxtab + 128 * ctx

/-- A field of a context record. -/
def State.ctxField (s : State) (p : Part) (ctx off n : Nat) : Nat := s.homeLe (ctxAddr p ctx + off) n

/-- Valid bit of a context record. -/
def State.ctxValid (s : State) (p : Part) (ctx : Nat) : Bool :=
  decide (ctx < p.cfg.nctx) && bitN (s.ctxField p ctx 0 1) 0

/-- SAVED bit of a context record. -/
def State.ctxSaved (s : State) (p : Part) (ctx : Nat) : Bool := bitN (s.ctxField p ctx 0 1) 1

/-- CKPT bit of a context record (R469). -/
def State.ctxCkpt (s : State) (p : Part) (ctx : Nat) : Bool := bitN (s.ctxField p ctx 0 1) 2

/-- The module with the SAVED bit of a context record of partition `j` written by the device, its reserved bits as
zero (R5, R438). -/
def State.setSaved (s : State) (j : Nat) (p : Part) (ctx : Nat) (b : Bool) : State :=
  let x := s.ctxField p ctx 0 1
  s.devPut j (ctxAddr p ctx) (leBytesOf 1 (x % 2 + (if b then 2 else 0) + x / 4 % 2 * 4))

/-- Per-context device state; the first ticket is 1. -/
def Part.ctxSt (p : Part) (ctx : Nat) : CtxSt := (SMap.get? p.ctxs ctx).getD ⟨1, 1, false, false, []⟩

/-- The partition with a context's device state changed. -/
def Part.updCtx (p : Part) (ctx : Nat) (f : CtxSt → CtxSt) : Part :=
  { p with ctxs := SMap.put p.ctxs ctx (f (p.ctxSt ctx)) }

/-- A new generation of a context (R355), modulo 2³². -/
def State.newGen (s : State) (part ctx : Nat) : Nat × State :=
  match s.part? part with
  | none => (0, s)
  | some p => ((p.ctxSt ctx).gen,
      s.updPart part fun p => p.updCtx ctx fun c => { c with gen := (c.gen + 1) % 4294967296 })

/-- The next ticket of a context (R191): 32 bits, skipping 0. -/
def State.newTicket (s : State) (part ctx : Nat) : Nat × State :=
  match s.part? part with
  | none => (0, s)
  | some p => ((p.ctxSt ctx).ticket,
      s.updPart part fun p => p.updCtx ctx fun c =>
        { c with ticket := if c.ticket + 1 < 4294967296 then c.ticket + 1 else 1 })

/-- The record of an error that waited in a team's registers or records (R479): corrected, or not. DESIGN CHOICE: the
latter has KIND 3 (log 55). -/
def State.regRec (s : State) (part core : Nat) (u : Upset) : State :=
  match u with
  | .reg _ c => s.errRec (some part) (if c then 1 else 3) 4 0 core none
  | .record _ c => s.errRec (some part) (if c then 1 else 3) 5 0 core none
  | _ => s

/-- Whether an error in registers or records cannot be corrected. -/
def Upset.hard (u : Upset) : Bool :=
  match u with
  | .reg _ c | .record _ c => !c
  | _ => false

end Sys2Proof.Machine
end

