-- ==== Sys2Proof/Machine/Base.lean ====
section
/-!
DEFINITION. How an instruction's effect is computed: a state-changing computation that may stop with a
trap of the hardware, in which case nothing it did remains.
-/

namespace Sys2Proof.Machine

/-- A fault that an instruction raises (R419, R420): the fields of the record that its entry gives. -/
structure Trap where
  kind : Nat
  cause : Nat := 0
  mask : BitVec 32 := 0
  addr : Nat := 0
  unit : Nat := 0
  info : List Word := []
  deriving DecidableEq, Repr

/-- What ends a computation early. -/
inductive Stop where
  /-- A precise fault. -/
  | trap (t : Trap)
  /-- An abort condition of a task that is not committed in a first phase (R367, R368). -/
  | abort
  /-- A commit whose validation failed (R366). -/
  | restart
  /-- A precise fault after the commit that the instruction makes: the commit stays (R363, R409, R413). -/
  | kept (t : Trap)
  /-- The gang is held before the instruction: nothing issues. -/
  | hold
  deriving DecidableEq, Repr

/-- A computation over the module's state. -/
abbrev M := StateT State (Except Stop)

/-- The state changed by a function. -/
def upd (f : State → State) : M Unit := fun s => .ok ((), f s)

/-- The computation stopped. -/
def stop {α : Type} (e : Stop) : M α := fun _ => .error e

/-- A fault raised. -/
def trap {α : Type} (t : Trap) : M α := stop (.trap t)

/-- A value of the state. -/
def look {α : Type} (f : State → α) : M α := fun s => .ok (f s, s)

/-- A computation for each element of a list, in order. -/
def each {α : Type} (l : List α) (f : α → M Unit) : M Unit :=
  match l with
  | [] => pure ()
  | x :: t => do f x; each t f

/-- The results of a computation for each element of a list, in order. -/
def collectM {α β : Type} (l : List α) (f : α → M β) : M (List β) :=
  match l with
  | [] => pure []
  | x :: t => do
    let y ← f x
    let r ← collectM t f
    pure (y :: r)

/-- The state after a computation that cannot be held back; unchanged where it stops. -/
def runD (m : M Unit) (s : State) : State :=
  match m s with
  | .ok (_, t) => t
  | .error _ => s

/-- FREE VALUE: the next value of the stream (log 1). -/
def draw : M Nat := fun s => .ok (Config.freeNat s.free, { s with free := s.free + 1 })

/-- FREE VALUE: a choice that the manual leaves open. -/
def drawBool : M Bool := do
  let n ← draw
  pure (n % 2 = 1)

/-- A copy that a cache holds, where it has not been replaced since: a free choice. -/
def stillHeld {α : Type} (copy : Option α) : M (Option α) :=
  match copy with
  | none => pure none
  | some x => do
    let gone ← drawBool
    pure (if gone then none else some x)

/-- FREE VALUE: `n` bytes that another party supplies. -/
def drawBytes (n : Nat) : M (List Byte) := fun s =>
  .ok ((List.range n).map fun i => Config.freeByte (s.free + i), { s with free := s.free + n })

/-- The issuer of an instruction as the state holds it. `team` is the place of the resident team (or of
the team that a handler serves), `g` its group; `quads` and `lanes` are the gang's quads and the lanes
of their current paths, ascending; `act` those whose guard is true; `pix` the progress index that the
instruction starts from (R258, R432), `young` the YIELD hint of its word (R28). A program of the front
thread has no lanes. -/
structure Who where
  agent : Agent
  core : Nat
  part : Nat
  ctx : Nat
  launch : Nat
  level : ExecLevel
  team : Nat
  life : Nat
  gen : Nat
  g : Nat
  src : Nat
  front : Bool
  quads : List Nat
  lanes : List Nat
  act : List Nat
  latch : Latch
  pix : Nat
  young : Bool
  deriving DecidableEq, Repr

/-- A clause that nothing stands in. -/
def noLatch : Latch := ⟨0, 0, ⟨1, 0, none, none, none, 0, false, 0⟩, 1, 0⟩

/-- The issuer as whose command an engine works: the owner of the command, without lanes. -/
def engineWho (part ctx launch : Nat) (o : Owner) : Who :=
  ⟨.lane 0 0 0, o.core, part, ctx, launch, if o.life = 0 then .handler else .lane, 0, o.life, o.gen, 0, o.src,
    false, [], [], [], noLatch, 0, false⟩

/-- The address of the instruction that an issuer is at. -/
def Who.iaddr (w : Who) : Nat := w.latch.start + 12 * w.latch.slot

/-- Next clause start after a clause of COUNT instructions at `a` (R32). -/
def nextClause (a count : Nat) : Nat := (a + 48 * ceilDiv (1 + count) 4) % 2 ^ 56

/-- The clause start after the issuer's clause. -/
def Who.next (w : Who) : Nat := nextClause w.latch.start w.latch.hdr.count.toNat

/-- Fault kinds (R420). -/
def kILLEGAL : Nat := 1
def kLEASE : Nat := 2
def kSTABLE : Nat := 3
def kFORMAT : Nat := 4
def kCHANNEL : Nat := 5
def kGRAIN : Nat := 6
def kCLAIMLOCK : Nat := 7
def kSEALED : Nat := 8
def kAPPENDLIM : Nat := 9
def kALIGN : Nat := 10
def kPROMISE : Nat := 11
def kECCU : Nat := 12
def kTRAP : Nat := 13
def kESCAL : Nat := 14

end Sys2Proof.Machine
end

