-- ==== Sys2Proof/Machine/Home.lean ====
section
/-!
DEFINITION. Home slices: timestamps and their rebase (R161 to R170), leased L1 copies (R164, R165),
writes (R166), privatised copies (R172, R173) and the directory that tracks them (R174 to R176).
-/

namespace Sys2Proof.Machine

open Config

/-- The logical clock of a core raised (R162). -/
def raisePts (c ts : Nat) : M Unit :=
  upd fun s => s.updCore c fun k => { k with pts := maxN k.pts ts }

/-- The logical clock of a core. -/
def ptsOf (c : Nat) : M Nat := look fun s => (s.core c).pts

/-- A timestamp issued in a partition: CLKMAX keeps the largest (R162). DESIGN CHOICE: a timestamp is issued
where an event of home, or a holder's write, takes one; a holder's read issues none (log 45). -/
def issueTs (part ts : Nat) : M Unit :=
  upd fun s => s.updPart part fun p => { p with clkmax := maxN p.clkmax ts }

/-- Base of the offsets of a line (R163). -/
def Slice.base (sl : Slice) (e : BitVec 1) : Nat := if e = 0 then sl.base0.toNat else sl.base1.toNat

/-- Absolute write timestamp of a line. -/
def LineSt.absWts (l : LineSt) (sl : Slice) : Nat := sl.base l.e + l.wts.toNat

/-- Absolute lease end of a line. -/
def LineSt.absRts (l : LineSt) (sl : Slice) : Nat := sl.base l.e + l.rts.toNat

/-- A line converted to the current base (R169 step 2). -/
def LineSt.conv (l : LineSt) (sl : Slice) : LineSt :=
  if l.e = sl.cb then l
  else
    let b := sl.base sl.cb
    { l with e := sl.cb, wts := BitVec.ofNat 24 (maxN (l.absWts sl) b - b),
             rts := BitVec.ofNat 24 (maxN (l.absRts sl) b - b) }

/-- Home slice of a line in a partition. -/
def homeOf (part line : Nat) : M Nat := look fun s =>
  match s.part? part with
  | none => 0
  | some p => homeSlice part p.size line

/-- A rebase of a slice for a value `v` (R169 step 1). -/
def Slice.rebase (sl : Slice) (v : Nat) : Slice :=
  let b : DWord := w64 (v - 4194304)
  if sl.cb = 0 then { sl with base1 := b, cb := 1, sweep := true }
  else { sl with base0 := b, cb := 0, sweep := true }

/-- Room made at a slice to store an absolute timestamp: a rebase where it needs one, a hold while a
sweep runs (R169). -/
def roomFor (h v : Nat) : M Unit := do
  let sl ← look fun s => s.slice h
  if v < sl.base sl.cb + 16777216 then pure ()
  else if sl.sweep then stop .hold
  else upd fun s => s.updSlice h fun x => x.rebase v

/-- A line's timestamps stored, with its other state changed by a function (R163, R169). -/
def storeTs (part line wts rts : Nat) (f : LineSt → LineSt) : M Unit := do
  let h ← homeOf part line
  roomFor h (maxN wts rts)
  upd fun s =>
    let sl := s.slice h
    let b := sl.base sl.cb
    let l := f ((s.line line).conv sl)
    s.setLine line { l with e := sl.cb, wts := BitVec.ofNat 24 (maxN wts b - b),
                            rts := BitVec.ofNat 24 (maxN rts b - b) }
  issueTs part (maxN wts rts)

/-- Absolute timestamps of a line at home, as its first access after a rebase converts them (R169 step 3). -/
def homeTs (part line : Nat) : M (Nat × Nat) := do
  let h ← homeOf part line
  look fun s =>
    let l := (s.line line).conv (s.slice h)
    (l.absWts (s.slice h), l.absRts (s.slice h))

/-! ## The directory -/

/-- Region of a line: 4 KiB (R174). -/
def regionOf (line : Nat) : Nat := line / 64

/-- Cores of a region's rectangle. -/
def Region.cores (r : Region) : List Nat :=
  (List.range 384).filter fun c =>
    r.dlo ≤ c / 64 && c / 64 ≤ r.dhi && r.ylo ≤ c / 8 % 8 && c / 8 % 8 ≤ r.yhi &&
      r.xlo ≤ c % 8 && c % 8 ≤ r.xhi

/-- A rectangle widened to a core. -/
def Region.widen (r : Region) (c : Nat) : Region :=
  { r with dlo := minN r.dlo (c / 64), dhi := maxN r.dhi (c / 64),
           ylo := minN r.ylo (c / 8 % 8), yhi := maxN r.yhi (c / 8 % 8),
           xlo := minN r.xlo (c % 8), xhi := maxN r.xhi (c % 8) }

/-- A region entry for one holder. -/
def Region.one (tag c : Nat) : Region :=
  ⟨tag, false, c / 64, c / 64, c / 8 % 8, c / 8 % 8, c % 8, c % 8, 0⟩

/-- Privatised lines of a region that a slice homes. -/
def State.heldLines (s : State) (part size h region : Nat) : List Nat :=
  (s.lines.filter fun e => !e.2.holders.isEmpty && regionOf e.1 = region && homedAt part size h e.1).map (·.1)

/-- A privatised line's bytes gathered at home (R173): every holder's dirty bytes applied, as a write that reaches
home (R462), and the line's timestamps set to the largest. The directory is not touched. -/
def gatherLine (part line : Nat) : M Unit := do
  let l ← look fun s => s.line line
  let (wts, _) ← homeTs part line
  let ts := l.holders.foldl (fun m x => maxN m x.ts) wts
  upd fun s =>
    let s := l.holders.foldl (fun s x => x.dirty.foldl (fun s b => s.setByte (64 * line + b.1) b.2) s) s
    if l.holders.any fun x => !x.dirty.isEmpty then s.markDirty part (64 * line) else s
  storeTs part line ts ts fun l => { l with holders := [], lam := 3 }

/-- A line entry released; the last one of a region returns it to coarse grain (R175). -/
def Slice.dropLine (sl : Slice) (line : Nat) : Slice :=
  let es := sl.lineEnts.filter fun e => e.1 ≠ line
  let r := regionOf line
  if es.any fun e => regionOf e.1 = r then { sl with lineEnts := es }
  else
    { sl with lineEnts := es,
              regions := sl.regions.map fun x => if x.tag = r then { x with grain := false } else x }

/-- A region entry's count of privatised lines lowered. -/
def Slice.lessRegion (sl : Slice) (r : Nat) : Slice :=
  { sl with regions := sl.regions.map fun x => if x.tag = r then { x with nhold := x.nhold - 1 } else x }

/-- A region entry that tracks no line at coarse grain given up. DESIGN CHOICE: an entry becomes invalid when its
NHOLD comes to 0, since R174 and R175 name no other event (log 55). -/
def Slice.freeRegion (sl : Slice) (r : Nat) : Slice :=
  { sl with regions := sl.regions.filter fun x => x.tag ≠ r || x.nhold ≠ 0 || x.grain }

/-- A probe under a region entry at coarse grain: the firewall counts each core of the rectangle that lies
outside the partition (R175, R176). -/
def probeRegion (part size : Nat) (reg : Region) : M Unit :=
  upd fun s => s.updPart part fun p =>
    { p with xpprobe := p.xpprobe + w64 (reg.cores.filter fun c => !(part ≤ c / 32 && c / 32 < part + size)).length }

/-- A line merged under the entry that tracks it (R173): its holders probed and its bytes gathered. -/
def probeLine (part size line : Nat) (reg : Region) : M Unit := do
  if reg.grain then pure () else probeRegion part size reg
  gatherLine part line

/-- A region switched to line grain (R175): line entries for its privatised lines, recalling the holders of a
line for which no entry is free. -/
def switchGrain (part size h : Nat) (reg : Region) : M Unit := do
  let r := reg.tag
  let ls ← look fun s => s.heldLines part size h r
  upd fun s => s.updSlice h fun sl =>
    { sl with regions := sl.regions.map fun x => if x.tag = r then { x with grain := true } else x }
  each ls fun line => do
    let n ← look fun s => (s.slice h).lineEnts.length
    if n < 512 then
      upd fun s => s.updSlice h fun sl =>
        { sl with lineEnts := sl.lineEnts ++ [(line, (s.line line).holders.map (·.core))] }
    else do
      probeLine part size line reg
      upd fun s => s.updSlice h fun sl => sl.lessRegion r

/-- A privatised line merged (R173): the probe of R175 with the firewall of R176, the bytes gathered, and line
grain for a region whose merge probed more than 8 cores. -/
def mergeLine (part line : Nat) : M Unit := do
  let l ← look fun s => s.line line
  if l.holders.isEmpty then pure ()
  else
    let h ← homeOf part line
    let size ← look fun s => ((s.part? part).map (·.size)).getD 1
    let r := regionOf line
    let reg ← look fun s => (s.slice h).regions.find? fun x => x.tag = r
    match reg with
    | none => gatherLine part line
    | some reg => do
      probeLine part size line reg
      upd fun s => s.updSlice h fun sl => (if reg.grain then sl.dropLine line else sl).lessRegion r
      if !reg.grain && decide (8 < reg.cores.length) then switchGrain part size h reg else pure ()
      upd fun s => s.updSlice h fun sl => sl.freeRegion r

/-- The least recently used region entry evicted where all 1,024 are taken (R175). -/
def evictRegion (part size h : Nat) : M Unit := do
  let sl ← look fun s => s.slice h
  if sl.regions.length < 1024 then pure ()
  else
    match sl.regions with
    | [] => pure ()
    | r :: _ =>
      let ls ← look fun s => s.heldLines part size h r.tag
      each ls fun l => probeLine part size l r
      upd fun s => s.updSlice h fun sl =>
        { sl with regions := sl.regions.filter fun x => x.tag ≠ r.tag,
                  lineEnts := sl.lineEnts.filter fun e => regionOf e.1 ≠ r.tag }

/-- The least recently used line entry evicted where all 512 are taken (R175). -/
def evictLineEnt (part h : Nat) : M Unit := do
  let sl ← look fun s => s.slice h
  if sl.lineEnts.length < 512 then pure ()
  else
    match sl.lineEnts with
    | [] => pure ()
    | e :: _ =>
      gatherLine part e.1
      upd fun s => s.updSlice h fun sl => ((sl.dropLine e.1).lessRegion (regionOf e.1)).freeRegion (regionOf e.1)

/-- The region entry of a new holder: its count of lines raised where the line had no holder, and the
rectangle widened or, at line grain, the line's own entry (R174). -/
def Slice.track (sl : Slice) (line c : Nat) (first : Bool) : Slice :=
  let r := regionOf line
  let reg := (sl.regions.find? fun x => x.tag = r).getD (Region.one r c)
  let reg := { reg with nhold := reg.nhold + (if first then 1 else 0) }
  let rest := sl.regions.filter fun x => x.tag ≠ r
  if reg.grain then
    let cs := ((sl.lineEnts.find? fun e => e.1 = line).map (·.2)).getD []
    { sl with regions := rest ++ [reg],
              lineEnts := sl.lineEnts.filter (fun e => e.1 ≠ line) ++ [(line, insertNat cs c)] }
  else { sl with regions := rest ++ [reg.widen c] }

/-- A holder entered in the directory, in an entry that an eviction has freed where none is free (R174, R175);
`first` says that the line had none. DESIGN CHOICE: a grant is what counts as a use of an entry (log 45). -/
def trackHolder (part line c : Nat) (first : Bool) : M Unit := do
  let h ← homeOf part line
  let size ← look fun s => ((s.part? part).map (·.size)).getD 1
  let r := regionOf line
  let sl ← look fun s => s.slice h
  let fine := sl.regions.any fun x => x.tag = r && x.grain && !(sl.lineEnts.any fun e => e.1 = line)
  if fine then evictLineEnt part h else pure ()
  let has ← look fun s => (s.slice h).regions.any fun x => x.tag = r
  if has then pure () else evictRegion part size h
  upd fun s => s.updSlice h fun sl => sl.track line c first

/-! ## Reads -/

/-- Mask of `n` bytes of a line from offset `o`. -/
def byteMask (o n : Nat) : BitVec 64 := BitVec.ofNat 64 ((2 ^ n - 1) * 2 ^ o)

/-- A byte mask widened to whole aligned 4-byte words (R172). -/
def wordMask (m : BitVec 64) : BitVec 64 :=
  BitVec.ofNat 64 <| maskOf ((List.range 64).filter fun i =>
    (List.range 4).any fun k => m.getLsbD (i / 4 * 4 + k))

/-- A read served at home for a core (R164): the write timestamp and lease end of the reply. `renew`
is the write timestamp that a renewal sends (R165). -/
def homeRead (part c line : Nat) (renew : Option Nat) : M (Nat × Nat) := do
  let (wts, rts) ← homeTs part line
  let l ← look fun s => s.line line
  let pts ← ptsOf c
  let lam := 2 ^ l.lam.toNat
  let rts' := maxN rts (maxN (wts + lam) (pts + lam))
  let up : Bool := match renew with | some w => decide (w = wts) | none => false
  storeTs part line wts rts' fun l =>
    if up then { l with lam := BitVec.ofNat 4 (minN (l.lam.toNat + 1) 13) } else l
  raisePts c wts
  pure (wts, rts')

/-- A core's L1 copy recorded with its lease end (R164). -/
def fillL1 (c line wts rts : Nat) (data : List Byte) (tag : BitVec 16) : M Unit :=
  upd fun s => s.updCore c fun k =>
    { k with l1 := SMap.put k.l1 line ⟨wts, minN rts (k.pts + 8192), data, tag, none⟩ }

/-- `n` bytes at `o` of a line, and its tag, read by a core on the generic path at its home, L1 copies and privatised
copies included (R164, R165, R172, R173): the bytes, the tag and the write timestamp seen, which is the holder's
largest one where its privatised copy serves the read (DESIGN CHOICE, log 55). `keep` says whether CACHE lets L1 hold
the line. -/
def coherentFetch (part c line o n : Nat) (keep : Bool) : M (List Byte × BitVec 16 × Nat) := do
  let l ← look fun s => s.line line
  match l.holders.find? fun h => h.core = c && byteMask o n &&& h.mask = byteMask o n with
  | some h =>
    let bs ← look fun s => (List.range n).map fun i =>
      SMap.getD (s.byte (64 * line + o + i)) h.dirty (o + i)
    let tag ← look fun s => s.tag line
    raisePts c h.ts
    pure (bs, tag, h.ts)
  | none =>
    let copy ← look fun s => (SMap.get? (s.core c).l1 line).filter fun x => x.stable.isNone
    match ← stillHeld copy with
    | some x =>
      let pts ← ptsOf c
      if pts ≤ x.lease then pure ((x.data.drop o).take n, x.tag, x.wts)
      else do
        mergeLine part line
        let (wts, rts) ← homeRead part c line (some x.wts)
        let data ← look fun s => if wts = x.wts then x.data else s.bytes (64 * line) 64
        let tag ← look fun s => if wts = x.wts then x.tag else s.tag line
        fillL1 c line wts rts data tag
        pure ((data.drop o).take n, tag, wts)
    | none => do
      mergeLine part line
      let (wts, rts) ← homeRead part c line none
      let data ← look fun s => s.bytes (64 * line) 64
      let tag ← look fun s => s.tag line
      if keep then fillL1 c line wts rts data tag
      else upd fun s => s.updCore c fun k => { k with l1 := SMap.del k.l1 line }
      pure ((data.drop o).take n, tag, wts)

/-- The bytes of a coherent read and the write timestamp seen. -/
def coherentRead (part c line o n : Nat) (keep : Bool) : M (List Byte × Nat) := do
  let (b, _, wts) ← coherentFetch part c line o n keep
  pure (b, wts)

/-! ## Writes -/

/-- A line that the host caches taken back before a write of the device (R465, log 5). -/
def backInvalidate (line : Nat) : M Unit :=
  upd fun s => s.takeBack line

/-- The write timestamp of R166 given to a line, and the clock `clk` raised to it by the caller. -/
def stampWrite (part line clk : Nat) (f : LineSt → LineSt) : M Nat := do
  backInvalidate line
  let (_, rts) ← homeTs part line
  let ts := maxN clk (rts + 1)
  storeTs part line ts ts fun l => f { l with lam := 3 }
  pure ts

/-- Bytes put in memory at home, with the dirty frame and context tag of R462 and R476. -/
def putHome (part : Nat) (ctx : Option Nat) (pa : Nat) (bs : List Byte) : M Unit :=
  upd fun s =>
    let s := (s.setBytes pa bs).markDirty part pa
    s.setLine (pa / 64) ((s.line (pa / 64)).dirtied ctx)

/-- A generic-path write of bytes at `o` of a line by a core (R166, R171 to R173): the timestamp of
the write. `priv` says that the page's class lets home privatise the line. DESIGN CHOICE: the previous write that
R172 compares is the last one that reached home; what a holder writes in its copy is none, nor is its merge
(log 55). -/
def coherentWrite (part c : Nat) (ctx : Nat) (line o : Nat) (bs : List Byte) (priv : Bool) : M Nat := do
  let m := byteMask o bs.length
  let l ← look fun s => s.line line
  let pts ← ptsOf c
  match l.holders.find? fun h => h.core = c && m &&& h.mask = m with
  | some h =>
    let ts := maxN pts h.tg
    let dirty := (List.range bs.length).foldl (fun d i => SMap.put d (o + i) (bs.getD i 0)) h.dirty
    let h' := { h with dirty := dirty, ts := maxN h.ts ts }
    upd fun s => (s.setLine line
      { l with dirty := some ctx, holders := l.holders.map fun x => if x.core = c then h' else x }).markDirty part
        (64 * line)
    issueTs part ts
    raisePts c ts
    pure ts
  | none => do
    let clash := l.holders.any fun h => h.core ≠ c && h.mask &&& m ≠ 0
    let holds := l.holders.any fun h => h.core = c
    if clash || (!holds && 8 ≤ l.holders.length) then mergeLine part line else pure ()
    let l ← look fun s => s.line line
    let grant := priv && !l.holders.any (fun h => h.core = c) && decide (l.holders.length < 8) &&
      (match l.lastCore with | none => false | some k => decide (k ≠ c)) &&
      decide (l.lastMask &&& m = 0)
    let ts ← stampWrite part line pts fun l => { l with lastCore := some c, lastMask := m }
    putHome part (some ctx) (64 * line + o) bs
    raisePts c ts
    if l.holders.any fun h => h.core = c then
      upd fun s => s.setLine line
        { s.line line with holders := (s.line line).holders.map fun h =>
            if h.core = c then
              { h with mask := h.mask ||| wordMask m, ts := maxN h.ts ts,
                       dirty := SMap.drop h.dirty fun k => o ≤ k && k < o + bs.length }
            else h }
    else if grant then do
      trackHolder part line c l.holders.isEmpty
      upd fun s => s.setLine line
        { s.line line with holders := (s.line line).holders ++ [⟨c, wordMask m, ts, [], ts⟩] }
    else pure ()
    pure ts

/-- A write at home made by the device for a request that carries a clock (R166, R183): lines of
engines, append records, table entries. It merges a privatised line first. -/
def deviceWrite (part clk : Nat) (ctx : Option Nat) (pa : Nat) (bs : List Byte) : M Nat := do
  let line := pa / 64
  mergeLine part line
  let ts ← stampWrite part line clk fun l => { l with lastCore := none, lastMask := 0 }
  putHome part ctx pa bs
  pure ts

/-- A read at home made by the device for a request that carries a clock (R164): the write timestamp
that the request's clock rises to. -/
def deviceRead (part clk line : Nat) : M Nat := do
  mergeLine part line
  let (wts, rts) ← homeTs part line
  let l ← look fun s => s.line line
  let lam := 2 ^ l.lam.toNat
  storeTs part line wts (maxN rts (maxN (wts + lam) (clk + lam))) id
  pure (maxN clk wts)

end Sys2Proof.Machine
end

