-- ==== Sys2Proof/Machine/Arrays.lean ====
section
/-!
DEFINITION. Errors in the arrays of memory and L2 as a read meets them (R473 to R479): corrected, poisoned, or a
dirty line lost, whose context is struck at the end of the step.
-/

namespace Sys2Proof.Machine

/-- A frame retired (R478). -/
def State.retire (s : State) (part : Option Nat) (frame : Nat) : State :=
  if s.retired.contains frame then s
  else { s with retired := insertNat s.retired frame }.errRec part 2 0 frame (unitOf frame) none

/-- Microseconds of 24 hours. -/
def dayUs : Nat := 86400000000

/-- The corrected-error table with its stalest entry dropped where it holds 16,384 (R478). -/
def trimErrs (m : SMap (List Nat)) : SMap (List Nat) :=
  if m.length ≤ 16384 then m
  else
    let last (l : List Nat) : Nat := l.foldl maxN 0
    let oldest := m.foldl (fun b e => minN b (last e.2)) (2 ^ 64)
    match m.find? fun e => last e.2 = oldest with
    | none => m
    | some e => SMap.del m e.1

/-- A corrected error in an HBM block (R478): recorded against the frame, which is retired at the third
within 24 hours. -/
def State.corrected (s : State) (part : Option Nat) (line : Nat) : State :=
  let frame := line / 1024 * 65536
  let times := ((SMap.getD [] s.corrErr frame).filter fun t => s.rtc < t + dayUs) ++ [s.rtc]
  let s := { s with corrErr := trimErrs (SMap.put s.corrErr frame times) }
  let s := s.errRec part 1 0 (64 * line) (unitOf (64 * line)) none
  if 3 ≤ times.length then s.retire part frame else s

/-- Partition of a line of memory. -/
def State.partOfLine (s : State) (line : Nat) : Option Nat := s.partOfTwelfth (stackOf (64 * line) / 2)

/-- A block that became a poisoned line (R475). -/
def State.poisonBlock (s : State) (part : Option Nat) (line : Nat) : State :=
  (s.addPoison line).errRec part 3 0 (64 * line) (unitOf (64 * line)) none

/-- The line that a line of a replica frame copies (R133). -/
def State.replicaSrc (s : State) (part : Option Nat) (line : Nat) : Option Nat :=
  (part.bind s.part?).bind fun p =>
    ((p.replicas.flatMap fun e => e.2).find? fun e => e.2 = line / 1024 * 65536).map fun e => e.1 / 64 + line % 1024

/-- A line of a replica in error, dropped and read again from its frame (R475). -/
def State.rereadReplica (s : State) (part : Option Nat) (line src : Nat) : State :=
  let s := (s.setBytes (64 * line) (s.bytes (64 * src) 64)).setTag line (s.tag src)
  let s := if s.isPoison src then s.addPoison line else s
  s.errRec part 1 2 (64 * line) (unitOf (64 * line)) none

/-- UNIT of an L2 record: the slice and the way that held the line, of those that are not quarantined (R476, R479).
FREE VALUE: which way. -/
def wayOf (part line : Nat) : M Nat := do
  let h ← homeOf part line
  let n ← draw
  let q ← look fun s => (s.slice h).quarantined
  let left := (List.range 16).filter fun i => !q.contains i
  pure (16 * h + left.getD (Config.freeNat n % maxN left.length 1) 0)

/-- A dirty L2 line that cannot be corrected (R476): step 1 at once, the rest at the end of the step. -/
def strikeLine (part line ctx : Nat) : M Unit := do
  let unit ← wayOf part line
  upd fun s =>
    let s := (s.addPoison line).setLine line { s.line line with dirty := none }
    { s.errRec (some part) 3 1 (64 * line) unit none with strikes := s.strikes ++ [(part, line, ctx, unit)] }

/-- What a read of a line finds of the errors that wait in its arrays (R473, R475): a line that is clean in L2 is read
again from HBM. -/
def meetLine (line : Nat) : M Unit := do
  let us ← look fun s => s.upsets.filter fun u =>
    match u with
    | .block l _ | .l2 l _ => decide (l = line)
    | _ => false
  if us.isEmpty then pure ()
  else do
    let part ← look fun s => s.partOfLine line
    upd fun s => { s with upsets := s.upsets.filter fun u => !us.contains u }
    each us fun u =>
      match u with
      | .block _ true => upd fun s => s.corrected part line
      | .block _ false => upd fun s =>
        match s.replicaSrc part line with
        | some src => s.rereadReplica part line src
        | none => s.poisonBlock part line
      | .l2 _ corrects => do
        let d ← look fun s => if corrects then none else (s.line line).dirty
        match part, d with
        | some j, some ctx => strikeLine j line ctx
        | some j, none => do
          let unit ← wayOf j line
          upd fun s => s.errRec part 1 1 (64 * line) unit none
        | none, _ => upd fun s => s.errRec part 1 1 (64 * line) 0 none
      | _ => pure ()

end Sys2Proof.Machine
end

