-- ==== Sys2Proof/Machine/Translate.lean ====
section
/-!
DEFINITION. Page tables and leaves (R92 to R96), leases (R108 to R118), and the place in memory that an
access reaches.
-/

namespace Sys2Proof.Machine

open Config

/-! ## Leaf fields (R94) -/

def leafClass (e : DWord) : Nat := (e.extractLsb' 61 3).toNat
def leafT (e : DWord) : Bool := e.getLsbD 60
def leafS (e : DWord) : Bool := e.getLsbD 59
def leafSH (e : DWord) : Bool := e.getLsbD 58
def leafFrame (e : DWord) : Nat := (e.extractLsb' 16 36).toNat * 65536
def leafD (e : DWord) : Bool := e.getLsbD 7
def leafA (e : DWord) : Bool := e.getLsbD 6
def leafX (e : DWord) : Bool := e.getLsbD 5
def leafW (e : DWord) : Bool := e.getLsbD 4
def leafR (e : DWord) : Bool := e.getLsbD 3
def entryL (e : DWord) : Bool := e.getLsbD 1
def entryV (e : DWord) : Bool := e.getLsbD 0
/-- NEXT of a pointer (R93). -/
def entryNext (e : DWord) : Nat := (e.extractLsb' 8 44).toNat * 256

/-- Size of the page of a leaf at a level (R92). -/
def pageSize : Nat → Nat
  | 0 => 65536
  | 1 => 2097152
  | _ => 1073741824

/-- Index of a virtual address at a level (R92). -/
def levelIndex (va lvl : Nat) : Nat :=
  match lvl with
  | 0 => bitsN va 20 16
  | 1 => bitsN va 29 21
  | 2 => bitsN va 38 30
  | 3 => bitsN va 47 39
  | _ => bitsN va 55 48

/-- Size of the table that a pointer at a level names (R92). -/
def nextTableSize (lvl : Nat) : Nat := if lvl = 1 then 256 else 4096

/-- Whether a leaf is malformed for a partition at a level (R91, R95, R470, R471, R478). -/
def leafMalformed (s : State) (j : Nat) (p : Part) (lvl : Nat) (e : DWord) : Bool :=
  let c := leafClass e
  let f := leafFrame e
  let size := pageSize lvl
  let ap := (p.peers.getD ((f - peerBase) / 2 ^ 44) 0)
  decide (lvl ≥ 3) || decide (f % size ≠ 0) || decide (c = 1) ||
    (leafT e && !(c = 0 || c = 3 || c = 4)) || (leafS e && c ≠ 0) || (leafSH e && c ≠ 0) ||
    (leafX e && c ≠ 5) || (c = 5 && leafW e) ||
    (if c = 6 then !(isHostWin f) || decide (f - hostBase ≥ p.cfg.hsize)
     else if c = 7 then !(isPeer f) || !(ap.getLsbD 63) || ap.extractLsb' 48 12 = 0
     else !(inPartHbm j p.size f size)) ||
    s.retired.any fun r => f ≤ r && r < f + size

/-- What a walk finds. -/
inductive WalkRes where
  | absent
  | malformed
  | leaf (lvl entry : Nat) (e : DWord)
  deriving DecidableEq, Repr

/-- A walk of a virtual address down the levels of a list, from a table (R92 to R95). DESIGN CHOICE: a table that
does not lie in the partition's own populated HBM is counted malformed, since R15 lets no value of the partition
stand elsewhere; R95 does not list it (log 46). -/
def walkFrom (s : State) (j : Nat) (p : Part) (va table : Nat) : List Nat → WalkRes
  | [] => .malformed
  | lvl :: rest =>
    let a := table + 8 * levelIndex va lvl
    let e : DWord := w64 (s.homeLe a 8)
    if !inPartHbm j p.size a 8 then .malformed
    else if !entryV e then .absent
    else if entryL e then (if leafMalformed s j p lvl e then .malformed else .leaf lvl a e)
    else if lvl = 0 || entryNext e % nextTableSize lvl ≠ 0 then .malformed
    else walkFrom s j p va (entryNext e) rest

/-- A walk of a virtual address in a context (R92). DESIGN CHOICE: a value with bits [63:56] nonzero, which R90
puts outside every lease, finds no translation where no lease is checked either (log 46). -/
def State.walk (s : State) (j ctx va : Nat) : WalkRes :=
  match s.part? j with
  | none => .absent
  | some p => if 2 ^ 56 ≤ va then .absent else walkFrom s j p va (s.ctxField p ctx 40 8) [4, 3, 2, 1, 0]

/-- Physical addresses of the entries that a walk reads, from a table down (R92, R96). -/
def walkPath (s : State) (j : Nat) (p : Part) (va table : Nat) : List Nat → List Nat
  | [] => []
  | lvl :: rest =>
    let a := table + 8 * levelIndex va lvl
    let e : DWord := w64 (s.homeLe a 8)
    if !inPartHbm j p.size a 8 then []
    else if entryV e && !entryL e && lvl ≠ 0 then a :: walkPath s j p va (entryNext e) rest
    else [a]

/-- Reads at home made for a request that carries a clock, each of the line of an address (R164, R473): the clock after
them. -/
def deviceReads (part clk : Nat) : List Nat → M Nat
  | [] => pure clk
  | a :: l => do
    meetLine (a / 64)
    let ts ← deviceRead part clk (a / 64)
    deviceReads part ts l

/-- Physical addresses of the entries that a walk of an address reads in a context (R92, R96). -/
def State.walkAddrs (s : State) (part ctx va : Nat) : List Nat :=
  match s.part? part with
  | none => []
  | some p => walkPath s part p va (s.ctxField p ctx 40 8) [4, 3, 2, 1, 0]

/-- A walk's reads for a request that carries a clock (R96, R178): each is a read at the home of its entry, which brings
privatised bytes home (R173); the clock after them. -/
def timedWalk (part clk ctx va : Nat) : M Nat := do
  let rec' ← look fun s => ((s.part? part).map fun p => ctxAddr p ctx / 64)
  match rec' with
  | none => pure ()
  | some l => meetLine l
  let as ← look fun s => s.walkAddrs part ctx va
  deviceReads part clk as

/-- The walker's reads for an address (R96, R178), by which the clock of the core rises. -/
def walkReads (part core ctx va : Nat) : M Unit := do
  let pts ← ptsOf core
  let ts ← timedWalk part pts ctx va
  raisePts core ts

/-! ## Leases -/

/-- Right bits of a range record (R85): r, w, x, s. -/
def rightR : Nat := 0
def rightW : Nat := 1
def rightX : Nat := 2
def rightS : Nat := 3

/-- Whether a range holds an address and carries every right of a list. -/
def Range.has (r : Range) (a : Nat) (rights : List Nat) : Bool :=
  decide (r.base ≤ a) && decide (a < r.base + r.size) && rights.all fun i => r.rights.getLsbD i

/-- Whether the bytes [a, a+n) all lie in ranges that carry the rights (R110), taking at most `fuel`
ranges one after another. -/
def coveredBy (rs : List Range) (rights : List Nat) (a n : Nat) : Nat → Bool
  | 0 => decide (n = 0)
  | fuel + 1 =>
    if n = 0 then true
    else
      match rs.find? fun r => r.has a rights with
      | none => false
      | some r =>
        let k := r.base + r.size - a
        if n ≤ k then true else coveredBy rs rights (a + k) (n - k) fuel

/-- Bytes of the twin window (R118). -/
def twinSize : Nat := 2 ^ 48

/-- Whether an address lies in the twin window (R118). -/
def inTwin (a : Nat) : Bool := twinBase ≤ a && a < twinBase + twinSize

/-- The life of a launch that a team number of R118 names. -/
def State.twinLife (s : State) (launch team : Nat) : Option Life :=
  (s.lives.find? fun e => e.2.launch = launch && !e.2.ended && e.2.cluster * 12 + e.2.team = team).map (·.2)

/-- The physical address that an address in the twin window reaches for a launch: a byte of the frames that its
life holds, resident or saved (R111, R118, R119). -/
def State.twin (s : State) (launch a : Nat) : Option Nat :=
  if !inTwin a then none
  else
    let o := a - twinBase
    match s.launch? launch with
    | none => none
    | some l =>
      if o / 2 ^ 40 ≠ l.slot then none
      else
        match s.twinLife launch (o / 2 ^ 25 % 2 ^ 15) with
        | none => none
        | some f => ((f.frames.take (8 * f.ngroups))[o % 2 ^ 25 / 65536]?).map (· + o % 65536)

/-- The implicit ranges of a launch (R119): the frames of each group of its resident teams. -/
def State.implicit (s : State) (launch : Nat) : List Range :=
  match s.launch? launch with
  | none => []
  | some l =>
    s.teams.flatMap fun e =>
      match s.life? e.2.life with
      | none => []
      | some f =>
        if f.launch = launch then
          (List.map (·.1) e.2.groups).map fun g =>
            ⟨twinBase + l.slot * 2 ^ 40 + (f.cluster * 12 + f.team) * 2 ^ 25 + g * 2 ^ 19, 2 ^ 19, 3⟩
        else []

/-- A range without the addresses that no declared range covers: the twin window, where only implicit ranges
count, and the window of R117 with all above it (R117, R119). -/
def Range.outsideWindows (r : Range) : List Range :=
  let part (lo hi : Nat) : Range := ⟨maxN r.base lo, minN (r.base + r.size) hi - maxN r.base lo, r.rights⟩
  [part 0 twinBase, part (twinBase + twinSize) privBase]

/-- The ranges that an access of an issuer may lie in besides the twin window: the launch's declared
ranges, or the handler ranges of the context record (R421). -/
def State.rangesOf (s : State) (w : Who) : List Range :=
  match w.level with
  | .lane => ((s.launch? w.launch).map (·.ranges)).getD []
  | .handler =>
    match s.part? w.part with
    | none => []
    | some p =>
      [⟨s.ctxField p w.ctx 88 8, s.ctxField p w.ctx 96 4, 4⟩,
       ⟨s.ctxField p w.ctx 72 8, s.ctxField p w.ctx 84 4, 3⟩]
  | .firmware => []

/-- Where the window of R117 leads an executing lane: its twin address, or at handler and firmware
level its frame in HDATA (R118, R423). -/
def State.windowTarget (s : State) (w : Who) (lane off : Nat) : Nat :=
  match w.level with
  | .lane =>
    let slot := ((s.launch? w.launch).map (·.slot)).getD 0
    let team := ((s.life? w.life).map fun f => f.cluster * 12 + f.team).getD 0
    twinBase + slot * 2 ^ 40 + team * 2 ^ 25 + (w.g * 32 + lane) * 2 ^ 14 + off
  | _ =>
    match s.part? w.part with
    | none => 0
    | some p =>
      let k := w.core - 32 * w.part
      (s.ctxField p w.ctx 72 8 + s.ctxField p w.ctx 84 4 + 2 ^ 64 - 524288 * (k + 1) + 16384 * lane +
        off) % 2 ^ 64

/-- Whether an address lies in the window of R117. -/
def inWindow (a : Nat) : Bool := privBase ≤ a && a < privBase + privSize

/-- Where an access reaches: a physical address, the leaf that governs it, and the physical address of
the leaf's entry, absent for a frame of the pool. -/
structure Place where
  pa : Nat
  leaf : DWord
  entry : Option Nat
  deriving DecidableEq, Repr

/-- The leaf of a frame of the pool: class 0, R and W (R119). -/
def frameLeaf (frame : Nat) : DWord := w64 (frame + 64 + 16 + 8 + 3)

/-- The pinned leaf that a launch holds for an address (R105). -/
def Launch.pinOf (l : Launch) (va : Nat) : Option Pin :=
  l.pins.find? fun p => p.va ≤ va && va < p.va + p.size

/-- A leaf without its A and D bits. -/
def leafKey (e : DWord) : DWord := e &&& ~~~0xC0#64

/-- A translation as an access uses it: page base, size, leaf, and the physical address of its entry. -/
structure Xlat where
  base : Nat
  size : Nat
  leaf : DWord
  entry : Nat
  deriving DecidableEq, Repr

/-- Whether a held TLB entry covers an address of a context. -/
def TlbEnt.covers (t : TlbEnt) (ctx va : Nat) : Bool := t.ctx = ctx && t.va ≤ va && va < t.va + t.size

/-- The translation that an issuer's accesses of this step use for an address: the leaf that the tables name or
the one that the launch pinned, or, at the other levels, that a TLB holds. Where system software has changed a
leaf, one of the two for the whole of an access (R100, R105, R120). -/
def State.xlat (s : State) (w : Who) (va : Nat) : Option Xlat :=
  let new : Option Xlat :=
    match s.walk w.part w.ctx va with
    | .leaf lvl entry e => some ⟨va / pageSize lvl * pageSize lvl, pageSize lvl, e, entry⟩
    | _ => none
  let old : Option Xlat :=
    if w.level = .lane then
      ((s.launch? w.launch).bind fun l => l.pinOf va).map fun p => ⟨p.va, p.size, p.leaf, p.entry⟩
    else ((s.core w.core).tlb.find? fun t => t.covers w.ctx va).map fun t => ⟨t.va, t.size, t.leaf, t.entry⟩
  match old, new with
  | some o, some x =>
    if leafKey x.leaf = leafKey o.leaf then some { o with leaf := x.leaf, entry := x.entry }
    else if useOld s.pick (va / 65536) then some o else some x
  | some o, none => some o
  | none, x => x

/-- A bit of a leaf set by one atomic OR at its home, for a request that carries a clock (R96): 6 is A, 7
is D. A poisoned line takes none (R477). -/
def setLeafBitAt (part clk entry i : Nat) : M Unit := do
  let e ← look fun s => s.homeLe entry 8
  if noEntry ≤ entry || bitN e i then pure ()
  else do
    meetLine (entry / 64)
    let bad ← look fun s => s.isPoison (entry / 64)
    if bad then upd fun s => s.dropRec part entry
    else do
      let _ ← deviceWrite part clk none entry (leBytesOf 8 (e + 2 ^ i))
      pure ()

/-- A bit of a leaf set for a core. -/
def setLeafBit (part c entry i : Nat) : M Unit := do
  let pts ← ptsOf c
  setLeafBitAt part pts entry i

/-! ## Shadowed buffers (R205 to R208) -/

/-- CUR and DIRTY of a pair entry and its FRAME1 (R206). -/
def State.pair (s : State) (a : Nat) : Bool × Bool × Nat :=
  (bitN (s.homeLe a 1) 0, bitN (s.homeLe a 1) 1, s.homeLe (a + 8) 8 / 65536 * 65536)

/-- The descriptor of the shadowed buffer that covers an address: physical addresses of the descriptor
and of the page's pair entry, the page number, BASE and NPAGES. A descriptor, a pair entry or a FRAME1 outside the
partition's own HBM describes no buffer (R15, R207, log 46). -/
def State.shadow (s : State) (j ctx va : Nat) : Option (Nat × Nat × Nat × Nat × Nat) :=
  match s.part? j with
  | none => none
  | some p =>
    let tab := s.ctxField p ctx 56 8
    ((List.range 256).map fun i => tab + 64 * i).findSome? fun d =>
      let base := s.homeLe (d + 40) 8
      let n := s.homeLe (d + 36) 4
      let k := (va - base) / 65536
      let a := s.homeLe (d + 48) 8 + 16 * k
      if s.own j d 64 && bitN (s.homeLe d 1) 0 && decide (base ≤ va) && decide (va < base + 65536 * n) &&
          s.own j a 16 && s.own j (s.pair a).2.2 65536 then some (d, a, k, base, n)
      else none

/-- The frame of an SH page that an issuer's lanes reach: the published frame as its core reads it on
the generic path (R208), or the working frame of a context in checkpoint mode (R469). -/
def shadowFrame (w : Who) (va frame0 : Nat) : M Nat := do
  let sh ← look fun s => s.shadow w.part w.ctx va
  match sh with
  | none => pure frame0
  | some (d, a, _, _, _) => do
    let _ ← coherentRead w.part w.core (d / 64) 0 64 true
    let (bs, _) ← coherentRead w.part w.core (a / 64) (a % 64) 16 true
    let ck ← look fun s => ((s.part? w.part).map fun p => s.ctxCkpt p w.ctx).getD false
    let x := leOf (bs.take 1)
    let f1 := leOf ((bs.drop 8).take 8) / 65536 * 65536
    let cur1 := bitN x 0
    let useOne := if ck && bitN x 1 then !cur1 else cur1
    pure (if useOne then f1 else frame0)

/-- A leaf loaded into the TLBs of a core for an access, where they do not hold it: the walker's reads, and the A
bit (R96, R97). -/
def loadTlb (w : Who) (va : Nat) (x : Xlat) : M Unit := do
  let hit ← look fun s => (s.core w.core).tlb.any fun t => t.covers w.ctx va && leafKey t.leaf = leafKey x.leaf
  if hit then pure ()
  else do
    walkReads w.part w.core w.ctx va
    setLeafBit w.part w.core x.entry 6
    upd fun s => s.updCore w.core fun k =>
      { k with tlb := k.tlb.filter (fun t => !t.covers w.ctx va) ++ [⟨w.ctx, x.base, x.size, x.leaf, x.entry⟩] }

/-- The frame of an address that the twin window reaches for an issuer. -/
def State.twinOf (s : State) (w : Who) (va : Nat) : Option Nat :=
  if w.level = .lane then s.twin w.launch va else none

/-- The place of a virtual address for a demand access of an issuer, where it has one: the leaf loaded (R96), the
shadow routing of R208. -/
def tryPlace (w : Who) (va : Nat) : M (Option Place) := do
  let tw ← look fun s => s.twinOf w va
  match tw with
  | some pa => pure (some ⟨pa, frameLeaf (pa / 65536 * 65536), none⟩)
  | none => do
    let x ← look fun s => if inTwin va && decide (w.level = .lane) then none else s.xlat w va
    match x with
    | none => pure none
    | some x => do
      loadTlb w va x
      if leafSH x.leaf then do
        let g ← shadowFrame w va (leafFrame x.leaf)
        pure (some ⟨g + va % 65536, x.leaf, some x.entry⟩)
      else pure (some ⟨leafFrame x.leaf / x.size * x.size + (va - x.base), x.leaf, some x.entry⟩)

/-- LEASE of an access that has no place. -/
def unplaced (w : Who) (va : Nat) : Trap :=
  { kind := kLEASE, cause := 1, mask := if w.front then 0 else laneMask w.act, addr := va }

/-- The place of a virtual address for a demand access that its checks have let pass. -/
def placeOf (w : Who) (va : Nat) : M Place := do
  let p ← tryPlace w va
  match p with
  | some p => pure p
  | none => trap (unplaced w va)

/-- The leaf of an address for a check or a probe: no bit set, nothing moved. -/
def State.peekLeaf (s : State) (w : Who) (va : Nat) : Option DWord :=
  match s.twinOf w va with
  | some pa => some (frameLeaf (pa / 65536 * 65536))
  | none => if inTwin va && decide (w.level = .lane) then none else (s.xlat w va).map (·.leaf)

/-! ## Lease checks (R110) -/

/-- Whether every granule that the bytes [a, a+n) touch has a translation. -/
def State.mapped (s : State) (w : Who) (a n : Nat) : Bool :=
  (List.range ((a % 65536 + n + 65535) / 65536)).all fun i => (s.xlat w (a / 65536 * 65536 + 65536 * i)).isSome

/-- The ranges that the bytes of an issuer's access must lie in: those of its launch, declared and implicit, or
of its context's handlers (R110, R117, R119, R421, R423). -/
def State.leaseRanges (s : State) (w : Who) : List Range :=
  (s.rangesOf w).flatMap Range.outsideWindows ++ (if w.level = .lane then s.implicit w.launch else [])

/-- Whether an access of `n` bytes at `a` with some rights lies inside the issuer's lease (R90, R110, R117).
Firmware has no lease check (R421). DESIGN CHOICE: at handler and firmware level, which hold no pins, an address
without a translation lies outside too, so that LEASE is raised and R424 passes it on (log 40). -/
def State.inLease (s : State) (w : Who) (a n : Nat) (rights : List Nat) : Bool :=
  let rs := s.leaseRanges w
  decide (a + n ≤ 2 ^ 56) && (w.level = .firmware || coveredBy rs rights a n (rs.length + 1)) &&
    (w.level = .lane || s.mapped w a n)

end Sys2Proof.Machine
end

