-- ==== Sys2Proof/Machine/Reset.lean ====
section
/-!
DEFINITION. What stops a whole partition: the write-back of class 6 lines, the initial announcement
table, and the partition reset (R397, R461).
-/

namespace Sys2Proof.Machine

open Config

/-- Key of a line of a partition's host-coherent window in the tables of class 6 lines. -/
def key6 (part line : Nat) : Nat := part * 2 ^ 64 + line

/-- Where the model keeps the host's memory: host physical address `ha` stands above the device's
physical space. -/
def hostMem (ha : Nat) : Nat := 2 ^ 52 + ha

/-- Host physical address of a device address of the host-coherent window (R470). -/
def hostAddr (p : Part) (pa : Nat) : Nat := p.cfg.hbase + (pa - hostBase)

/-- A dirty class 6 line of the home slices written into the host-line cache (R155, R461): the line is
then clean at home and M in the host-line cache. -/
def State.writeBack6 (s : State) (k : Nat) : State :=
  match SMap.get? s.home6 k with
  | some ⟨d, _ :: _⟩ =>
    if s.hlcPoison.contains k then { s with home6 := SMap.put s.home6 k ⟨d, []⟩ }
    else { s with home6 := SMap.put s.home6 k ⟨d, []⟩, hlc := SMap.put s.hlc k (.m, d) }
  | _ => s

/-- Every dirty class 6 line of a partition that a test selects, written back. -/
def State.writeBackAll6 (s : State) (part : Nat) (sel : Home6 → Bool) : State :=
  ((s.home6.filter fun e => e.1 / 2 ^ 64 = part && sel e.2).map (·.1)).foldl
    (fun s k => s.writeBack6 k) s

/-- A run of whole lines that the device overwrites: the host's copies are taken back (R465), no holder's bytes are
left (R173), and the lines are clean. DESIGN CHOICE: a scrub and a frame's copy reach HBM (log 55). -/
def State.overwriteRange (s : State) (pa n : Nat) : State :=
  let inside (l : Nat) : Bool := pa ≤ 64 * l && 64 * l < pa + n
  let s := (s.hostHeld.filter inside).foldl (fun s l => s.takeBack l) s
  { s with lines := SMap.map s.lines fun k l =>
      if inside k then { l with dirty := none, holders := l.holders.map fun h => { h with dirty := [] } } else l }

/-- Bytes and tags of a physical range zero. -/
def State.zeroRange (s : State) (pa n : Nat) : State :=
  let s := s.overwriteRange pa n
  { s with mem := SMap.drop s.mem fun a => pa ≤ a && a < pa + n,
           tags := SMap.drop s.tags fun l => pa ≤ 64 * l && 64 * l < pa + n,
           poison := s.poison.filter fun l => !(pa ≤ 64 * l && 64 * l < pa + n) }

/-- Record `i` of an announcement table as R397 starts it: zero, but for the next index of the free list. -/
def annBlank (n i : Nat) : List Byte := leBytesOf 32 0 ++ leBytesOf 8 (if i < n then i + 1 else 0) ++ leBytesOf 24 0

/-- The announcement table of a context initialised with its header's NREC (R397, R461 step 4): the header, and each
record free. -/
def State.initAnn (s : State) (j : Nat) (p : Part) (ctx : Nat) : State :=
  let atab := s.ctxField p ctx 48 8
  let n := s.homeLe (atab + 4) 2
  if n = 0 || !(s.own j atab (64 * (n + 1))) then s
  else
    (List.range n).foldl (fun s i => s.devPut j (atab + 64 * (i + 1)) (annBlank n (i + 1)))
      (s.devPut j atab (leBytesOf 2 1 ++ leBytesOf 2 n ++ leBytesOf 2 n ++ leBytesOf 58 0))

/-- Bytes of a line from a source that an `append` read: poison or tag 0xFF where the source could not be
corrected (R129), nothing where a part of a poisoned line would be written (R477). -/
def State.landPiece (s : State) (part : Nat) (r : Resv) (off len : Nat) : State :=
  let line := (r.frame + off) / 64
  let bad := r.src.bad.any fun e => overlaps (r.start + e.1) e.2 off len
  let s := s.overwriteLine line ((r.frame + off) % 64) len (some r.ctx)
  if bad && !r.tagged then s.addPoison line
  else if len < 64 && s.isPoison line then s.dropRec part (64 * line)
  else
    let s := (if len = 64 then s.freshLine line else s).setBytes (r.frame + off) ((r.src.bytes.drop (off - r.start)).take len)
    s.setTag line
      (if !r.tagged then 0 else if bad then 0xFF else r.src.tags.getD ((off - r.start) / 64) 0)

/-- A reservation's bytes and tags put in memory. -/
def State.landBytes (s : State) (part : Nat) (r : Resv) : State :=
  ((pieces r.start r.src.bytes.length).foldl (fun s e => s.landPiece part r e.1 e.2) s).markDirty part r.frame

/-- A reservation's bytes written at home without regard to the clock (R129): what a stop of the
partition leaves. -/
def State.landResv (s : State) (part : Nat) (p : Part) (r : Resv) : State :=
  let s := s.landBytes part r
  let a := s.appendRec part p r.frame
  s.setAppendRec part p r.frame { a with settled := a.tail, st := if a.st = 1 then 2 else a.st }

/-- The home lines of a partition with their timestamps at reset and every privatised byte applied. -/
def State.resetLines (s : State) (part size : Nat) : State :=
  let s := (s.lines.filter fun e => homedIn part size e.1).foldl (fun s e =>
    e.2.holders.foldl (fun s h => h.dirty.foldl (fun s b => s.setByte (64 * e.1 + b.1) b.2) s) s) s
  let fresh := SMap.map s.lines fun k l =>
    if homedIn part size k then { LineSt.init with link := l.link } else l
  { s with lines := fresh.filter fun e => decide (e.2 ≠ LineSt.init) }

/-- PCFG, peers, error ring and lost dies stay; everything else of a partition as at reset (R461). -/
def Part.reset (p : Part) : Part :=
  { p with pstate := 0, freeq := [], freeing := none, freedone := 0, clkmax := 0, xpprobe := 0,
           latecmd := 0, dropspec := 0, hostclk := 0, queue := [], pushq := [], cmds := [], resPos := 0,
           resUsed := [], resq := [], poolTaken := [], dirtyFrames := [], replicas := [],
           codeLines := [], ctxs := [], resvs := [], annSince := [], walker := 0,
           pendVec := p.pendVec.filter fun v => !(v = 1 || 1024 ≤ v),
           heldVec := p.heldVec.filter fun v => !(v = 1 || 1024 ≤ v) }

/-- PCFG with the defaults of R457 and no address given. -/
def PCfg.blank : PCfg :=
  { dirtymap := 0, fentry := 0, tslice := Config.tslice, resqn := 0, resq := 0, repln := Config.repln,
    fpooln := 0, fpool := 0, taskarea := 0, taskn := 0, nctx := 0, ctxtab := 0, astab := 0, hbase := 0,
    hsize := 0, cemask := 0, qosHost := 0, qosCE := 0 }

/-- A partition of a size right after its ASSIGN (R455): reset state. -/
def Part.blank (size : Nat) : Part :=
  { size := size, cfg := PCfg.blank, pstate := 0, err := 0, suberr := false, clockout := false,
    fwfault := false, lsubctx := 0, freeq := [], freeing := none, freedone := 0,
    peers := List.replicate 16 0, clkmax := 0, xpprobe := 0, latecmd := 0, dropspec := 0, hostclk := 0,
    unmasked := [], pendVec := [], heldVec := [], errs := ErrRing.empty, queue := [], pushq := [],
    nextOrder := 0, cmds := [], resPos := 0, resUsed := [], resq := [], poolTaken := [],
    dirtyFrames := [], replicas := [], codeLines := [], ctxs := [], resvs := [], annSince := [],
    walker := 0, measured := none, lost := false }

/-- A partition stopped without a save (R461): steps 1 to 5, with CLOCKOUT or FWFAULT set before step 5
where the stop has that cause (R162, R424). A partition that has lost a die stays in PSTATE 4 (R480). -/
def State.resetPart (s : State) (j : Nat) (clockout fwfault : Bool) : State :=
  match s.part? j with
  | none => s
  | some p =>
    let ofPart (l : Nat) : Bool := match s.life? l with | none => false | some f => f.part = j
    let mine (c : Nat) : Bool := j ≤ c / 32 && c / 32 < j + p.size
    let lives := s.lives.filter fun e => e.2.part ≠ j
    let slot (c : Nat) : Bool := s.saved.any fun e => c = slotCore e.2.team.life && ofPart e.2.team.life
    let s := s.writeBackAll6 j fun _ => true
    let s := p.resvs.foldl (fun s r => s.landResv j p r) s
    let s := s.resetLines j p.size
    let s := { s with
      ops := s.ops.filter fun e => !(mine e.2.owner.core)
      teams := s.teams.filter fun e => !(mine e.2.core)
      strikes := s.strikes.filter fun e => e.1 ≠ j
      saved := s.saved.filter fun e => !(ofPart e.2.team.life)
      launches := s.launches.filter fun e => e.2.part ≠ j
      cores := s.cores.filter fun e => !(mine e.1) && !(slot e.1)
      home6 := s.home6.filter fun e => e.1 / 2 ^ 64 ≠ j
      slices := SMap.map s.slices fun k x =>
        if j ≤ k / 128 && k / 128 < j + p.size then
          { Slice.init with quarantined := x.quarantined } else x }
    let s := { s with lives := lives }
    let s := (List.range p.cfg.nctx).foldl (fun s c =>
      if s.ctxValid p c then (s.initAnn j p c).setSaved j p c false
      else if s.ctxSaved p c then s.setSaved j p c false else s) s
    let s := s.updPart j fun q =>
      { q.reset with clockout := q.clockout || clockout, fwfault := q.fwfault || fwfault,
                     pstate := if q.lost then 4 else 0 }
    if p.lost then s else s.vector j 0

end Sys2Proof.Machine
end

