-- ==== Sys2Proof/Machine/Ops.lean ====
section
/-!
DEFINITION. The named operations over groups, programs and the issuing agent; taking a fault (R415 to
R424) and going on after one (R429); and the move past an issued instruction.
-/

namespace Sys2Proof.Machine

/-! ## Groups, quads and programs -/

/-- A lane that holds nothing and stands nowhere. -/
def Lane.init : Lane := ⟨0, 0, .ended, [], 0, 0, 0⟩

/-- A quad with no lane on a path. -/
def Quad.init : Quad :=
  ⟨0, [], none, 0, 0, none, false, false, none, none, none, none, 0, 0, 0, false⟩

/-- A program of the front thread that does not run. -/
def Prog.init : Prog := ⟨false, 0, 0, [], [], none, none, none, [], none, 0, [], none, false⟩

/-- Registers that a window takes of its side (R239). -/
def regsOf (w : Nat) : Nat := 256 * ceilDiv w 8

/-- A group whose 32 lanes start at a clause (R238, R359): registers zero, predicates false, flags free.
`mask` says which lanes exist. -/
def Group.start (pc w age : Nat) (mask : BitVec 32) : Group :=
  { lanes := (List.range 32).map fun i =>
      if mask.getLsbD i then { Lane.init with pc := pc, base := pc, st := .live } else Lane.init
    quads := (List.range 8).map fun q =>
      { Quad.init with cur := mask.extractLsb' (4 * q) 4, gang := q, age := age }
    sreg := [], flags := [], w := w, alloc := regsOf w, pix := 0, pixBy := none, skid := 0, pfault := none,
    late := [], park := none, dqPos := 0, hasArrived := false, live := true, atPoint := false,
    age := age }

/-- A lane of a group. -/
def Group.lane (g : Group) (i : Nat) : Lane := g.lanes.getD i Lane.init

/-- A group with a lane changed. -/
def Group.updLane (g : Group) (i : Nat) (f : Lane → Lane) : Group :=
  { g with lanes := modNth g.lanes i f }

/-- A quad of a group. -/
def Group.quad (g : Group) (q : Nat) : Quad := g.quads.getD q Quad.init

/-- A group with a quad changed. -/
def Group.updQuad (g : Group) (q : Nat) (f : Quad → Quad) : Group :=
  { g with quads := modNth g.quads q f }

/-- A group with several quads changed. -/
def Group.updQuads (g : Group) (qs : List Nat) (f : Quad → Quad) : Group :=
  qs.foldl (fun g q => g.updQuad q f) g

/-- A group with several lanes changed. -/
def Group.updLanes (g : Group) (ls : List Nat) (f : Nat → Lane → Lane) : Group :=
  ls.foldl (fun g i => g.updLane i (f i)) g

/-- Predicate n of a lane; p15 reads true (R238). -/
def Lane.pred (l : Lane) (n : Nat) : Bool := n = 15 || l.p.getLsbD n

/-- A lane with predicate n written; p15 ignores writes (R238). -/
def Lane.setPred (l : Lane) (n : Nat) (b : Bool) : Lane :=
  if n < 15 then
    { l with p := if b then l.p ||| BitVec.ofNat 15 (2 ^ n) else l.p &&& ~~~BitVec.ofNat 15 (2 ^ n) }
  else l

/-- Register vn of a lane. -/
def Lane.reg (l : Lane) (n : Nat) : Word := SMap.getD 0 l.v n

/-- A lane with register vn written. -/
def Lane.setReg (l : Lane) (n : Nat) (x : Word) : Lane := { l with v := SMap.putD 0 l.v n x }

/-- Register sn of a group. -/
def Group.scalar (g : Group) (n : Nat) : Word := SMap.getD 0 g.sreg n

/-- A group with register sn written. -/
def Group.setScalar (g : Group) (n : Nat) (x : Word) : Group :=
  { g with sreg := SMap.putD 0 g.sreg n x }

/-- Register kn of a program. -/
def Prog.kreg (p : Prog) (n : Nat) : DWord := SMap.getD 0 p.k n

/-- A program with register kn written. -/
def Prog.setK (p : Prog) (n : Nat) (x : DWord) : Prog := { p with k := SMap.putD 0 p.k n x }

/-- Lanes of a quad that issue now: its current path, or its one lane in solo mode (R327, R331). -/
def Group.quadLanes (g : Group) (q : Nat) : List Nat :=
  let x := g.quad q
  match x.solo with
  | some i => [4 * q + i]
  | none => ((List.range 4).filter fun i => x.cur.getLsbD i).map fun i => 4 * q + i

/-- The group of an issuer or of an agent of a team. -/
def State.group? (s : State) : Agent → Option Group
  | .lane t g _ => (s.team? t).bind fun x => SMap.get? x.groups g
  | .handler c _ => (s.core c).handler.map (·.group)
  | _ => none

/-- The module with the group of an agent changed. -/
def State.updGroup (s : State) (a : Agent) (f : Group → Group) : State :=
  match a with
  | .lane t g _ => s.updTeam t fun x => { x with groups := SMap.modify x.groups g f }
  | .handler c _ => s.updCore c fun k =>
      { k with handler := k.handler.map fun h => { h with group := f h.group } }
  | _ => s

/-- The program of an agent. -/
def State.prog? (s : State) : Agent → Option Prog
  | .front t => (s.team? t).map (·.front)
  | .seqr t copy => (s.team? t).map fun x => if copy then x.cseq else x.mseq
  | _ => none

/-- The module with the program of an agent changed. -/
def State.updProg (s : State) (a : Agent) (f : Prog → Prog) : State :=
  match a with
  | .front t => s.updTeam t fun x => { x with front := f x.front }
  | .seqr t copy => s.updTeam t fun x =>
      if copy then { x with cseq := f x.cseq } else { x with mseq := f x.mseq }
  | _ => s

/-- The quads that issue with a quad: those whose latch is of the same gang. -/
def Group.gangOf (g : Group) (q : Nat) : List Nat :=
  match (g.quad q).latch with
  | none => []
  | some l => (List.range 8).filter fun i =>
      match (g.quad i).latch with
      | none => false
      | some m => m.gang = l.gang

/-- The progress index that a gang's next instruction starts from (R258). DESIGN CHOICE: where gangs merge or split after
the `swr`, the issuing gang is the one that keeps its name, that of its lowest quad (log 56). -/
def Group.startPix (g : Group) (l : Latch) : Nat := if g.pixBy = some l.gang then g.pix else 0

/-- The quad that an agent names. -/
def agentQuad : Agent → Nat
  | .lane _ _ q => q
  | .handler _ q => q
  | _ => 0

/-- SRC of an agent (R419). -/
def agentSrc : Agent → Nat
  | .lane _ g _ => g
  | .front _ => 64
  | .seqr _ false => 65
  | .seqr _ true => 66
  | .handler _ _ => handlerSrc

/-- The issuer that an agent is, where it exists and stands in a clause. -/
def State.who? (s : State) (a : Agent) : Option Who :=
  match a with
  | .handler c q =>
    match (s.core c).handler with
    | none => none
    | some h =>
      match (h.group.quad q).latch with
      | none => none
      | some l =>
        let qs := h.group.gangOf q
        some ⟨a, c, (s.partOfCore c).getD 0, h.ctx, 0, h.level, h.team, 0, h.gen, 0, handlerSrc,
          false, qs, qs.flatMap h.group.quadLanes, [], l, h.group.startPix l, false⟩
  | .lane t gi q =>
    match s.team? t with
    | none => none
    | some x =>
      match s.life? x.life, SMap.get? x.groups gi with
      | some f, some g =>
        match (g.quad q).latch with
        | none => none
        | some l =>
          let qs := g.gangOf q
          some ⟨a, x.core, f.part, f.ctx, f.launch, .lane, t, x.life, x.gen, gi, gi, false, qs,
            qs.flatMap g.quadLanes, [], l, g.startPix l, false⟩
      | _, _ => none
  | .front t | .seqr t _ =>
    match s.team? t, s.prog? a with
    | some x, some p =>
      match s.life? x.life, p.latch with
      | some f, some l =>
        if p.run then
          some ⟨a, x.core, f.part, f.ctx, f.launch, .lane, t, x.life, x.gen, 0, agentSrc a, true, [], [],
            [], l, 0, false⟩
        else none
      | _, _ => none
    | _, _ => none

/-- The lanes of an issuer whose guard is true (R17). -/
def State.guarded (s : State) (w : Who) (f : Fields) : List Nat :=
  match s.group? w.agent with
  | none => []
  | some g => w.lanes.filter fun i => ((g.lane i).pred f.pred.toNat).xor f.neg

/-- The forms that expose a progress index (R432). -/
def resumes : Instr → Bool
  | .ctxsave _ | .ctxload _ | .tlbinv _ => true
  | _ => false

/-- The issuer of a word: with the guard and the YIELD hint of the word (R17, R28), and a progress index of 0 unless
the form exposes one (R243, R258, R432). -/
def State.issuer (s : State) (i : Instr) (w : Who) (f : Fields) : Who :=
  { w with act := s.guarded w f, young := f.yield, pix := if resumes i then w.pix else 0 }

/-- Whether an issuer takes part in an instruction: a program always, a gang when some guard is true. -/
def Who.takesPart (w : Who) : Bool := w.front || !w.act.isEmpty

/-! ## Taking a fault -/

/-- The fault record of an issuer's instruction (R419); `ends` says that the form ends its clause. -/
def faultRecOf (w : Who) (ends : Bool) (t : Trap) : FaultRec :=
  let last : Bool := ends || w.latch.slot = w.latch.hdr.count.toNat
  { kind := t.kind, cause := t.cause, precise := true, src := w.src, unit := t.unit, mask := t.mask,
    iaddr := w.iaddr, addr := t.addr, info := t.info, newp := 0, lanes := laneMask w.lanes,
    next := if last then w.next else w.iaddr + 12,
    nbase := if last then w.next else w.latch.start, atStart := false }

/-- Whether no agent of a team is inside a clause. -/
def Team.quiet (x : Team) : Bool :=
  (x.groups.all fun e => e.2.quads.all fun q => q.latch.isNone) && x.front.latch.isNone &&
    x.mseq.latch.isNone && x.cseq.latch.isNone

/-- A team that a fault has stopped takes a stop token and its place before the handler slot (R422). -/
def State.noteStop (s : State) (t : Nat) : State :=
  match s.team? t with
  | none => s
  | some x =>
    if x.run = .halting && x.fault.isSome && x.token.isNone && x.quiet then
      let k := s.core x.core
      (s.updTeam t fun x => { x with token := some k.nextTok }).updCore x.core fun k =>
        { k with stops := k.stops ++ [t], nextTok := (k.nextTok + 1) % 4294967296 }
    else s

/-- The agents of a gang or program leave their clause where they stand. -/
def State.leaveClause (s : State) (w : Who) : State :=
  if w.front then s.updProg w.agent fun p => { p with latch := none, parkSince := none }
  else s.updGroup w.agent fun g => g.updQuads w.quads fun q =>
    { q with latch := none, parkSince := none, recSince := none, await := none }

/-- A quad held by `sleepto` stops where it is when a halt reaches it (R416). -/
def Quad.haltSleep (q : Quad) : Quad := if q.sleep.isSome then { q with latch := none } else q

/-- A program held by `sleepto` stops where it is when a halt reaches it (R416). -/
def Prog.haltSleep (p : Prog) : Prog := if p.sleep.isSome then { p with latch := none } else p

/-- A team that a halt reaches: what `sleepto` holds stops at once (R416). -/
def Team.halted (x : Team) : Team :=
  { x with run := .halting,
           groups := SMap.map x.groups fun _ g => { g with quads := g.quads.map Quad.haltSleep },
           front := x.front.haltSleep, mseq := x.mseq.haltSleep, cseq := x.cseq.haltSleep }

/-- A fault record kept by a team: the first one fills the team's record and broadcasts the halt, a
later one stays pending with its group or program (R415, R418). -/
def State.recordFault (s : State) (t : Nat) (a : Agent) (r : FaultRec) : State :=
  match s.team? t with
  | none => s
  | some x =>
    if x.fault.isNone then s.updTeam t fun x => { x.halted with fault := some r }
    else
      match a with
      | .lane .. => s.updGroup a fun g => if g.pfault.isNone then { g with pfault := some r } else g
      | _ => s.updProg a fun p => if p.pfault.isNone then { p with pfault := some r } else p

/-- The handler group as R422 starts it: 32 lanes at a clause, a window of 64, s0 and s1 given. -/
def handlerGroup (pc : Nat) (token word0 : Word) : Group :=
  ((Group.start pc 64 0 (BitVec.allOnes 32)).setScalar 0 token).setScalar 1 word0

/-- Word 0 of a fault record (R419). -/
def FaultRec.word0 (r : FaultRec) : Word := w32 (r.kind + 256 * r.cause)

/-- The record of a handler group's fault as firmware receives it: KIND 14, or KIND 13 for a `trap`, and SRC 0
(R424, R431). -/
def FaultRec.escalated (r : FaultRec) : FaultRec :=
  if r.kind = kTRAP then { r with src := 0 } else { r with kind := kESCAL, cause := 0, src := 0 }

/-- A handler group whose gangs have all stopped for its fault: the slot starts at firmware level at FENTRY
(R416, R424). -/
def State.enterFirmware (s : State) (c : Nat) : State :=
  match (s.core c).handler with
  | none => s
  | some h =>
    match h.halt with
    | none => s
    | some r =>
      if h.group.quads.any fun q => q.latch.isSome then s
      else
        let tok := (s.core c).nextTok
        let pc := (((s.partOfCore c).bind s.part?).map (·.cfg.fentry)).getD 0
        s.updCore c fun k =>
          { k with nextTok := (k.nextTok + 1) % 4294967296
                   handler := some { h with
                     gen := h.gen + 1, level := .firmware, window := none, halt := none,
                     group := handlerGroup pc (w32 tok) r.word0,
                     below := some (h.group, r, tok, h.window) } }

/-- A fault of the handler group (R424): the group halts as R416 gives, and firmware is entered once it has stopped,
here or at the HANDLER_START after its last gang's boundary;
a further gang that faults before that faults again when it goes on. A fault of firmware stops the partition with
FWFAULT. -/
def State.escalate (s : State) (c : Nat) (r : FaultRec) : State :=
  match (s.core c).handler, s.partOfCore c with
  | some h, some j =>
    if h.level = .firmware then s.resetPart j false true
    else
      let h := { h with halt := some (h.halt.getD r.escalated),
                        group := { h.group with skid := if h.halt.isSome then h.group.skid else 0,
                                                quads := h.group.quads.map Quad.haltSleep } }
      (s.updCore c fun k => { k with handler := some h }).enterFirmware c
  | _, _ => s

/-- TAKING A FAULT, the one entry for every agent: its gang or program stops precisely at the
instruction (or at the clause start), the record is kept and the team halts; at handler level the
firmware is entered. -/
def State.raise (s : State) (w : Who) (r : FaultRec) : State :=
  let s := s.leaveClause w
  match w.level with
  | .lane => (s.recordFault w.team w.agent r).noteStop w.team
  | _ => s.escalate w.core r

/-- A fault raised by an issuer's instruction. -/
def State.raiseTrap (s : State) (w : Who) (ends : Bool) (t : Trap) : State :=
  s.raise w (faultRecOf w ends t)

/-! ## Going on after a fault -/

/-- Lanes of a mask set to go on at an address of a clause. -/
def Group.sendLanes (g : Group) (m : BitVec 32) (pc base : Nat) : Group :=
  g.updLanes ((List.range 32).filter fun i => m.getLsbD i) fun _ l => { l with pc := pc, base := base }

/-- Whether the lanes of a quad's current path share one PC and clause. -/
def Group.quadAgrees (g : Group) (q : Nat) : Bool :=
  match g.quadLanes q with
  | [] => true
  | i :: t => t.all fun k => (g.lane k).pc = (g.lane i).pc && (g.lane k).base = (g.lane i).base

/-- The agent of SRC in a team, for its group or program. -/
def agentOfSrc (t src : Nat) : Agent :=
  if src < 64 then .lane t src 0
  else if src = 64 then .front t
  else .seqr t (src = 66)

/-- The faulting agent moved past the instruction of a record (R429): its lanes go on at the next slot
or clause start. -/
def State.passFault (s : State) (t : Nat) (r : FaultRec) : State :=
  let a := agentOfSrc t r.src
  if r.src < 64 then
    s.updGroup a fun g =>
      let g := g.sendLanes r.lanes r.next r.nbase
      if r.next = r.nbase then
        g.updQuads ((List.range 8).filter fun q => (r.lanes.extractLsb' (4 * q) 4) ≠ 0) fun q =>
          { q with bound := true }
      else g
  else s.updProg a fun p => { p with pc := r.next, base := r.nbase }

/-- The first pending fault of a team, in group order and then programs (R418). -/
def Team.pending (x : Team) : Option (Agent × FaultRec) :=
  match x.groups.find? fun e => e.2.pfault.isSome with
  | some e => e.2.pfault.map fun r => (.lane 0 e.1 0, r)
  | none =>
    match x.front.pfault, x.mseq.pfault, x.cseq.pfault with
    | some r, _, _ => some (.front 0, r)
    | none, some r, _ => some (.seqr 0 false, r)
    | none, none, some r => some (.seqr 0 true, r)
    | none, none, none => none

/-- An agent named with a team's place. -/
def agentAt (t : Nat) : Agent → Agent
  | .lane _ g q => .lane t g q
  | .front _ => .front t
  | .seqr _ c => .seqr t c
  | a => a

/-- GOING ON AFTER A FAULT, the one return: the next pending fault is presented; where none is left,
every agent resumes, and its clause's WAIT is checked again when its gang starts (R41, R418, R429). -/
def State.resumeTeam (s : State) (t : Nat) : State :=
  match s.team? t with
  | none => s
  | some x =>
    match x.pending with
    | some (a, r) =>
      let s := s.updTeam t fun x => { x with fault := some r, token := none }
      let s := match a with
        | .lane .. => s.updGroup (agentAt t a) fun g => { g with pfault := none }
        | _ => s.updProg (agentAt t a) fun p => { p with pfault := none }
      s.noteStop t
    | none =>
      s.updTeam t fun x =>
        { x with fault := none, token := none, run := if x.ending = some .life then .halting else .running,
                 groups := SMap.map x.groups fun _ g =>
                   { g with skid := 0, atPoint := false,
                            quads := (List.range 8).map fun q =>
                              if g.quadAgrees q then g.quad q else { g.quad q with bound := true } },
                 front := { x.front with atPoint := false }, mseq := { x.mseq with atPoint := false },
                 cseq := { x.cseq with atPoint := false } }

/-! ## Age (R383) -/

/-- Whether a group of a team stands on a side of a core. -/
def Team.onSide (x : Team) (core side g : Nat) : Bool := x.core = core && g % 2 = side

/-- The age after every age on a side of a core: that of the youngest gang there (R383). -/
def State.nextAge (s : State) (core side : Nat) : Nat :=
  1 + s.teams.foldl (fun m e => e.2.groups.foldl (fun m y =>
    if e.2.onSide core side y.1 then y.2.quads.foldl (fun m q => maxN m q.age) m else m) m) 0

/-- Every gang on a side of a core one place younger. -/
def State.agedSide (s : State) (core side : Nat) : State :=
  { s with teams := SMap.map s.teams fun _ x =>
      { x with groups := SMap.map x.groups fun g y =>
          if x.onSide core side g then { y with quads := y.quads.map fun q => { q with age := q.age + 1 } } else y } }

/-- The older age of the quads of a gang (R383). -/
def Group.oldest (g : Group) (qs : List Nat) : Nat :=
  qs.foldl (fun m q => minN m (g.quad q).age) ((qs.head?.map fun q => (g.quad q).age).getD 0)

/-- Whether an issuer's gang becomes the youngest after its instruction: by the YIELD hint, or by YIELDPOL 1
at the end of its clause (R28, R30, R383). -/
def Who.yields (w : Who) (last : Bool) : Bool :=
  !w.front && (w.young || (last && decide (w.latch.hdr.yieldpol = 1)))

/-! ## Moving on -/

/-- A gang moved past its instruction: the slot, the fairness timer and the skid count advance, and at
the last slot or an E form its lanes stand at the next clause start, at a clause boundary (R328, R34,
R416). `young` is the age of a gang that becomes the youngest (R383). -/
def Group.passed (g : Group) (w : Who) (ends lform : Bool) (cyc : Nat) (halting : Bool) (young : Nat) : Group :=
  let last : Bool := ends || w.latch.slot = w.latch.hdr.count.toNat
  let latch : Option Latch :=
    if last then none
    else some { w.latch with slot := w.latch.slot + 1, lcnt := w.latch.lcnt + (if lform then 1 else 0) }
  let g := g.updQuads w.quads fun q =>
    { q with latch := latch, timer := q.timer + 1, lastCyc := cyc, bound := last, recSince := none,
             parkSince := none, age := if w.yields last then young else q.age }
  let g := g.updLanes w.lanes fun _ l =>
    if last then { l with pc := w.next, base := w.next } else { l with pc := w.iaddr + 12 }
  { g with skid := if halting then g.skid + 1 else g.skid,
           pix := if g.pixBy = some w.latch.gang then 0 else g.pix,
           pixBy := if g.pixBy = some w.latch.gang then none else g.pixBy }

/-- A program moved past its instruction. -/
def Prog.passed (p : Prog) (w : Who) (ends lform : Bool) : Prog :=
  let last : Bool := ends || w.latch.slot = w.latch.hdr.count.toNat
  if last then { p with latch := none, parkSince := none, pc := w.next, base := w.next }
  else
    { p with pc := w.iaddr + 12,
             latch := some { w.latch with slot := w.latch.slot + 1,
                                          lcnt := w.latch.lcnt + (if lform then 1 else 0) } }

/-- Whether the issuer's team, or its handler group, is halting for a fault. -/
def State.halting (s : State) (w : Who) : Bool :=
  if w.level = .lane then ((s.team? w.team).map fun x => decide (x.run = .halting)).getD false
  else ((s.core w.core).handler.bind (·.halt)).isSome

/-- What follows once an issuer's gang or program has reached a clause boundary: its halted team may have stopped as a
whole (R416, R422). A handler group that has stopped gives way to firmware when the slot starts again (R424). -/
def State.noteHalt (s : State) (w : Who) : State :=
  if w.level = .lane then s.noteStop w.team else s

/-- The issuer moved past its instruction. -/
def State.passed (s : State) (w : Who) (ends lform : Bool) : State :=
  let h := s.halting w
  let s := if w.front then s.updProg w.agent fun p => p.passed w ends lform
    else s.updGroup w.agent fun g => g.passed w ends lform s.cyc h (s.nextAge w.core (w.g % 2))
  s.noteHalt w

/-- A lane that an E form transfers (R335). -/
def State.transfer (s : State) (w : Who) (lane target : Nat) : State :=
  let t := target % 2 ^ 56
  s.updGroup w.agent fun g => g.updLane lane fun l => { l with pc := t, base := t }

/-- A program that an E form transfers. -/
def State.transferProg (s : State) (w : Who) (target : Nat) : State :=
  let t := target % 2 ^ 56
  s.updProg w.agent fun p => { p with pc := t, base := t }

/-- The group of an issuer; one with no lanes where it has none. -/
def State.groupOf (s : State) (w : Who) : Group :=
  (s.group? w.agent).getD (Group.start 0 0 0 0)

/-- The program of an issuer. -/
def State.progOf (s : State) (w : Who) : Prog := (s.prog? w.agent).getD Prog.init

/-- The team of an issuer at lane level. -/
def State.teamOf (s : State) (w : Who) : Option Team :=
  if w.level = .lane then s.team? w.team else none

/-- Mode of the issuer's task; handlers and firmware are always committed (R363). -/
def State.modeOf (s : State) (w : Who) : Mode := ((s.teamOf w).map (·.mode)).getD .committed

end Sys2Proof.Machine
end

