-- ==== Sys2Proof/Machine/Carillon.lean ====
section
/-!
DEFINITION. Atomic operations (R151), and announced operations: the table (R397 to R401), links (R395),
application (R402 to R405) and the steps of `bcas` (R413).
-/

namespace Sys2Proof.Machine

/-- The result that an atomic operation stores (R151): patterns of the width of the TYPE. -/
def atomicOp (op : AOp) (t : Ty) (old c e : Nat) : Nat :=
  let w := tyBits t
  let old := old % 2 ^ w
  let c := c % 2 ^ w
  if t = .f32 then
    match op with
    | .fmin => fminmax .f32 false old c
    | .fmax => fminmax .f32 true old c
    | _ => faddBits .f32 0 old c
  else
    let less : Bool := decide (intOf t.signed w old < intOf t.signed w c)
    match op with
    | .fadd => (old + c) % 2 ^ w
    | .fmin => if less then old else c
    | .fmax => if less then c else old
    | .fand => old.land c
    | .fior => old.lor c
    | .fxor => old.xor c
    | .xchg => c
    | .cas => if old = e % 2 ^ w then c else old

/-! ## The announcement table -/

/-- Physical address of a context's announcement table (R397). -/
def State.atab (s : State) (part ctx : Nat) : Nat :=
  match s.part? part with
  | none => 0
  | some p => s.ctxField p ctx 48 8

/-- Physical address of record `i` (R397). -/
def State.annAddr (s : State) (part ctx i : Nat) : Nat := s.atab part ctx + 64 * i

/-- A field of record `i` (R399). -/
def State.annGet (s : State) (part ctx i off n : Nat) : Nat := s.le (s.annAddr part ctx i + off) n

/-- The module with a field of record `i` written by the device; a record that cannot be read takes none (R477). -/
def State.annPut (s : State) (part ctx i off n x : Nat) : State :=
  s.devPut part (s.annAddr part ctx i + off) (leBytesOf n x)

/-- Whether record `i` cannot be read (R408). -/
def State.annBad (s : State) (part ctx i : Nat) : Bool := s.isPoison (s.annAddr part ctx i / 64)

/-- NREC of a table (R398); no record where the table does not lie in the partition's own HBM (R15, R397, log 46). -/
def State.annN (s : State) (part ctx : Nat) : Nat :=
  let n := s.le (s.atab part ctx + 4) 2
  if s.own part (s.atab part ctx) (64 * (n + 1)) then n else 0

/-- STATE[1:0] of record `i`. -/
def State.annState (s : State) (part ctx i : Nat) : Nat := s.annGet part ctx i 11 1 % 4

/-- The module with STATE[1:0] of record `i` written. -/
def State.annSetState (s : State) (part ctx i x : Nat) : State :=
  let b := s.annGet part ctx i 11 1
  let s := s.annPut part ctx i 11 1 (b / 4 * 4 + x)
  if x = 1 then s
  else s.updPart part fun p => { p with annSince := SMap.del p.annSince (ctx * 65536 + i) }

/-- A record freed (R401). -/
def State.annFree (s : State) (part ctx i : Nat) : State :=
  let t := s.atab part ctx
  let s := (s.annSetState part ctx i 3).annPut part ctx i 32 8 (s.le t 2)
  s.devPut part t (leBytesOf 2 i ++ leBytesOf 2 (s.le (t + 2) 2 + 1))

/-- The first `k` indices of the free list; none where it is too short or broken (R401). -/
def State.annList (s : State) (part ctx : Nat) : Nat → Nat → Option (List Nat)
  | 0, _ => some []
  | k + 1, i =>
    if i = 0 || s.annN part ctx < i || s.annState part ctx i = 1 || s.annState part ctx i = 2 then none
    else (s.annList part ctx k (s.annGet part ctx i 32 2)).map fun l => i :: l

/-- `k` records allocated in one transaction (R401); none where it fails. -/
def State.annAlloc (s : State) (part ctx k : Nat) : Option (List Nat × State) :=
  let t := s.atab part ctx
  if s.annN part ctx = 0 || s.le (t + 2) 2 < k then none
  else
    match s.annList part ctx k (s.le t 2) with
    | none => none
    | some l =>
      let next := match l.getLast? with | none => s.le t 2 | some i => s.annGet part ctx i 32 2
      let s := s.devPut part t (leBytesOf 2 next ++ leBytesOf 2 (s.le (t + 2) 2 - k))
      some (l, l.foldl (fun s i => s.annPut part ctx i 18 2 ((s.annGet part ctx i 18 2 + 1) % 65536)) s)

/-- Handle of a record (R401). -/
def State.annHandle (s : State) (part ctx i : Nat) : Nat := s.annGet part ctx i 18 2 * 65536 + i

/-! ## Links -/

/-- The link of a block, with its linking context; a link without one is stale (R395). -/
def State.linkOf (s : State) (line : Nat) : Nat × Option Nat := ((s.tag line).toNat, (s.line line).link)

/-- A block's link cleared. -/
def State.unlink (s : State) (line : Nat) : State :=
  let l := s.line line
  (s.setTag line 0).setLine line { l with link := none }

/-- A block's link to a record of a context cleared, where it has that link. -/
def State.unlinkRec (s : State) (ctx i line : Nat) : State :=
  if s.linkOf line = (i, some ctx) then s.unlink line else s

/-- A block linked to a record: the write of R404, which reaches home (R462, R476), at the timestamp that is
returned. -/
def linkBlock (part clk ctx line i : Nat) : M Nat := do
  let ts ← stampWrite part line clk fun l => LineSt.dirtied { l with link := some ctx } (some ctx)
  upd fun s => (s.setTag line (BitVec.ofNat 16 i)).markDirty part (64 * line)
  pure ts

/-- An object written by a step of a record of a context (R403, R413). -/
def State.putObject (s : State) (part ctx pa n x : Nat) : State :=
  let s := ((s.takeBack (pa / 64)).setLe pa n x).markDirty part pa
  s.setLine (pa / 64) ((s.line (pa / 64)).dirtied (some ctx))

/-- The object of a record as a step finds it: whether its bytes cannot be corrected. A record that names bytes outside
the partition's own HBM finds no data there (R15, log 46). -/
def badObject (part pa n : Nat) : M Bool := do
  let mine ← look fun s => s.own part pa n
  if !mine then pure true
  else do
    meetLine (pa / 64)
    look fun s => s.isPoison (pa / 64)

/-- Width in bytes of a record's TYPE. -/
def State.annWidth (s : State) (part ctx i : Nat) : Nat :=
  match Ty.ofCode (s.annGet part ctx i 12 1) with
  | none => 4
  | some t => t.bytes

/-- A record whose object cannot be read (R408): RES 0, ERR, STATE 2. -/
def State.annErr (s : State) (part ctx i : Nat) : State :=
  let s := s.annPut part ctx i 40 8 0
  let b := s.annGet part ctx i 11 1
  let s := s.annSetState part ctx i 2
  if bitN b 3 then s else s.annPut part ctx i 11 1 (s.annGet part ctx i 11 1 + 8)

/-- The live link of a block (R395, R408): record and linking context, one that is stale or whose record cannot be
read cleared; and whether it was the latter. -/
def liveLink (part line : Nat) : M (Option (Nat × Nat) × Bool) := do
  let (i, c) ← look fun s => s.linkOf line
  match c with
  | none => do
    if i ≠ 0 then upd fun s => s.unlink line else pure ()
    pure (none, false)
  | some ctx => do
    if i = 0 then pure (none, false)
    else do
      let n ← look fun s => s.annN part ctx
      if i ≤ n then do
        let a ← look fun s => s.annAddr part ctx i
        meetLine (a / 64)
      else pure ()
      let bad ← look fun s => decide (i ≤ n) && s.isPoison (s.annAddr part ctx i / 64)
      let st ← look fun s => s.annState part ctx i
      let op ← look fun s => s.annGet part ctx i 13 1
      let x ← look fun s => s.annGet part ctx i 32 8
      let y ← look fun s => s.annGet part ctx (s.annGet part ctx i 16 2) 32 8
      let here : Bool := x / 64 = line || (op = 8 && y / 64 = line)
      if bad || n < i || st ≠ 1 || !here then do
        upd fun s => s.unlink line
        pure (none, bad)
      else pure (some (i, ctx), false)

/-- A plain record applied at its object's block (R403): whether it met uncorrectable data. -/
def applyRec (part ctx i : Nat) : M Bool := do
  let obj ← look fun s => s.annGet part ctx i 32 8
  let n ← look fun s => s.annWidth part ctx i
  let line := obj / 64
  let l ← look fun s => s.linkOf line
  let st ← look fun s => s.annState part ctx i
  if st ≠ 1 || l ≠ (i, some ctx) then pure false
  else do
    mergeLine part line
    let bad ← badObject part obj n
    if bad then do
      upd fun s => (s.annErr part ctx i).unlink line
      pure true
    else do
      upd fun s =>
        let t := (Ty.ofCode (s.annGet part ctx i 12 1)).getD .n32
        let op := (AOp.ofCode (s.annGet part ctx i 13 1)).getD .xchg
        let old := s.le obj n
        let new := atomicOp op t old (s.annGet part ctx i 56 8) (s.annGet part ctx i 48 8)
        let det := bitN (s.annGet part ctx i 11 1) 2
        let s := ((s.putObject part ctx obj n new).annPut part ctx i 40 8 old).unlink line
        if det then s.annFree part ctx i else s.annSetState part ctx i 2
      pure false

/-- STEP 1 of a `bcas` record at its second object (R413), whose live link fails it. Where it succeeds, both writes are
placed at the timestamp of Y's link, which comes after X's. -/
def bcasSecond (part clk ctx i k x y w : Nat) : M Bool := do
  mergeLine part (y / 64)
  let (l, lost) ← liveLink part (y / 64)
  if l.isSome then do
    upd fun s => (s.annPut part ctx i 14 1 2).annPut part ctx i 15 1 6
    pure lost
  else do
    let bad ← badObject part y w
    if bad then do
      upd fun s => (s.annErr part ctx i).unlinkRec ctx i (x / 64)
      pure true
    else do
      let clk ← deviceRead part clk (y / 64)
      let old ← look fun s => s.le y w
      let want ← look fun s => s.annGet part ctx k 48 8
      upd fun s => s.annPut part ctx k 40 8 old
      if old ≠ want then do
        upd fun s => (s.annPut part ctx i 14 1 0).annPut part ctx i 15 1 6
        pure lost
      else do
        let (_, ta) ← homeTs part (x / 64)
        let tb ← linkBlock part (maxN clk ta) ctx (y / 64) i
        storeTs part (x / 64) tb tb id
        upd fun s => (s.annPut part ctx i 14 1 1).annPut part ctx i 15 1 2
        pure lost

/-- A record that cannot be read (R408): the links of its blocks are cleared, nothing is applied, and no walker waits
for it. -/
def State.annLose (s : State) (part ctx i : Nat) (lines : List Nat) : State :=
  let s := lines.foldl (fun s l => s.unlinkRec ctx i l) s
  s.updPart part fun p => { p with annSince := SMap.del p.annSince (ctx * 65536 + i) }

/-- STEP 2, 3 or 4 of a `bcas` record at one of its objects (R413): the new value of record `j` put there. -/
def bcasPut (part ctx i j pa w : Nat) (next : State → State) : M Bool := do
  mergeLine part (pa / 64)
  let bad ← badObject part pa w
  if bad then do
    upd fun s => (s.annErr part ctx i).unlinkRec ctx i (pa / 64)
    pure true
  else do
    upd fun s => next ((s.putObject part ctx pa w (s.annGet part ctx j 56 8)).unlinkRec ctx i (pa / 64))
    pure false

/-- Whether the records of a `bcas`, read by a step, cannot be corrected (R408). -/
def lostRecord (part ctx i k : Nat) : M Bool := do
  let a ← look fun s => s.annAddr part ctx i
  let b ← look fun s => s.annAddr part ctx k
  meetLine (a / 64)
  meetLine (b / 64)
  look fun s => s.annBad part ctx i || s.annBad part ctx k

/-- The next step of a `bcas` record whose STEP is 1 to 6 (R413), made at the block of one of its
objects: `atY` prefers the second object where the table gives a choice. -/
def bcasStep (part clk ctx i : Nat) (atY : Bool) : M Bool := do
  let k ← look fun s => s.annGet part ctx i 16 2
  let lost ← lostRecord part ctx i k
  let x ← look fun s => s.annGet part ctx i 32 8
  let y ← look fun s => s.annGet part ctx k 32 8
  let w ← look fun s => s.annWidth part ctx i
  let step ← look fun s => s.annGet part ctx i 15 1
  let goto (n : Nat) (s : State) : State := s.annPut part ctx i 15 1 n
  let done (s : State) : State := s.annSetState part ctx i 2
  if lost then do
    upd fun s => s.annLose part ctx i [x / 64, y / 64]
    pure true
  else
  match step with
  | 1 => bcasSecond part clk ctx i k x y w
  | 2 => if atY then bcasPut part ctx i k y w (goto 4) else bcasPut part ctx i i x w (goto 3)
  | 3 => bcasPut part ctx i k y w done
  | 4 => bcasPut part ctx i i x w done
  | _ => do
    upd fun s => done (s.unlinkRec ctx i (x / 64))
    pure false

/-- Steps of a `bcas` record until the block is no longer linked to it (R405). -/
def bcasHelp (part clk ctx i line : Nat) : Nat → M Bool
  | 0 => pure false
  | n + 1 => do
    let l ← look fun s => s.linkOf line
    if l ≠ (i, some ctx) then pure false
    else do
      let y ← look fun s => s.annGet part ctx (s.annGet part ctx i 16 2) 32 8
      let e ← bcasStep part clk ctx i (y / 64 = line)
      let r ← bcasHelp part clk ctx i line n
      pure (e || r)

/-- What an access to a block of class 2 does before its own effect (R395, R396, R405): the privatised bytes of the
block come home (R173), and the record that it links is applied or advanced; whether one was, and whether
uncorrectable data was met. -/
def helpLink (part clk line : Nat) : M (Bool × Bool) := do
  mergeLine part line
  let (l, lost) ← liveLink part line
  match l with
  | none => pure (false, lost)
  | some (i, ctx) => do
    let op ← look fun s => s.annGet part ctx i 13 1
    let e ← if op = 8 then bcasHelp part clk ctx i line 4 else applyRec part ctx i
    pure (true, e)

/-- The steps of a `bcas` record that the walker makes until it is applied (R407, R413). -/
def bcasDrive (part clk ctx i : Nat) : Nat → M Bool
  | 0 => pure false
  | n + 1 => do
    let st ← look fun s => s.annState part ctx i
    let lost ← look fun s => s.annBad part ctx i
    if st ≠ 1 || lost then pure false
    else do
      let atY ← drawBool
      let e ← bcasStep part clk ctx i atY
      let r ← bcasDrive part clk ctx i n
      pure (e || r)

/-- The first step of a filled `bcas` record (R413): STEP 0 at X, or the one step of two objects in one block, which
takes its place in the issuer's order as a store does (R404). Whether uncorrectable data was met. -/
def bcasFirst (part clk ctx i : Nat) : M Bool := do
  let x ← look fun s => s.annGet part ctx i 32 8
  let k ← look fun s => s.annGet part ctx i 16 2
  let y ← look fun s => s.annGet part ctx k 32 8
  let w ← look fun s => s.annWidth part ctx i
  let (_, e0) ← helpLink part clk (x / 64)
  let bad ← badObject part x w
  if bad then do
    upd fun s => s.annErr part ctx i
    pure true
  else do
    let clk ← deviceRead part clk (x / 64)
    let ox ← look fun s => s.le x w
    let wantX ← look fun s => s.annGet part ctx i 48 8
    upd fun s => s.annPut part ctx i 40 8 ox
    if x / 64 = y / 64 then do
      let oy ← look fun s => s.le y w
      let wantY ← look fun s => s.annGet part ctx k 48 8
      upd fun s => s.annPut part ctx k 40 8 oy
      if ox = wantX && oy = wantY then do
        let _ ← stampWrite part (x / 64) clk id
        upd fun s => ((s.putObject part ctx x w (s.annGet part ctx i 56 8)).putObject part ctx y w
          (s.annGet part ctx k 56 8)).annPut part ctx i 14 1 1
      else upd fun s => s.annPut part ctx i 14 1 0
      upd fun s => s.annSetState part ctx i 2
      pure e0
    else if ox ≠ wantX then do
      upd fun s => (s.annPut part ctx i 14 1 0).annSetState part ctx i 2
      pure e0
    else do
      let _ ← linkBlock part clk ctx (x / 64) i
      upd fun s => s.annPut part ctx i 15 1 1
      pure e0

/-- Home's part of an access to a page of class 2 (R149, R396): the application first; whether
uncorrectable data was met. -/
def applyFirst (part clk line : Nat) : M Bool := do
  let (_, e) ← helpLink part clk line
  pure e

end Sys2Proof.Machine
end

