-- ==== Sys2Proof/Machine/HostLines.lean ====
section
/-!
DEFINITION. Lines that live outside the module's own stacks: the host-coherent lines of class 6, at
their home slices and in the hub's host-line cache (R149, R155, R470), and the peer apertures of class 7
(R149, R471).
-/

namespace Sys2Proof.Machine

open Config

/-- Bytes placed over a line from an offset. -/
def splice (d : List Byte) (o : Nat) (bs : List Byte) : List Byte := d.take o ++ bs ++ d.drop (o + bs.length)

/-! ## The host-line cache (R470) -/

/-- The bytes that the host's memory holds for a line. -/
def State.hostLine (s : State) (part line : Nat) : List Byte :=
  match s.part? part with
  | none => []
  | some p => s.bytes (hostMem (hostAddr p (64 * line))) 64

/-- A line held by the host-line cache, taken in S where it is absent (RdShared). -/
def hlcShared (part line : Nat) : M (List Byte) := do
  let k := key6 part line
  let e ← look fun s => SMap.get? s.hlc k
  match e with
  | some (_, d) => pure d
  | none => do
    let d ← look fun s => s.hostLine part line
    upd fun s => { s with hlc := SMap.put s.hlc k (.s, d) }
    pure d

/-- A line held by the host-line cache in M or E, taken in E where it is not (RdOwn). -/
def hlcOwn (part line : Nat) : M (List Byte) := do
  let k := key6 part line
  let e ← look fun s => SMap.get? s.hlc k
  match e with
  | some (.s, d) => do
    upd fun s => { s with hlc := SMap.put s.hlc k (.e, d) }
    pure d
  | some (_, d) => pure d
  | none => do
    let d ← look fun s => s.hostLine part line
    upd fun s => { s with hlc := SMap.put s.hlc k (.e, d) }
    pure d

/-! ## Class 6 at home (R149) -/

/-- A dirty line of the home slices written into the host-line cache, which takes it in M (R155). -/
def cleanLine6 (part line : Nat) : M Unit := do
  let k := key6 part line
  let h ← look fun s => SMap.get? s.home6 k
  match h with
  | some ⟨_, _ :: _⟩ => do
    let _ ← hlcOwn part line
    upd fun s => s.writeBack6 k
  | _ => pure ()

/-- A line as the host path gives it, without a copy in the host-line cache. -/
def hostPath (part line : Nat) : M (List Byte) := look fun s =>
  match SMap.get? s.hlc (key6 part line) with
  | some (_, d) => d
  | none => s.hostLine part line

/-- A home copy of a line; a replaced one is written back and filled again through the host path. A read takes the line
in S, a write leaves its state in the host-line cache as it is (R470: steps 5 and 7 of its trace). -/
def fill6 (part line : Nat) (write : Bool) : M (List Byte) := do
  let k := key6 part line
  let old ← look fun s => SMap.get? s.home6 k
  match ← stillHeld old with
  | some h => pure h.data
  | none => do
    if old.isSome then cleanLine6 part line else pure ()
    let d ← if write then hostPath part line else hlcShared part line
    upd fun s => { s with home6 := SMap.put s.home6 k ⟨d, []⟩ }
    pure d

/-- Whether a class 6 line is poisoned (R480). -/
def State.poison6 (s : State) (part line : Nat) : Bool := s.hlcPoison.contains (key6 part line)

/-- A read of class 6 by a core: the bytes, the write timestamp seen. An L1 copy may serve it while its
lease lasts (R156, R470). -/
def read6 (part c line o n : Nat) (keep : Bool) : M (List Byte × Nat) := do
  let k := key6 part line
  let copy ← look fun s => SMap.get? (s.core c).l1 k
  let pts ← ptsOf c
  match ← stillHeld copy with
  | some x =>
    if pts ≤ x.lease then pure ((x.data.drop o).take n, x.wts)
    else do
      let home ← fill6 part line false
      let (wts, rts) ← homeRead part c k (some x.wts)
      let data := if wts = x.wts then x.data else home
      fillL1 c k wts rts data 0
      pure ((data.drop o).take n, wts)
  | none => do
    let data ← fill6 part line false
    let (wts, rts) ← homeRead part c k none
    if keep then fillL1 c k wts rts data 0
    else upd fun s => s.updCore c fun x => { x with l1 := SMap.del x.l1 k }
    pure ((data.drop o).take n, wts)

/-- A write of class 6 at home for a request that carries a clock; `core` joins those whose
writes made the line dirty (R156). -/
def write6 (part clk core pa : Nat) (bs : List Byte) : M Nat := do
  let line := pa / 64
  let k := key6 part line
  let d ← fill6 part line true
  let ts ← stampWrite part k clk id
  upd fun s =>
    let by' := ((SMap.get? s.home6 k).map (·.dirty)).getD []
    { s with home6 := SMap.put s.home6 k ⟨splice d (pa % 64) bs, insertNat by' core⟩ }
  pure ts

/-- An atomic of class 6 at the host-line cache, in M (R149): the old value. `f` gives the new one. -/
def atom6 (part core pa n : Nat) (f : Nat → Nat) : M Nat := do
  let line := pa / 64
  let k := key6 part line
  cleanLine6 part line
  let d ← hlcOwn part line
  let pts ← ptsOf core
  let ts ← stampWrite part k pts id
  raisePts core ts
  let old := leOf ((d.drop (pa % 64)).take n)
  upd fun s => { s with hlc := SMap.put s.hlc k (.m, splice d (pa % 64) (leBytesOf n (f old))),
                        home6 := SMap.del s.home6 k }
  pure old

/-- What a `pathfence.host` of a core does (R156). -/
def hostFence (part core : Nat) : M Unit := do
  let mine ← look fun s =>
    (s.home6.filter fun e => e.1 / 2 ^ 64 = part && e.2.dirty.contains core).map (·.1)
  each mine fun k => cleanLine6 part (k % 2 ^ 64)
  upd fun s =>
    let s := { s with home6 := s.home6.filter fun e => !(e.1 / 2 ^ 64 = part && e.2.dirty.isEmpty) }
    s.updCore core fun k => { k with l1 := k.l1.filter fun e => !(isHostWin (64 * (e.1 % 2 ^ 64))) }

/-! ## Class 7 (R471) -/

/-- Ports of an aperture entry. -/
def portsOf (e : DWord) : List Nat := (List.range 12).filter fun i => e.getLsbD (48 + i)

/-- FREE VALUE where a port answers: whether the peer serves an access to one of the partition's
apertures; it does not where every port of PORTS is down. -/
def peerServes (part pa : Nat) : M Bool := do
  let ports ← look fun s =>
    match s.part? part with
    | none => []
    | some p => portsOf (p.peers.getD ((pa - peerBase) / 2 ^ 44) 0)
  let up ← look fun s => ports.any fun i => !s.portsDown.contains i
  if up then drawBool else pure false

/-- FREE VALUE: a read of a peer's memory: the bytes, and whether it was answered as uncorrectable. -/
def peerRead (part pa n : Nat) : M (List Byte × Bool) := do
  let ok ← peerServes part pa
  if ok then do
    let b ← drawBytes n
    pure (b, false)
  else pure (List.replicate n 0, true)

/-- A write to a peer's memory: whether it was answered as uncorrectable. -/
def peerStore (part pa : Nat) (bs : List Byte) : M Bool := do
  let ok ← peerServes part pa
  if ok then do
    upd fun s => s.send (.peerWrite pa bs)
    pure false
  else pure true

/-- FREE VALUE: an atomic at a peer's home (R149, R471): the old value as the peer answers it, and whether it was
answered as uncorrectable, which writes nothing. -/
def peerAtomic (part pa n : Nat) (ty : Ty) (op : AOp) (c e : Nat) : M (Nat × Bool) := do
  let ok ← peerServes part pa
  if ok then do
    let b ← drawBytes n
    upd fun s => s.send (.peerAtomic pa ty op c e)
    pure (leOf b, false)
  else pure (0, true)

/-- A poisoned line written to a peer's memory (R194): whether it was answered as uncorrectable. -/
def peerStorePoison (part pa : Nat) : M Bool := do
  let ok ← peerServes part pa
  if ok then do
    upd fun s => s.send (.peerPoison (pa / 64 * 64))
    pure false
  else pure true

/-! ## Writes wherever they go -/

/-- Key of a line in the table of timestamps: a class 6 line stands under its partition (R161). -/
def lineKey (part line : Nat) : Nat := if isHostWin (64 * line) then key6 part line else line

/-- The poison of a line cleared by a write of all its bytes (R477). -/
def clearBad (part pa n : Nat) : M Unit :=
  if n < 64 then pure ()
  else upd fun s => { s.freshLine (pa / 64) with
    hlcPoison := s.hlcPoison.filter (· ≠ key6 part (pa / 64)) }

/-- A write made by the device at a physical address of any region, with a clock: the timestamp. A part
of a poisoned line takes nothing, with a record of KIND 8 (R477, R479). -/
def placeWrite (part clk core : Nat) (ctx : Option Nat) (pa : Nat) (bs : List Byte) : M Nat := do
  clearBad part pa bs.length
  meetLine (pa / 64)
  let bad ← look fun s => s.isPoison (pa / 64) || s.poison6 part (pa / 64)
  if bad then do
    upd fun s => s.dropRec part pa
    pure clk
  else if isHostWin pa then write6 part clk core pa bs
  else if isPeer pa then do
    let _ ← peerStore part pa bs
    pure clk
  else deviceWrite part clk ctx pa bs

end Sys2Proof.Machine
end

