-- ==== Sys2Proof/Machine/Shadow.lean ====
section
/-!
DEFINITION. Shadowed buffers (R205 to R211) and the working frames of checkpoint mode (R469): where a
write goes, and the refresh before the first one.
-/

namespace Sys2Proof.Machine

/-- A frame's bytes, tags and poison copied over another frame (R209). -/
def State.copyFrame (s : State) (src dst : Nat) : State :=
  let s := s.zeroRange dst 65536
  let put (m : SMap Byte) (e : Nat × Byte) : SMap Byte := SMap.putD 0 m (e.1 - src + dst) e.2
  let tag (m : SMap (BitVec 16)) (e : Nat × BitVec 16) : SMap (BitVec 16) :=
    SMap.putD 0 m (e.1 - src / 64 + dst / 64) e.2
  { s with mem := (SMap.range s.mem src (src + 65536)).foldl put s.mem,
           tags := (SMap.range s.tags (src / 64) (src / 64 + 1024)).foldl tag s.tags,
           poison := (s.poison.filter fun l => src / 64 ≤ l && l < src / 64 + 1024).foldl
             (fun p l => insertNat p (l - src / 64 + dst / 64)) s.poison }

/-- Lines of a frame that have home state. -/
def State.knownLines (s : State) (frame : Nat) : List Nat :=
  List.map (·.1) (SMap.range s.lines (frame / 64) (frame / 64 + 1024))

/-- The shadow frame of a page whose pair entry stands at `a`, refreshed first where DIRTY is 0, which
QUIETEND of the descriptor at `d` may hold (R209, R210). -/
def shadowDest (part clk : Nat) (ctx : Option Nat) (d a frame0 : Nat) : M Nat := do
  mergeLine part (a / 64)
  mergeLine part (d / 64)
  let (cur, dirty, f1) ← look fun s => s.pair a
  let src := if cur then f1 else frame0
  let dst := if cur then frame0 else f1
  if dirty then pure dst
  else do
    let quiet ← look fun s => s.homeLe (d + 8) 8
    let now ← look fun s => s.cyc
    if now < quiet then stop .hold
    else do
      let old ← look fun s => s.knownLines src
      each old fun l => mergeLine part l
      let known ← look fun s => s.knownLines dst
      each known fun l => mergeLine part l
      upd fun s => (s.copyFrame src dst).markDirty part dst
      each known fun l => do
        let _ ← stampWrite part l clk fun h => LineSt.dirtied { h with lastCore := none } ctx
        pure ()
      let _ ← deviceWrite part clk ctx a (leBytesOf 1 (2 + (if cur then 1 else 0)))
      pure dst

/-- The place of a store of an issuer: for an SH page of a context in checkpoint mode, the shadow
frame, with the pair entry that a commit refreshes where the task is tentative (R469). -/
def storePlace (w : Who) (va : Nat) (tentative : Bool) : M (Place × Option (Nat × Nat × Nat)) := do
  let pl ← placeOf w va
  let ck ← look fun s => ((s.part? w.part).map fun p => s.ctxCkpt p w.ctx).getD false
  if !(leafSH pl.leaf) || !ck then pure (pl, none)
  else do
    let sh ← look fun s => s.shadow w.part w.ctx va
    match sh with
    | none => pure (pl, none)
    | some (d, a, _, _, _) =>
      let frame0 := leafFrame pl.leaf
      if tentative then do
        let (cur, _, f1) ← look fun s => s.pair a
        let dst := if cur then frame0 else f1
        pure ({ pl with pa := dst + va % 65536 }, some (d, a, frame0))
      else do
        let pts ← ptsOf w.core
        let dst ← shadowDest w.part pts (some w.ctx) d a frame0
        let (wts, _) ← homeTs w.part (a / 64)
        raisePts w.core wts
        pure ({ pl with pa := dst + va % 65536 }, none)

/-- Physical addresses of the pair entries of a buffer in its partition's own HBM whose DIRTY is 1. -/
def State.dirtyPairs (s : State) (part d : Nat) : List Nat :=
  let tab := s.homeLe (d + 48) 8
  ((List.range (s.homeLe (d + 36) 4)).map fun k => tab + 16 * k).filter fun a => s.own part a 16 && (s.pair a).2.1

/-- The dirty pages of a buffer: pair entry and shadow frame, which is the leaf's own frame where CUR names the other
one (R206). -/
def State.dirtyShadowsOf (s : State) (part ctx d : Nat) : List (Nat × Nat) :=
  let base := s.homeLe (d + 40) 8
  let tab := s.homeLe (d + 48) 8
  (s.dirtyPairs part d).map fun a =>
    let (cur, _, f1) := s.pair a
    let frame0 := match s.walk part ctx (base + 65536 * ((a - tab) / 16)) with
      | .leaf _ _ e => leafFrame e
      | _ => f1
    (a, if cur then frame0 else f1)

/-- The largest write timestamp of the lines of a frame, privatised bytes brought home: of what engines, or the lanes of
checkpoint mode, have written there (R183, R209). -/
def frameTs (part frame : Nat) : M Nat := do
  let ls ← look fun s => s.knownLines frame
  let ts ← collectM ls fun l => do
    mergeLine part l
    let (wts, _) ← homeTs part l
    pure wts
  pure (ts.foldl maxN 0)

/-- THE PUBLISH EVENT of buffers, by descriptor, at one timestamp (R211, R469): dirty pages flip, GEN, TP
and QUIETEND are written; the timestamp, which comes after every write to the frames that it shows (R14). -/
def publishAt (part ctx clk : Nat) (ds : List Nat) : M Nat := do
  let shown ← look fun s => ds.flatMap (s.dirtyShadowsOf part ctx)
  let ws ← collectM shown fun e => frameTs part e.2
  let clk := ws.foldl maxN clk
  let pages := shown.map (·.1)
  let lines := (List.map (· / 64) (pages ++ ds)).foldl insertNat []
  each lines fun l => do
    mergeLine part l
    backInvalidate l
  let rts ← collectM lines fun l => do
    let (_, r) ← homeTs part l
    pure r
  let tp := (rts.map (· + 1)).foldl maxN clk
  each pages fun a => do
    let (cur, _, _) ← look fun s => s.pair a
    putHome part (some ctx) a (leBytesOf 1 (if cur then 0 else 1))
  each ds fun d => do
    let gen ← look fun s => s.homeLe (d + 24) 8
    let now ← look fun s => s.cyc
    putHome part (some ctx) (d + 8)
      (leBytesOf 8 (now + Config.quiet) ++ leBytesOf 8 tp ++ leBytesOf 8 (gen + 1))
  each lines fun l => storeTs part l tp tp fun h => { h with lam := 3, lastCore := none }
  pure tp

/-- Descriptors of a context's valid shadowed buffers. -/
def State.buffers (s : State) (part ctx : Nat) : List Nat :=
  match s.part? part with
  | none => []
  | some p =>
    let tab := s.ctxField p ctx 56 8
    if tab = 0 then []
    else ((List.range 256).map fun i => tab + 64 * i).filter fun d => s.own part d 64 && bitN (s.homeLe d 1) 0

/-- A core without its copies of the lines of a frame. -/
def Core.dropFrame (k : Core) (frame : Nat) : Core :=
  let out (l : Nat) : Bool := !(frame / 64 ≤ l && l < frame / 64 + 1024)
  { k with l1 := k.l1.filter fun e => out e.1, con := k.con.filter fun e => out e.1,
           tile := k.tile.filter fun e => out e.1, l0i0 := k.l0i0.filter out, l0i1 := k.l0i1.filter out,
           l1i := k.l1i.filter out }

/-- The lines of a frame dropped from every cache and replica of a partition. -/
def State.dropFrame (s : State) (part frame : Nat) : State :=
  let out (l : Nat) : Bool := !(frame / 64 ≤ l && l < frame / 64 + 1024)
  let size := ((s.part? part).map (·.size)).getD 1
  let s := { s with cores := SMap.map s.cores fun c k =>
    if part ≤ c / 32 && c / 32 < part + size then k.dropFrame frame else k }
  s.updPart part fun p =>
    { p with replicas := SMap.map p.replicas fun _ l => l.filter fun e => e.1 ≠ frame,
             codeLines := SMap.map p.codeLines fun _ l => l.filter out }

/-- The dirty pages of a context. -/
def State.dirtyShadows (s : State) (part ctx : Nat) : List (Nat × Nat) :=
  (s.buffers part ctx).flatMap (s.dirtyShadowsOf part ctx)

/-- A line out of every L1 of a partition. -/
def State.dropCopies (s : State) (part line : Nat) : State :=
  let size := ((s.part? part).map (·.size)).getD 1
  { s with cores := SMap.map s.cores fun c k =>
      if part ≤ c / 32 && c / 32 < part + size then { k with l1 := SMap.del k.l1 line } else k }

/-- Every page of a context back at its last checkpoint (R469 step 5): DIRTY := 0 at home in the pair entries of `as`.
DESIGN CHOICE: leased L1 copies of the entries go too, so that none still leads to the shadow (log 55). -/
def undoShadows (part : Nat) (as : List Nat) : M Unit :=
  each as fun a => do
    mergeLine part (a / 64)
    let x ← look fun s => if (s.pair a).1 then 1 else 0
    let _ ← deviceWrite part 0 none a (leBytesOf 1 x)
    upd fun s => s.dropCopies part (a / 64)

end Sys2Proof.Machine
end

