-- ==== Sys2Proof/Machine/Tasks.lean ====
section
/-!
DEFINITION. Tasks: queues (R355 to R357), the register pool (R378 to R382), commit (R182, R363 to R366),
abort and split (R369), restart, retry and kill (R366, R429), and the end of a life (R371, R372).
-/

namespace Sys2Proof.Machine

open Config

/-! ## Records and queues -/

/-- Records in a task area; resume entries take no place (R357, R435). -/
def Part.records (p : Part) : Nat := (p.queue.filter fun e => e.resume.isEmpty).length

/-- A continuation record read from 128 bytes (R355). -/
def TaskRec.ofBytes (b : List Byte) : TaskRec :=
  let n (o k : Nat) : Nat := leOf ((b.drop o).take k)
  { jointo := n 96 8, join := n 92 4, cluster := n 88 4, affin := n 86 2, team := n 85 1, slot := n 84 1,
    groups := n 83 1, prio := n 82 1, rst := n 81 1 % 4, direct := bitN (n 81 1) 2,
    later := bitN (n 81 1) 3, dom := (List.range 6).map fun i => w32 (n (56 + 4 * i) 4), frame := n 48 8,
    front := n 40 8, code := n 32 8, ts := n 24 8, gen := n 20 4 }

/-- The 128 bytes of a continuation record (R355). -/
def TaskRec.toBytes (t : TaskRec) : List Byte :=
  leBytesOf 20 0 ++ leBytesOf 4 t.gen ++ leBytesOf 8 t.ts ++ leBytesOf 8 t.code ++ leBytesOf 8 t.front ++
    leBytesOf 8 t.frame ++ (t.dom.flatMap fun d => leBytesOf 4 d.toNat) ++ leBytesOf 1 0 ++
    leBytesOf 1 (t.rst + (if t.direct then 4 else 0) + (if t.later then 8 else 0)) ++
    leBytesOf 1 t.prio ++ leBytesOf 1 t.groups ++ leBytesOf 1 t.slot ++ leBytesOf 1 t.team ++
    leBytesOf 2 t.affin ++ leBytesOf 4 t.cluster ++ leBytesOf 4 t.join ++ leBytesOf 8 t.jointo ++
    leBytesOf 24 0

/-- The lowest free place of a task area (R357). -/
def Part.freePlace (p : Part) : Nat :=
  let used := (p.queue.filter fun e => e.resume.isEmpty).map (·.place)
  ((List.range (used.length + 1)).find? fun i => !used.contains i).getD 0

/-- A record put in its queue, its 128 bytes in a free place of the task area (R355, R357). DESIGN CHOICE: the lowest
free one (log 48). A resume entry takes none (R435). -/
def State.enqueue (s : State) (part : Nat) (e : QEnt) : State :=
  match s.part? part with
  | none => s
  | some p =>
    if !e.resume.isEmpty then s.updPart part fun p => { p with queue := p.queue ++ [e] }
    else
      let a := p.cfg.taskarea + 128 * p.freePlace
      let s := s.updPart part fun p => { p with queue := p.queue ++ [{ e with place := p.freePlace }] }
      s.devPut part a e.task.toBytes

/-- A push (R357); where the task area is full the record waits for a place. -/
def State.push (s : State) (part : Nat) (e : QEnt) : State :=
  match s.part? part with
  | none => s
  | some p =>
    let e := { e with pushed := s.cyc, order := p.nextOrder }
    let s := s.updPart part fun p => { p with nextOrder := p.nextOrder + 1 }
    if !e.resume.isEmpty || p.records < p.cfg.taskn then s.enqueue part e
    else s.updPart part fun p => { p with pushq := p.pushq ++ [e] }

/-- A record pushed. -/
def State.pushRec (s : State) (part ctx launch : Nat) (t : TaskRec) (life : Option Nat)
    (resume : List Nat) : State :=
  s.push part ⟨t, ctx, launch, life, resume, 0, 0, 0, []⟩

/-- Held pushes that the task area takes once places are free, at most `n` (R357). -/
def State.refillFrom (s : State) (part : Nat) : Nat → State
  | 0 => s
  | n + 1 =>
    match s.part? part with
    | none => s
    | some p =>
      match p.pushq with
      | [] => s
      | e :: rest =>
        if p.cfg.taskn ≤ p.records then s
        else
          let s := (s.updPart part fun p => { p with pushq := rest }).enqueue part { e with pushed := s.cyc }
          s.refillFrom part n

/-- Held pushes of a partition taken while there are places. -/
def State.refill (s : State) (part : Nat) : State :=
  s.refillFrom part (((s.part? part).map fun p => p.pushq.length).getD 0)

/-- Whether one of some pushes still waits for a place (R357). -/
def State.pushWaits (s : State) (part : Nat) (orders : List Nat) : Bool :=
  ((s.part? part).map fun p => p.pushq.any fun e => orders.contains e.order).getD false

/-- Records taken out of the queues of a partition: the frames that they keep go back to the pool. -/
def State.dropQueued (s : State) (part : Nat) (sel : QEnt → Bool) : State :=
  let s := s.updPart part fun p =>
    let kept := ((p.queue ++ p.pushq).filter sel).flatMap fun e => e.kept.flatten
    { p with queue := p.queue.filter fun e => !sel e
             pushq := p.pushq.filter fun e => !sel e
             poolTaken := p.poolTaken.filter fun f => !kept.contains f }
  s.refill part

/-- A record of a life's cluster with a new generation. -/
def State.freshRec (s : State) (part ctx : Nat) (t : TaskRec) (ts : Nat) : TaskRec × State :=
  let (g, s) := s.newGen part ctx
  ({ t with gen := g, ts := ts }, s)

/-! ## The register pool (R378) -/

/-- Resident teams of a core, by place. -/
def State.teamsOn (s : State) (core : Nat) : SMap Team := s.teams.filter fun e => e.2.core = core

/-- Whether a group holds a window of its side. -/
def Group.holds (g : Group) : Bool := g.live

/-- Groups that hold registers on a side of a core: place of the team, number, group. -/
def State.sideGroups (s : State) (core side : Nat) : List (Nat × Nat × Group) :=
  (s.teamsOn core).flatMap fun e =>
    (e.2.groups.filter fun g => g.1 % 2 = side && g.2.holds).map fun g => (e.1, g.1, g.2)

/-- F, the free registers of a side (R378). -/
def State.sideFree (s : State) (core side : Nat) : Nat :=
  sideRegs - ((s.sideGroups core side).map fun g => g.2.2.alloc).sum

/-- A side's claim queue. -/
def Core.claimq (k : Core) (side : Nat) : List (Nat × Nat) := if side = 0 then k.claimq0 else k.claimq1

/-- A core with a side's claim queue rewritten. -/
def Core.setClaimq (k : Core) (side : Nat) (l : List (Nat × Nat)) : Core :=
  if side = 0 then { k with claimq0 := l } else { k with claimq1 := l }

/-- Registers that growing a group's window takes of its pool; what a tentative `release` freed is not in the pool
until the commit (R379, R381). -/
def Group.need (g : Group) (n : Nat) : Nat := regsOf (g.w + n) - regsOf g.w

/-- A group's window grown (R379, R380). -/
def Group.grow (g : Group) (n : Nat) : Group :=
  { g with w := g.w + n, alloc := g.alloc + g.need n, park := none }

/-- The head claims of a side granted while they fit (R378). -/
def State.grantFrom (s : State) (core side : Nat) : Nat → State
  | 0 => s
  | fuel + 1 =>
    match (s.core core).claimq side with
    | [] => s
    | (t, g) :: rest =>
      match (s.team? t).bind fun x => SMap.get? x.groups g with
      | none => (s.updCore core fun k => k.setClaimq side rest).grantFrom core side fuel
      | some x =>
        match x.park with
        | none => (s.updCore core fun k => k.setClaimq side rest).grantFrom core side fuel
        | some n =>
          if x.need n ≤ s.sideFree core side then
            let s := s.updGroup (.lane t g 0) fun x => x.grow n
            (s.updCore core fun k => k.setClaimq side rest).grantFrom core side fuel
          else s

/-- CLAIMLOCK raised in the team of a side's head claim where R382 holds; a team that already has
that record keeps it. -/
def State.checkClaimLock (s : State) (core side : Nat) : State :=
  match (s.core core).claimq side with
  | [] => s
  | (t, g) :: _ =>
    match s.team? t, (s.team? t).bind fun x => SMap.get? x.groups g with
    | some x, some grp =>
      let n := grp.park.getD 0
      let f := s.sideFree core side
      let stuck := (s.sideGroups core side).all fun e => e.2.2.park.isSome
      let had : Bool := (match x.fault with | some r => r.kind = kCLAIMLOCK && r.src = g | none => false) ||
        (match grp.pfault with | some r => r.kind = kCLAIMLOCK | none => false)
      if f < grp.need n && stuck && !had then
        let pc := (grp.lane (((List.range 32).find? fun i => (grp.lane i).st = .live).getD 0)).pc
        let r : FaultRec :=
          { kind := kCLAIMLOCK, cause := 0, precise := false, src := g, unit := 0, mask := 0, iaddr := pc,
            addr := 0, info := [w32 n, w32 f], newp := 0, lanes := 0, next := pc, nbase := pc,
            atStart := false }
        (s.recordFault t (.lane t g 0) r).noteStop t
      else s
    | _, _ => s

/-- What follows a change of a side's pool: grants, then the check of R382. -/
def State.poolChanged (s : State) (core side : Nat) : State :=
  (s.grantFrom core side (((s.core core).claimq side).length + 1)).checkClaimLock core side

/-- What follows a change of both pools of a core. -/
def State.poolsChanged (s : State) (core : Nat) : State := (s.poolChanged core 0).poolChanged core 1

/-! ## Lives, banks, FIFOs -/

/-- Lives of a cluster that have not ended, by number. -/
def State.clusterLives (s : State) (launch cluster : Nat) : SMap Life :=
  s.lives.filter fun e => e.2.launch = launch && e.2.cluster = cluster && !e.2.ended

/-- The life whose scratchpad a CORE field names for a command of a life, as when it was accepted, ended or not
(R216). The lives of one start of a cluster have consecutive numbers. -/
def State.cmdLife (s : State) (life core : Nat) : Option Nat :=
  match s.life? life with
  | none => none
  | some f =>
    if core = 15 then some life
    else
      ((s.life? (life - f.team + core)).filter fun g => g.launch = f.launch && g.cluster = f.cluster && g.team = core).map
        fun _ => life - f.team + core

/-- Scratchpad addresses that a copy command still reads or writes; none once it has stopped (R202). -/
def Cmd.spads (c : Cmd) : List Nat :=
  match c.st, c.form with
  | .saved, _ | _, .publish | _, .flush _ => []
  | _, _ => (if c.cr.ctl.getLsbD 0 then [c.cr.addrs] else []) ++ (if c.cr.ctl.getLsbD 1 then [c.cr.addrd] else [])

/-- Scratchpad addresses that a matrix operand names. -/
def MatSrc.spads : MatSrc → List Nat
  | .regs _ _ => []
  | .sp a _ => [a.toNat]

/-- Scratchpad addresses that a matrix command reads or writes. -/
def MCmd.spads (c : MCmd) : List Nat :=
  c.acc.toNat :: match c.form with
    | .mma _ _ a b => a.spads ++ b.spads
    | .mcvt _ _ ctl dest => if ctl.getLsbD 16 then [] else [dest.toNat % 2 ^ 32]
    | .mzero | .mscale _ => []

/-- Whether a command that reads or writes the scratchpad of a life is outstanding, whichever team of its cluster issued
it (R216). -/
def State.spadBusy (s : State) (part life : Nat) : Bool :=
  let names (o : Owner) (as : List Nat) : Bool := as.any fun a => s.cmdLife o.life (bitsN a 31 28) = some life
  ((s.part? part).map fun p => p.cmds.any fun c => names c.owner c.spads).getD false ||
    (s.cores.any fun e => e.2.mq.any fun c => names c.owner c.spads) ||
    (s.ops.any fun e => match e.2.kind with
      | .append r => r.lives.contains life
      | .appended ls => ls.contains life
      | _ => false)

/-- Number of the life that is team `team` of a cluster. -/
def State.lifeOfTeam (s : State) (launch cluster team : Nat) : Option Nat :=
  ((s.clusterLives launch cluster).find? fun e => e.2.team = team).map (·.1)

/-- The life that owns the FIFO or banks that a CORE field names (R217, R228). -/
def State.namedLife (s : State) (life core : Nat) : Option Nat :=
  match s.life? life with
  | none => none
  | some f => if core = 15 then some life else s.lifeOfTeam f.launch f.cluster core

/-- Frames given back to the pool of a partition (R119). -/
def State.giveFrames (s : State) (part : Nat) (frames : List Nat) : State :=
  s.updPart part fun p => { p with poolTaken := p.poolTaken.filter fun f => !frames.contains f }

/-- What a life holds beside its banks is given up: gongs, FIFOs, table, frames (R216, R305, R372). A sign of a round
whose command was never issued goes with the gong. -/
def State.freeLife (s : State) (l : Nat) : State :=
  match s.life? l with
  | none => s
  | some f =>
    let s := s.updCore f.core fun k =>
      { k with gongs := k.gongs.filter fun e => e.2.holder ≠ l,
               fifos := k.fifos.filter fun e => e.2.owner ≠ l }
    let s := { s with ops := s.ops.filter fun e =>
      !(e.2.waits.any fun x => match x with | .gong k _ _ => k = l | _ => false) }
    let s := s.giveFrames f.part f.frames
    s.updLife l fun f => { f with cap := [], frames := [], ended := true }

/-- An ended life gives its banks up once no command reads or writes them (R216). -/
def State.bareLife (s : State) (l : Nat) (f : Life) : Life :=
  if f.ended && !s.spadBusy f.part l then { f with banks := [] } else f

/-- Ended lives give up the banks that no command uses, and leave the table once they hold none and no operation of
theirs is outstanding (R108, R216). -/
def State.dropEnded (s : State) : State :=
  let ls := SMap.map s.lives s.bareLife
  { s with lives := ls.filter fun e => !(e.2.ended && e.2.banks.isEmpty && !(s.ops.any fun o => o.2.owner.life = e.1)) }

/-- A resident team removed: its windows return to the pools (R378), its place in the handler's queue
is given up. -/
def State.removeTeam (s : State) (t : Nat) : State :=
  match s.team? t with
  | none => s
  | some x =>
    let s := { s with teams := SMap.del s.teams t }
    let s := s.updCore x.core fun k =>
      { k with stops := k.stops.filter (· ≠ t),
               claimq0 := k.claimq0.filter (fun e => e.1 ≠ t),
               claimq1 := k.claimq1.filter (fun e => e.1 ≠ t) }
    s.poolsChanged x.core

/-- Physical address of a save slot (R439). -/
def State.slotAddr (s : State) (part ctx slot : Nat) : Nat :=
  match s.part? part with
  | none => 0
  | some p => s.ctxField p ctx 104 8 + 2 ^ 24 * slot

/-- A save slot marked free (R440). -/
def State.freeSlot (s : State) (part ctx slot : Nat) : State :=
  let a := s.slotAddr part ctx slot
  if s.own part a (2 ^ 24) then s.devPut part a [0] else s

/-- Saved teams of some lives forgotten: their slots are free, and no resume entry names them (R429, R439). -/
def State.dropSaved (s : State) (lives : List Nat) : State :=
  let gone := s.saved.filter fun e => lives.contains e.2.team.life
  let ids := List.map (·.1) gone
  let s := gone.foldl (fun s e =>
    match s.life? e.2.team.life with
    | none => s
    | some f => s.freeSlot f.part f.ctx e.2.slot) s
  { s with
    saved := s.saved.filter fun e => !(lives.contains e.2.team.life)
    cores := s.cores.filter fun e => !(gone.any fun g => e.1 = slotCore g.2.team.life)
    parts := SMap.map s.parts fun _ p =>
      { p with queue := (p.queue.map fun e => { e with resume := e.resume.filter fun k => !(ids.contains k) }).filter fun e =>
          !(e.resume.isEmpty && p.queue.any fun o => o.order = e.order && !o.resume.isEmpty) } }

/-- Steps 1 to 4 of R369 on every team of a cluster, resident or saved: their state, the phases of theirs that wait in
a queue and what their lives hold. -/
def State.dropCluster (s : State) (launch cluster : Nat) : State :=
  let ls := s.clusterLives launch cluster
  let here := s.teams.filter fun e => ls.any fun l => l.1 = e.2.life
  let s := here.foldl (fun s e => s.removeTeam e.1) s
  let s := s.dropSaved (List.map (·.1) ls)
  let s := ((List.map (fun e : Nat × Life => e.2.part) ls).foldl insertNat []).foldl (fun s j =>
    s.dropQueued j fun e => match e.life with | none => false | some l => ls.any fun x => x.1 = l) s
  (ls.foldl (fun s l => s.freeLife l.1) s).dropEnded

/-! ## The phase record (R377) -/

/-- Lane registers that a kernel carries (R84). -/
def Kernel.lanesCarried (k : Kernel) : List Nat := (List.range 512).filter fun i => k.vcarry.getLsbD i

/-- Scalars that a kernel carries (R84). -/
def Kernel.scalarsCarried (k : Kernel) : List Nat := (List.range 128).filter fun i => k.scarry.getLsbD i

/-- Sg, the bytes of a group's area of the phase record (R377). -/
def Kernel.areaBytes (k : Kernel) : Nat := 320 + 64 * ceilDiv k.scalarsCarried.length 16 + 128 * k.lanesCarried.length

/-- The 64 bytes of the header of a phase record (R377). -/
def PhaseRec.header (p : PhaseRec) : List Byte :=
  leBytesOf 1 ((if p.frontIn then 1 else 0) + if p.frontDone then 2 else 0) ++ leBytesOf 27 0 ++ leBytesOf 4 p.phn ++
    leBytesOf 8 p.tsmax ++ leBytesOf 8 p.live.toNat ++ leBytesOf 8 p.arrived.toNat ++ leBytesOf 8 p.nfront

/-- The bytes of an area (R377). DESIGN CHOICE: the mask stands behind W in the first line (log 50). -/
def Area.toBytes (k : Kernel) (a : Area) : List Byte :=
  let s := k.scalarsCarried.flatMap fun n => leBytesOf 4 (SMap.getD 0 a.s n).toNat
  leBytesOf 4 a.w ++ leBytesOf 4 a.mask.toNat ++ leBytesOf 56 0 ++ (a.targets.flatMap fun t => leBytesOf 8 t) ++
    s ++ List.replicate (64 * ceilDiv k.scalarsCarried.length 16 - s.length) 0 ++
    k.lanesCarried.flatMap fun n =>
      let l := SMap.getD [] a.v n
      (List.range 32).flatMap fun i => leBytesOf 4 (l.getD i 0).toNat

/-- Bytes written at an offset of the phase record of a life, which lies in the frames behind those of its lanes; no
virtual address reaches them (R377; log 50). -/
def State.putPhase (s : State) (f : Life) (o : Nat) (bs : List Byte) : State :=
  let pages := f.frames.drop (8 * f.ngroups)
  (pieces o bs.length).foldl (fun s e =>
    match pages[e.1 / 65536]? with
    | none => s
    | some a => s.devPut f.part (a + e.1 % 65536) ((bs.drop (e.1 - o)).take e.2)) s

/-- A life's phase record changed, its header written (R377). -/
def State.updPhase (s : State) (life : Nat) (g : PhaseRec → PhaseRec) : State :=
  let s := s.updLife life fun f => { f with phase := g f.phase }
  match s.life? life with
  | none => s
  | some f => s.putPhase f 0 f.phase.header

/-- Whether a team's front context has ended or arrived: it does not run, no rendezvous is outstanding,
and its flags are free (R351, R375). -/
def Team.frontOver (x : Team) : Bool := !x.front.run && x.front.rdv.isNone && x.front.flags.isEmpty

/-- THE ARRIVAL OF A FRONT CONTEXT (R375, R377): one that runs this phase and is over has FRONTDONE set, and its clock
joins TSMAX. -/
def State.frontArrives (s : State) (t : Nat) : State :=
  match s.team? t with
  | none => s
  | some x =>
    if x.frontOver && ((s.life? x.life).map fun f => f.phase.frontIn && !f.phase.frontDone).getD false then
      s.updPhase x.life fun p => { p with frontDone := true, tsmax := maxN p.tsmax (s.core x.core).pts }
    else s

/-- A group's area written into the phase record of a life (R375, R377). -/
def State.putArea (s : State) (life g : Nat) (k : Kernel) (a : Area) : State :=
  match s.life? life with
  | none => s
  | some f =>
    (s.updLife life fun f => { f with phase := { f.phase with areas := SMap.put f.phase.areas g a } }).putPhase f
      (64 + g * k.areaBytes) (a.toBytes k)

/-- The lowest team front context of a core that no resident team has (R304). -/
def State.freeSeat (s : State) (core : Nat) : Nat :=
  let used := (s.teamsOn core).filterMap fun e => (s.life? e.2.life).map (·.seat)
  ((List.range 4).find? fun i => !used.contains i).getD 0

/-! ## Abort, restart, retry, kill -/

/-- The two halves of a domain on the SPLIT axis, where it can be halved (R369 step 5). -/
def halves (k : Kernel) (dom : List Word) : Option (List Word × List Word) :=
  let a := k.split
  let b := (dom.getD (2 * a) 0).toNat
  let e := (dom.getD (2 * a + 1) 1).toNat
  let g := maxN (k.grain.getD a 1) 1
  if 2 * g ≤ e then
    let h := e / 2
    some (setNth (setNth dom (2 * a) (w32 b)) (2 * a + 1) (w32 h),
      setNth (setNth dom (2 * a) (w32 (b + h))) (2 * a + 1) (w32 (e - h)))
  else none

/-- A shell of a team whose task's state is freed, stopped with the record of GRAIN cause 1 (R369
step 6). -/
def Team.shell (x : Team) (r : FaultRec) : Team :=
  { x with groups := [], front := Prog.init, mseq := Prog.init, cseq := Prog.init, bins := [], dq := [],
           tent := [], tentTags := [], reads := [], staged := [], popped := [], tentLeaves := [],
           tentPairs := [], tentShared := [], tentBy := [], fault := some r, token := none, run := .halting, ending := none }

/-- ABORT AND SPLIT (R369) by an agent of team `t`; `r` is the record's place fields where GRAIN is
raised instead, in a team whose life holds nothing: the old life keeps its banks while commands use them (R216). -/
def State.abortSplit (s : State) (t : Nat) (r : FaultRec) : State :=
  match s.team? t with
  | none => s
  | some x =>
    match s.life? x.life with
    | none => s
    | some f =>
      let pts := (s.core x.core).pts
      let k := (s.launch? f.launch).bind (·.kernel)
      match k.bind fun k => halves k x.task.dom with
      | some (d1, d2) =>
        let s := s.dropCluster f.launch f.cluster
        let (a, s) := s.freshRec f.part f.ctx { x.task with dom := d1, rst := 0, direct := false, later := false } pts
        let (b, s) := s.freshRec f.part f.ctx { x.task with dom := d2, rst := 0, direct := false, later := false } pts
        (s.pushRec f.part f.ctx f.launch a none []).pushRec f.part f.ctx f.launch b none []
      | none =>
        let s := s.dropCluster f.launch f.cluster
        let rec' := { r with kind := kGRAIN, cause := 1, precise := true, info := x.task.dom }
        let (id, s) := s.fresh
        let s := { s with lives := SMap.put s.lives id { f with banks := [], cap := [], frames := [], scratch := 0 },
                          teams := SMap.put s.teams t { x.shell rec' with life := id } }
        s.noteStop t

/-- An uncommitted later phase of a team pushed again whole (R435): its windows, bins and flags are gone, the gongs of
its life stand as at its start (R305), its phase record has the areas that it started from, and its record is of a new
generation. DEDUCED: the life goes on, with its frames, which R119 keeps, and what it held before this phase
(log 25). -/
def State.rephase (s : State) (t : Nat) : State :=
  match s.team? t with
  | none => s
  | some x =>
    match s.life? x.life with
    | none => s
    | some l =>
      let s := s.updCore x.core fun k =>
        { k with gongs := x.entryGongs.foldl (fun m e => SMap.put m e.1 e.2) (k.gongs.filter fun e => e.2.holder ≠ x.life) }
      let s := s.removeTeam t
      let s := s.updPhase x.life fun p =>
        { p with arrived := 0, nfront := 0, tsmax := 0, frontIn := false, frontDone := false, areas := [] }
      let s := match (s.launch? l.launch).bind (·.kernel) with
        | none => s
        | some k => x.entry.foldl (fun s (e : Nat × Area) => s.putArea x.life e.1 k e.2) s
      let (r, s) := s.freshRec l.part l.ctx x.task (s.core x.core).pts
      s.pushRec l.part l.ctx l.launch r (some x.life) []

/-- A cluster's first phase started over: its record pushed again after steps 1 to 4 of R369. DEDUCED: the record
keeps the frames of its teams, whose contents R119 keeps across a restart (log 49). -/
def State.rebirth (s : State) (t : Nat) (f : TaskRec → TaskRec) : State :=
  match s.team? t with
  | none => s
  | some x =>
    match s.life? x.life with
    | none => s
    | some l =>
      let pts := (s.core x.core).pts
      let ls := s.clusterLives l.launch l.cluster
      let kept := (List.range ls.length).map fun i => ((ls.find? fun e => e.2.team = i).map (·.2.frames)).getD []
      let s := s.dropCluster l.launch l.cluster
      let s := s.updPart l.part fun p => { p with poolTaken := kept.flatten.foldl insertNat p.poolTaken }
      let (r, s) := s.freshRec l.part l.ctx (f x.task) pts
      s.push l.part ⟨r, l.ctx, l.launch, none, [], 0, 0, 0, kept⟩

/-- RESTART after a failed validation (R366). -/
def State.restart (s : State) (t : Nat) : State :=
  s.rebirth t fun r => { r with rst := minN (r.rst + 1) 3, direct := r.direct || decide (3 ≤ r.rst + 1) }

/-- KILL (R429): the cluster ends without commit; the launch notes the address. -/
def State.kill (s : State) (t addr : Nat) : State :=
  match s.team? t with
  | none => s
  | some x =>
    match s.life? x.life with
    | none => s
    | some l =>
      (s.dropCluster l.launch l.cluster).updLaunch l.launch fun n =>
        { n with killed := some (n.killed.getD addr) }

/-- RETRY (R429): as a kill where the task has committed or is a later phase. -/
def State.retry (s : State) (t addr : Nat) (grain : Bool) : State :=
  match s.team? t with
  | none => s
  | some x =>
    if x.mode = .committed || x.task.later then s.kill t addr
    else s.rebirth t fun r => if grain then { r with rst := 3, direct := true } else r

/-! ## Commit (R182, R363 to R365) -/

/-- Lines that a tentative task holds written. -/
def Team.tentLines (x : Team) : List Nat :=
  (List.map (fun e => e.1 / 64) x.tent).foldl insertNat (List.map (·.1) x.tentTags)

/-- What a team's commit leaves: mode committed, nothing held, deferred registers back in the pool. -/
def Team.committed (x : Team) : Team :=
  { x with mode := .committed, tent := [], tentTags := [], reads := [], staged := [], popped := [],
           tentLeaves := [], tentPairs := [], tentShared := [], tentBy := [],
           groups := SMap.map x.groups fun _ g => { g with alloc := regsOf g.w } }

/-- A cluster's outstanding commands of one team count as committed ones (R199). -/
def State.cmdsCommit (s : State) (part core life gen : Nat) : State :=
  let mine (o : Owner) : Bool := o.life = life && o.gen = gen
  let s := s.updPart part fun p =>
    { p with cmds := p.cmds.map fun c => if mine c.owner then { c with tentative := false } else c }
  s.updCore core fun k =>
    { k with mq := k.mq.map fun c => if mine c.owner then { c with tentative := false } else c }

/-- The command that carries a task's staged lines out after its commit (R199). -/
def flushCmd (id : Nat) (f : Life) (o : Owner) (clk : Nat) (lines : List Staged) : Cmd :=
  ⟨id, 0, f.ctx, f.launch, o, .flush lines, .blk, ⟨0, 0, 0, 0, 1, 0, 0, 0, 0, 0, 0⟩, [], .running, 0, true, false,
    clk, [], false, 0⟩

/-- ECCU recorded after issue in a group for what no instruction of it names any more (R475, R477). -/
def eccuAt (g addr : Nat) : FaultRec :=
  { kind := kECCU, cause := 0, precise := false, src := g, unit := 0, mask := 0, iaddr := 0, addr := addr,
    info := [], newp := 0, lanes := 0, next := 0, nbase := 0, atStart := false }

/-- Bytes by address as runs: the first address of each and its bytes. -/
def byteRuns : List (Nat × Byte) → List (Nat × List Byte)
  | [] => []
  | (a, b) :: l =>
    match byteRuns l with
    | (c, bs) :: r => if c = a + 1 then (a, b :: bs) :: r else (a, [b]) :: (c, bs) :: r
    | [] => [(a, [b])]

/-- A tentative line's bytes put where they belong at a commit timestamp (R182): at home in memory, at
home of class 6, or at a peer (R185), each run of bytes as one write (R142). Whether the line met uncorrectable
data, which takes nothing (R160, R471, R477). -/
def landLine (part core line : Nat) (tent : SMap Byte) (tags : SMap (BitVec 16)) : M Bool := do
  let runs := byteRuns (SMap.range tent (64 * line) (64 * line + 64))
  if isPeer (64 * line) then do
    let ok ← peerServes part (64 * line)
    if ok then do
      upd fun s => runs.foldl (fun s r => s.send (.peerWrite r.1 r.2)) s
      pure false
    else pure true
  else if isHostWin (64 * line) then do
    let bad ← look fun s => s.poison6 part line
    if bad then do
      upd fun s => s.dropRec part (64 * line)
      pure true
    else do
      let d ← fill6 part line true
      let d' := runs.foldl (fun d r => splice d (r.1 % 64) r.2) d
      upd fun s =>
        let by' := ((SMap.get? s.home6 (key6 part line)).map (·.dirty)).getD []
        { s with home6 := SMap.put s.home6 (key6 part line) ⟨d', insertNat by' core⟩ }
      pure false
  else do
    meetLine line
    let bad ← look fun s => s.isPoison line
    if bad then do
      upd fun s => s.dropRec part (64 * line)
      pure true
    else do
      upd fun s =>
        let s := runs.foldl (fun s r => s.setBytes r.1 r.2) s
        let s := match SMap.get? tags line with | none => s | some g => s.setTag line g
        s.markDirty part (64 * line)
      pure false

/-- The shadow page that an engine write of a context at an address goes to (R209): descriptor, pair entry and
frame 0. -/
def State.shadowPage (s : State) (part ctx va : Nat) : Option (Nat × Nat × Nat) :=
  match s.walk part ctx va with
  | .leaf _ _ e => if leafSH e then (s.shadow part ctx va).map fun d => (d.1, d.2.1, leafFrame e) else none
  | _ => none

/-- THE REFRESH of the pages that a task's staged writes go to, made at its commit; one that R210 holds is made with the
held writes (R209). -/
def refreshStaged (part clk ctx : Nat) (staged : List Staged) : M Unit :=
  each staged fun g => do
    let pg ← look fun s => if g.parts.isEmpty then none else s.shadowPage part ctx g.va
    match pg with
    | none => pure ()
    | some (d, a, frame0) => do
      let held ← look fun s => !(s.pair a).2.1 && decide (s.cyc < s.homeLe (d + 8) 8)
      if held then pure ()
      else do
        let _ ← shadowDest part clk (some ctx) d a frame0
        pure ()

/-- The ECCU records of lines whose tentative bytes met uncorrectable data at the commit (R160): one for each
instruction that wrote such a line, with its lanes. -/
def struckRecs (by' : SMap (List (Nat × Nat × BitVec 32))) (lines : List Nat) : List FaultRec :=
  let all := lines.flatMap fun l => (SMap.getD [] by' l).map fun e => (l, e)
  all.foldl (fun out e =>
    if out.any fun r => r.src = e.2.1 && r.iaddr = e.2.2.1 then
      out.map fun r => if r.src = e.2.1 && r.iaddr = e.2.2.1 then { r with mask := r.mask ||| e.2.2.2 } else r
    else out ++ [{ eccuAt e.2.1 (64 * e.1) with iaddr := e.2.2.1, mask := e.2.2.2 }]) []

/-- A fault recorded after issue kept by the agent of a team that its SRC names (R417). -/
def State.addLate (s : State) (t : Nat) (r : FaultRec) : State :=
  if r.src < 64 then s.updGroup (.lane t r.src 0) fun y => { y with late := y.late ++ [r] }
  else s.updProg (agentOfSrc t r.src) fun p => { p with late := p.late ++ [r] }

/-- COMMIT of a tentative task (R182): validation may restart it. The pending records of the class 2 lines that it
writes are applied first (R396). DESIGN CHOICE: the renewal of a line that the task read leaves its LAM as it was
(log 45). -/
def commitTentative (t : Nat) (x : Team) (f : Life) : M Unit := do
  let part := f.part
  let lines := x.tentLines
  let homed := lines.filter fun l => !(isPeer (64 * l))
  let keys := homed.map (lineKey part)
  let pts ← ptsOf x.core
  each x.tentPairs fun e => do
    let _ ← shadowDest part pts (some f.ctx) e.1 e.2.1 e.2.2
    pure ()
  each x.tentShared fun l => do
    let _ ← applyFirst part pts l
    pure ()
  each keys fun l => do
    mergeLine part l
    backInvalidate l
  each x.reads fun r => mergeLine part r.1
  let rts ← collectM keys fun l => do
    let (_, r) ← homeTs part l
    pure r
  let now ← collectM x.reads fun r => do
    let (w, _) ← homeTs part r.1
    pure w
  let tc := (List.map (·.2) x.reads).foldl maxN ((rts.map (· + 1)).foldl maxN pts)
  if now ≠ List.map (·.2) x.reads then stop .restart
  else do
    each x.reads fun r => do
      let (w, e) ← homeTs part r.1
      storeTs part r.1 w (maxN e tc) id
    let struck ← collectM lines fun l => do
      let bad ← landLine part x.core l x.tent x.tentTags
      pure (if bad then [l] else [])
    each keys fun l =>
      storeTs part l tc tc fun h =>
        { h with lam := 3, lastCore := some x.core, lastMask := BitVec.allOnes 64, dirty := some f.ctx }
    each x.tentLeaves fun e => setLeafBit part x.core e 7
    raisePts x.core tc
    refreshStaged part tc f.ctx x.staged
    upd fun s =>
      let s := s.updTeam t Team.committed
      let s := s.cmdsCommit part x.core x.life x.gen
      let s :=
        if x.staged.isEmpty then s
        else
          let (id, s) := s.fresh
          s.updPart part fun p =>
            { p with cmds := p.cmds ++ [flushCmd id f ⟨x.life, x.gen, x.core, 0, 0⟩ tc x.staged] }
      let s := s.poolsChanged x.core
      (struckRecs x.tentBy struck.flatten).foldl (fun s r => s.addLate t r) s

/-- A COMMIT POINT of a team (R363): a tentative task commits, a direct one becomes committed. -/
def commitTeam (t : Nat) : M Unit := do
  let x ← look fun s => s.team? t
  match x with
  | none => pure ()
  | some x =>
    match x.mode with
    | .committed => pure ()
    | .direct => upd fun s => s.updTeam t Team.committed
    | .tentative => do
      let f ← look fun s => s.life? x.life
      match f with
      | none => pure ()
      | some f => commitTentative t x f

/-- A commit point of the issuer's task; handlers and firmware have none. -/
def commitTask (w : Who) : M Unit := if w.level = .lane then commitTeam w.team else pure ()

/-- A direct task that has not committed commits at its first store, pop, push or memory command
(R363). -/
def leaveDirect (w : Who) : M Unit := do
  let m ← look fun s => s.modeOf w
  if m = .direct then commitTask w else pure ()

/-! ## The end of a life (R371, R372) -/

/-- Capability entries of the other teams of a cluster that name FIFOs of an ended life become invalid
(R372 step 4). -/
def Life.forget (f : Life) (gone : List Nat) (team : Nat) : Life :=
  { f with cap := SMap.map f.cap fun _ e =>
      if e.v && e.core = team && gone.contains e.fifo then { e with v := false, out := 0 } else e }

/-- An allowance returned to the GRANTED of the FIFO that a W entry names, whose owner is resident or saved (R229,
R372). -/
def State.returnAllow (s : State) (life : Nat) (c : Cap) : State :=
  match s.namedLife life c.core with
  | none => s
  | some o =>
    let less (m : SMap Fifo) : SMap Fifo := SMap.modify m c.fifo fun q =>
      if q.owner = o then { q with granted := q.granted - c.allow } else q
    match s.life? o with
    | none => s
    | some f =>
      let s := s.updCore f.core fun k => { k with fifos := less k.fifos }
      { s with saved := SMap.map s.saved fun _ v => if v.team.life = o then { v with fifos := less v.fifos } else v }

/-- A life ended (R372 step 4). -/
def State.endLife (s : State) (l : Nat) : State :=
  match s.life? l with
  | none => s
  | some f =>
    let gone := ((s.core f.core).fifos.filter fun e => e.2.owner = l).map (·.1)
    let s := f.cap.foldl (fun s e => if e.2.v && e.2.w then s.returnAllow l e.2 else s) s
    let others := (s.clusterLives f.launch f.cluster).filter fun e => e.1 ≠ l
    let s := others.foldl (fun s e => s.updLife e.1 fun g => g.forget gone f.team) s
    (s.freeLife l).dropEnded

/-- Whether a record that a program gives has a reserved or device field nonzero, or an extent of 0
(R370); `join` says whether JOIN is checked. -/
def recMalformed (b : List Byte) (join : Bool) : Bool :=
  let n (o k : Nat) : Nat := leOf ((b.drop o).take k)
  n 0 20 ≠ 0 || n 80 1 ≠ 0 || n 104 24 ≠ 0 || (join && n 92 4 ≠ 0) || n 86 2 ≠ 0 || n 85 1 ≠ 0 ||
    n 81 1 ≠ 0 || n 88 4 ≠ 0 || 64 < n 83 1 || 7 < n 82 1 || n 60 4 = 0 || n 68 4 = 0 || n 76 4 = 0

/-- Whether the addresses of a record are aligned (R370). -/
def recAligned (r : TaskRec) : Bool := r.code % 48 = 0 && r.front % 48 = 0 && r.jointo % 128 = 0

/-- Whether the addresses of a record lie in a launch's ranges (R370). -/
def recLeased (rs : List Range) (r : TaskRec) : Bool :=
  let x (a : Nat) : Bool := rs.any fun g => g.has a [rightX]
  x r.code && (r.front = 0 || x r.front) &&
    (r.jointo = 0 || coveredBy rs [rightR, rightW] r.jointo 128 (rs.length + 1))

end Sys2Proof.Machine
end

