-- ==== Sys2Proof/Machine/Image.lean ====
section
/-!
DEFINITION. The layouts in which a team's state is written out: the fault record (R419), capability, gong
and FIFO records (R226, R228, R304), and the save slot (R439 to R441). The places that those rules leave
open inside an area are those of log 14.
-/

namespace Sys2Proof.Machine

/-- A capability entry of 64 bits (R228). -/
def Cap.ofBits (b : Nat) : Cap :=
  ⟨bitN b 63, bitN b 62, bitN b 61, bitsN b 60 57, bitsN b 56 51, bitsN b 47 32, bitsN b 31 16⟩

/-- The 64 bits of a capability entry (R228). -/
def Cap.toBits (c : Cap) : Nat :=
  (if c.v then 2 ^ 63 else 0) + (if c.r then 2 ^ 62 else 0) + (if c.w then 2 ^ 61 else 0) +
    c.core % 16 * 2 ^ 57 + c.fifo % 64 * 2 ^ 51 + c.allow % 65536 * 2 ^ 32 + c.out % 65536 * 2 ^ 16

/-- The 64 bytes of a fault record (R419). -/
def FaultRec.toBytes (r : FaultRec) : List Byte :=
  leBytesOf 1 r.kind ++ leBytesOf 1 r.cause ++ leBytesOf 6 0 ++ leBytesOf 1 (if r.precise then 1 else 0) ++
    leBytesOf 1 r.src ++ leBytesOf 2 r.unit ++ leBytesOf 4 r.mask.toNat ++ leBytesOf 8 r.iaddr ++ leBytesOf 8 r.addr ++
    ((List.range 6).flatMap fun i => leBytesOf 4 (r.info.getD i 0).toNat) ++ leBytesOf 8 r.newp.toNat

/-- The 16 bytes of a gong record (R304); `holder` is the front context of the holder. -/
def Gong.toBytes (g : Gong) (holder : Nat) : List Byte :=
  leBytesOf 1 (1 + if g.armed then 2 else 0) ++ leBytesOf 2 0 ++ leBytesOf 1 holder ++ leBytesOf 4 g.gen ++
    leBytesOf 2 g.n ++ leBytesOf 2 g.count ++ leBytesOf 4 g.recAddr.toNat

/-- The 16 bytes of a FIFO record (R226); `owner` is the front context of the owner. -/
def Fifo.toBytes (q : Fifo) (owner : Nat) : List Byte :=
  leBytesOf 1 1 ++ leBytesOf 1 0 ++ leBytesOf 1 owner ++ leBytesOf 1 q.bank ++ leBytesOf 2 q.base ++ leBytesOf 2 q.depth ++
    leBytesOf 2 q.head ++ leBytesOf 2 q.slots.length ++ leBytesOf 2 q.granted ++ leBytesOf 2 0

/-- Number of a life's team front context on its core, 0 to 3 (R226, R304). -/
def State.seatOf (s : State) (life : Nat) : Nat := ((s.life? life).map (·.seat)).getD 0

/-- The 16 bytes of a core's gong; zero where it is free (R305). -/
def State.gongBytes (s : State) (core n : Nat) : List Byte :=
  match SMap.get? (s.core core).gongs n with
  | none => leBytesOf 16 0
  | some g => g.toBytes (s.seatOf g.holder)

/-! ## The save slot -/

/-- The team header (R440). -/
def headerBytes (tst : Nat) (x : Team) (f : Life) (nfifo : Nat) : List Byte :=
  let live := maskOf ((x.groups.filter fun e => e.2.live).map (·.1))
  leBytesOf 1 tst ++ leBytesOf 1 0 ++ leBytesOf 1 f.team ++ leBytesOf 1 f.banks.length ++ leBytesOf 4 nfifo ++
    leBytesOf 4 x.core ++ leBytesOf 4 (live / 2 ^ 32) ++ leBytesOf 4 live ++ leBytesOf 4 f.scratch ++
    leBytesOf 4 x.allow ++ leBytesOf 4 x.slice ++ leBytesOf 8 x.gen

/-- A split record in a group entry (R441). -/
def splitPiece (g : Group) (q k now : Nat) (r : Split) : List (Nat × List Byte) :=
  let i := 4 * q + (((List.range 4).find? fun i => r.mask.getLsbD i).getD 0)
  let o := 384 + 32 * q + 16 * k
  [(o, leBytesOf 8 (g.lane i).pc), (o + 8, leBytesOf 1 (r.mask.toNat + 16)), (o + 12, leBytesOf 4 (now - r.since))]

/-- A quad in a group entry (R441). -/
def quadPieces (g : Group) (q now : Nat) : List (Nat × List Byte) :=
  let x := g.quad q
  ((List.range x.recs.length).zip x.recs).flatMap (fun e => splitPiece g q e.1 now e.2) ++
    [(376 + q, leBytesOf 1 ((if x.solo.isSome then 1 else 0) + 2 * (x.solo.getD 0) + (if x.forced then 8 else 0))),
     (360 + 2 * q, leBytesOf 2 x.timer), (192 + 8 * q, leBytesOf 8 (x.sleep.getD 0))]

/-- A group entry (R441) in pieces. -/
def groupPieces (g : Group) (now : Nat) : List (Nat × List Byte) :=
  (List.range 32).flatMap (fun i =>
    let l := g.lane i
    [(768 + 8 * i, leBytesOf 8 l.pc), (704 + 2 * i, leBytesOf 2 l.rsd), (640 + 2 * i, leBytesOf 2 l.p.toNat)]) ++
    (List.range 8).flatMap (fun q => quadPieces g q now) ++
    (List.range 12).map (fun n => (348 + n, leBytesOf 1 (SMap.getD 0 g.flags n))) ++
    [(336, leBytesOf 4 g.w), (332, leBytesOf 4 g.skid), (328, leBytesOf 4 g.pix),
     (256, (g.pfault.map FaultRec.toBytes).getD [])]

/-- A program of the front thread (R439): registers, PC, flags, the deadline that holds it. -/
def progPieces (p : Prog) : List (Nat × List Byte) :=
  List.map (fun e => (8 * e.1, leBytesOf 8 e.2.toNat)) p.k ++
    [(0x200, leBytesOf 8 p.pc)] ++ (List.range 12).map (fun n => (0x208 + n, leBytesOf 1 (SMap.getD 0 p.flags n))) ++
    [(0x214, leBytesOf 1 p.stack.length), (0x218, leBytesOf 8 (p.sleep.getD 0))] ++
    ((List.range p.stack.length).zip p.stack).map fun e => (0x220 + 8 * e.1, leBytesOf 8 e.2)

/-- The front context's area beyond its program (R439). -/
def frontPieces (x : Team) : List (Nat × List Byte) :=
  (match x.front.rdv with
   | none => []
   | some r => [(0x2A0, leBytesOf 8 r.j), (0x2A8, leBytesOf 8 r.target)]) ++
    (((List.range x.dq.length).zip x.dq).flatMap fun e =>
      [(0x300 + 16 * e.1, leBytesOf 4 e.2.1.toNat), (0x308 + 16 * e.1, leBytesOf 8 e.2.2)]) ++
    List.map (fun e : Nat × Group => (0x700 + 4 * e.1, leBytesOf 4 (e.2.dqPos - x.dqBase))) x.groups

/-- Pieces moved by an offset. -/
def shifted (o : Nat) (l : List (Nat × List Byte)) : List (Nat × List Byte) := l.map fun e => (o + e.1, e.2)

/-- A FIFO entry (R439). -/
def fifoEntryBytes (e : FEntry) : List Byte :=
  ((List.range 32).flatMap fun i => leBytesOf 4 (e.words.getD i 0).toNat) ++ leBytesOf 4 e.mask.toNat ++ leBytesOf 4 0 ++
    leBytesOf 8 e.clk ++ leBytesOf 2 e.core ++ leBytesOf 1 e.cap

/-- A team's image in the layout of a save slot (R439), in pieces; the core table holds its scratchpad at
`sc`. -/
def imagePieces (s : State) (tst : Nat) (x : Team) (f : Life) (fifos : SMap Fifo) (gongs : SMap Gong) (sc now : Nat) :
    List (Nat × List Byte) :=
  let k := s.core sc
  let entries := fifos.flatMap fun e => e.2.slots
  let gs := x.groups.filter fun e => e.2.live
  let banks := (List.range f.banks.length).zip f.banks
  [(0, headerBytes tst x f entries.length), (0x40, (x.fault.map FaultRec.toBytes).getD []), (0x80, x.task.toBytes)] ++
    List.map (fun e : Nat × Cap => (0x100 + 8 * e.1, leBytesOf 8 e.2.toBits)) f.cap ++
    List.map (fun e : Nat × Gong => (0x180 + 16 * e.1, e.2.toBytes f.seat)) gongs ++
    List.map (fun e : Nat × Bin => (0x280 + 16 * e.1,
      leBytesOf 8 e.2.key ++ leBytesOf 2 e.2.lanes.length ++ leBytesOf 2 e.2.n ++ leBytesOf 4 (now - e.2.since))) x.bins ++
    List.map (fun e : Nat × Fifo => (0x400 + 16 * e.1, e.2.toBytes f.seat)) fifos ++
    shifted 0x1000 (progPieces x.front ++ frontPieces x) ++
    shifted 0x1800 (progPieces x.mseq) ++ shifted 0x1C00 (progPieces x.cseq) ++
    (gs.flatMap fun e => List.map (fun r : Nat × Word => (0x2000 + 512 * e.1 + 4 * r.1, leBytesOf 4 r.2.toNat)) e.2.sreg) ++
    (gs.flatMap fun e => shifted (0x10000 + 1024 * e.1) (groupPieces e.2 now)) ++
    (banks.flatMap fun b =>
      List.map (fun e : Nat × Byte => (0x20000 + 32768 * b.1 + (e.1 - 32768 * b.2), [e.2]))
          (SMap.range k.sram (32768 * b.2) (32768 * (b.2 + 1))) ++
        List.map (fun e : Nat × BitVec 16 => (0x1A0000 + 1024 * b.1 + 2 * (e.1 - 512 * b.2), leBytesOf 2 e.2.toNat))
          (SMap.range k.stags (512 * b.2) (512 * (b.2 + 1)))) ++
    (((List.range entries.length).zip entries).map fun e => (0x200000 + 256 * e.1, fifoEntryBytes e.2)) ++
    (gs.flatMap fun e => (List.range 32).flatMap fun i =>
      List.map (fun r : Nat × Word => (0x800000 + 65536 * e.1 + 128 * r.1 + 4 * i, leBytesOf 4 r.2.toNat)) (e.2.lane i).v)

/-- A saved team's slot written in memory: every area that the team does not use is zero (R439). A slot outside the
partition's own HBM is not written, since R15 lets no value leave the partition (log 46). -/
def State.storeImage (s : State) (k : Nat) : State :=
  match SMap.get? s.saved k with
  | none => s
  | some v =>
    match s.life? v.team.life with
    | none => s
    | some f =>
      let base := s.slotAddr f.part f.ctx v.slot
      let l := imagePieces s v.tst v.team f v.fifos v.gongs f.core v.savedAt
      if !(s.own f.part base (2 ^ 24)) then s
      else
      let s := s.overwriteRange base (2 ^ 24)
      let s := { s with mem := SMap.drop s.mem fun a => base ≤ a && a < base + 2 ^ 24 && !(s.isPoison (a / 64)) }
      let s := l.foldl (fun s e => s.devPut f.part (base + e.1) e.2) s
      (List.range 256).foldl (fun s i => s.markDirty f.part (base + 65536 * i)) s

end Sys2Proof.Machine
end

