-- ==== Sys2Proof/Machine/Context.lean ====
section
/-!
DEFINITION. What happens to whole launches and contexts: launch status (R103, R362, R485), the end of
every team of a context, rollback (R469), and the errors that strike a context or retire a frame (R473
to R479).
-/

namespace Sys2Proof.Machine

open Config

/-! ## Launch status -/

/-- Physical address of a launch's status record (R103). -/
def Launch.statusAddr (l : Launch) : Nat :=
  leafFrame l.statusPin.leaf / l.statusPin.size * l.statusPin.size + (l.status - l.statusPin.va)

/-- A field of a launch's status record written at home with the launch's clock, which rises (R485). -/
def writeStatus (n off : Nat) (bs : List Byte) : M Unit := do
  let l ← look fun s => s.launch? n
  match l with
  | none => pure ()
  | some l => do
    setLeafBitAt l.part l.clk l.statusPin.entry 7
    let ts ← placeWrite l.part l.clk (32 * l.part) (some l.ctx) (l.statusAddr + off) bs
    upd fun s => s.updLaunch n fun l => { l with clk := ts }

/-- What a launch holds beside its status record given up: its stable lines, pins and slot (R108,
R113). -/
def State.dropLaunch (s : State) (n : Nat) : State :=
  { s with launches := SMap.del s.launches n,
           cores := SMap.map s.cores fun _ k =>
             { k with l1 := k.l1.filter fun e => decide (e.2.stable ≠ some n) } }

/-- The final STATE of a launch, with DETAIL where it is given, and the vector of a host submission
(R362, R466); the launch is over. -/
def endLaunch (n st : Nat) (detail : Option Nat) : M Unit := do
  let l ← look fun s => s.launch? n
  match l with
  | none => pure ()
  | some l => do
    match detail with
    | none => pure ()
    | some d => writeStatus n 8 (leBytesOf 8 d)
    writeStatus n 0 (leBytesOf 4 st)
    upd fun s =>
      let s := s.dropLaunch n
      if l.host then s.vector l.part (1024 + l.ctx) else s

/-! ## The end of every team of a context -/

/-- Lives of a context. -/
def State.ctxLives (s : State) (part ctx : Nat) : List Nat :=
  (s.lives.filter fun e => e.2.part = part && e.2.ctx = ctx).map (·.1)

/-- A saved team forgotten with its cluster; its launch notes an address. -/
def State.killSaved (s : State) (k addr : Nat) : State :=
  match SMap.get? s.saved k with
  | none => s
  | some v =>
    match s.life? v.team.life with
    | none => { s with saved := SMap.del s.saved k }
    | some f =>
      (s.dropCluster f.launch f.cluster).updLaunch f.launch fun n => { n with killed := some (n.killed.getD addr) }

/-- Every team of a context ended as by `kill` (R429), resident or saved, its handler with it. -/
def State.killTeams (s : State) (part ctx addr : Nat) : State :=
  let ls := s.ctxLives part ctx
  let here := (s.teams.filter fun e => ls.contains e.2.life).map (·.1)
  let slots := (s.saved.filter fun e => ls.contains e.2.team.life).map (·.1)
  let s := { s with cores := SMap.map s.cores fun _ k =>
    { k with handler := k.handler.bind fun h => if here.contains h.team then none else some h } }
  slots.foldl (fun s k => s.killSaved k addr) (here.foldl (fun s t => s.kill t addr) s)

/-- Every team of a context ended as by `kill`, resident or saved; its commands are
dropped with the operations that wait for them; every other operation completes (R437). Its records leave the queues
where `queued` says so. -/
def State.endContext (s : State) (part ctx addr : Nat) (queued : Bool) : State :=
  let gone : List Wait := ((s.part? part).map fun p =>
    (p.cmds.filter fun c => c.ctx = ctx).map fun c => Wait.cmd c.id).getD []
  let s := { s with ops := s.ops.filter fun e => !(e.2.waits.any fun x => gone.contains x) }
  let s := s.updPart part fun p => { p with cmds := p.cmds.filter fun c => c.ctx ≠ ctx }
  let s := s.dropQueued part fun e => e.ctx = ctx && (queued || !e.resume.isEmpty)
  (s.killTeams part ctx addr).dropEnded

/-- FREE VALUE: the address that a launch notes of a team that no instruction's fault ends (R362). -/
def drawAddr : M Nat := do
  let b ← drawBytes 8
  pure (leOf b)

/-- Launches of a context that a rollback ends: those that hold their lease, and the pending ones that their tasks
issued, which belong to them (R108, R469). -/
def State.rolledBack (s : State) (part ctx : Nat) : List (Nat × Option Nat) :=
  let granted (n : Nat) : Bool := s.launches.any fun e => e.1 = n && e.2.st = .granted
  (s.launches.filter fun e => e.2.part = part && e.2.ctx = ctx &&
    (e.2.st = .granted || (e.2.st = .pending && (e.2.parent.map granted).getD false))).map fun e => (e.1, e.2.killed)

/-- ROLLBACK of a context in checkpoint mode (R469 step 5). -/
def rollbackContext (part ctx : Nat) : M Unit := do
  let a ← drawAddr
  upd fun s => s.endContext part ctx a true
  let shadows ← look fun s => s.dirtyShadows part ctx
  each shadows fun e => do
    let known ← look fun s => s.knownLines e.2
    each known fun l => mergeLine part l
  undoShadows part (shadows.map (·.1))
  upd fun s =>
    let s := shadows.foldl (fun s e => s.dropFrame part e.2) s
    { s with cores := SMap.map s.cores fun _ k => { k with tlb := k.tlb.filter fun e => !(e.ctx = ctx && leafSH e.leaf) } }
  let held ← look fun s => s.rolledBack part ctx
  each held fun e => endLaunch e.1 3 e.2

/-! ## Dirty lines lost (R476) -/

/-- STEPS 2 TO 5 OF R476 for a line lost in a way of a slice, `unit` as R479 gives them: the context of its tag, where it
has one, is rolled back or ended. -/
def strikeContext (part line ctx unit : Nat) : M Unit := do
  let ck ← look fun s => ((s.part? part).map fun p => s.ctxCkpt p ctx).getD false
  if ctx = noCtx then pure ()
  else if ck then do
    rollbackContext part ctx
    upd fun s => s.errRec (some part) 5 1 (64 * line) unit (some ctx)
  else do
    upd fun s => s.endContext part ctx (64 * line) true
    let ls ← look fun s => (s.launches.filter fun e => e.2.part = part && e.2.ctx = ctx).map (·.1)
    each ls fun l => endLaunch l 3 (some (64 * line))
    upd fun s => s.errRec (some part) 4 1 (64 * line) unit (some ctx)
  upd fun s =>
    let s := s.retire (some part) (line / 1024 * 65536)
    if (s.slice (unit / 16)).quarantined.length < 4 then
      (s.updSlice (unit / 16) fun x => { x with quarantined := insertNat x.quarantined (unit % 16) }).errRec (some part) 6 1
        (64 * line) unit none
    else s.errRec (some part) 7 1 (64 * line) unit none

/-- The contexts of the lines lost in this step struck (R476). -/
def strikeAll : M Unit := do
  let l ← look fun s => s.strikes
  upd fun s => { s with strikes := [] }
  each l fun e => strikeContext e.1 e.2.1 e.2.2.1 e.2.2.2

end Sys2Proof.Machine
end

