-- ==== Sys2Proof/Machine/Operands.lean ====
section
/-!
DEFINITION. Operands: immediates (R21), registers (R19 to R22, R238 to R244), queue registers as pops
and pushes (R226 to R234), the decision queue (R348), and the writing of destinations (R24, R242, R245).
-/

namespace Sys2Proof.Machine

open Config

/-! ## Immediates (R21) -/

/-- The raw value of an immediate: IMM, or a short one sign-extended; 0 for any other operand. -/
def rawImm (imm : BitVec 32) : Opnd → BitVec 32
  | .immL => imm
  | .immS x => x.signExtend 32
  | _ => 0

/-- An immediate under the instruction's TYPE (R21). DESIGN CHOICE: a short one of bf16 stands in element 0, and element 1
that `fdot2.bf16` reads is +0 (log 56). -/
def typedImm (t : Ty) (imm : BitVec 32) (o : Opnd) : DWord :=
  let r := rawImm imm o
  match t with
  | .i64 => r.signExtend 64
  | .n64 => r.setWidth 64
  | .i32 | .n32 => r.setWidth 64
  | .i16 | .n16 => (r.setWidth 16).setWidth 64
  | .i8 | .n8 | .b8 => (r.setWidth 8).setWidth 64
  | .blk => r.setWidth 64
  | .f16 | .bf16 | .f32 | .f64 | .h2 =>
    match o with
    | .immS x => w64 (shortFloat t x.toInt)
    | _ =>
      match t with
      | .f64 => w64 (f32ToF64 r.toNat)
      | .f16 | .bf16 => (r.setWidth 16).setWidth 64
      | _ => r.setWidth 64

/-- How a form reads one operand: at a width, and its immediate under a TYPE or raw. -/
structure SrcSpec where
  opnd : Opnd
  wide : Bool
  ty : Option Ty
  deriving DecidableEq, Repr

/-- A source under the instruction's TYPE. -/
def srcTyped (t : Ty) (o : Opnd) : SrcSpec := ⟨o, t.wide, some t⟩

/-- A 32-bit source whose immediate is the raw value. -/
def srcRaw (o : Opnd) : SrcSpec := ⟨o, false, none⟩

/-- A 64-bit register source: an address or a pair. -/
def srcPair (o : Opnd) : SrcSpec := ⟨o, true, none⟩

/-! ## Special registers (R20, R243) -/

/-- A special register that the state gives an issuer; absent where the manual gives it no value: the
lane and group of a program, and the numbers of a task at handler level. -/
def State.special (s : State) (w : Who) (lane : Nat) (r : Sreg) : Option Word :=
  let task : Bool := w.level = .lane
  match r with
  | .laneid => if w.front then none else some (w32 lane)
  | .groupid => if w.front || !task then none else some (w32 w.g)
  | .teamid => if task then (s.life? w.life).map fun f => w32 f.team else none
  | .clusterid => if task then (s.life? w.life).map fun f => w32 f.cluster else none
  | .coreid => some (w32 w.core)
  | .ctx => some (w32 w.ctx)
  | .part => some (w32 w.part)
  | .pix => some (w32 w.pix)
  | .cyc => some (w32 s.cyc)
  | .cychi => some (w32 (s.cyc / 2 ^ 32))
  | .dq => some 0
  | .dom i => if task then (s.team? w.team).map fun x => x.task.dom.getD i.val 0 else none

/-! ## Reading registers -/

/-- A register operand that pops nothing, as it stands: 64 bits for a pair or a k register. -/
def State.regVal (s : State) (w : Who) (wide : Bool) (lane : Nat) (o : Opnd) : DWord :=
  match o with
  | .v n =>
    let l := (s.groupOf w).lane lane
    if wide then l.reg (n.toNat + 1) ++ l.reg n.toNat else (l.reg n.toNat).setWidth 64
  | .s n =>
    let g := s.groupOf w
    if wide then g.scalar (n.toNat + 1) ++ g.scalar n.toNat else (g.scalar n.toNat).setWidth 64
  | .p n => if ((s.groupOf w).lane lane).pred n.toNat then 1 else 0
  | .k n =>
    let x := (s.progOf w).kreg n.toNat
    if wide then x else (x.setWidth 32).setWidth 64
  | .spec .cyc => if wide then w64 s.cyc else (w32 s.cyc).setWidth 64
  | .spec r => ((s.special w lane r).getD 0).setWidth 64
  | _ => 0

/-! ## Queue registers (R226 to R234) -/

/-- CHANNEL at a queue register. -/
def channelTrap (w : Who) (n cause : Nat) : Trap :=
  { kind := kCHANNEL, cause := cause, unit := n, mask := laneMask w.act }

/-- An entry of the issuer's capability table. -/
def State.capOf (s : State) (w : Who) (n : Nat) : Option Cap :=
  if w.level = .lane then (s.life? w.life).bind fun f => (SMap.get? f.cap n).filter (·.v) else none

/-- The FIFO that an entry names: its owner's life, the owner's core, the FIFO. -/
def State.fifoOf (s : State) (w : Who) (c : Cap) : Option (Nat × Nat × Fifo) :=
  match s.namedLife w.life c.core with
  | none => none
  | some l =>
    match s.life? l with
    | none => none
    | some f =>
      match SMap.get? (s.core f.core).fifos c.fifo with
      | none => none
      | some q => if q.owner = l then some (l, f.core, q) else none

/-- The checks of a pop (R231). DESIGN CHOICE: an entry that passes them and whose FIFO `qcfg` has destroyed is no
valid entry, with cause 1 (log 56). -/
def popCheck (s : State) (w : Who) (n : Nat) : Option Trap :=
  match s.capOf w n with
  | none => some (channelTrap w n 1)
  | some c =>
    if !c.r then some (channelTrap w n 2)
    else if (s.fifoOf w c).isNone then some (channelTrap w n 1)
    else none

/-- The checks of a push (R232). DESIGN CHOICE: as for a pop, a FIFO that `qcfg` has destroyed gives cause 1
(log 56). -/
def pushCheck (s : State) (w : Who) (n : Nat) : Option Trap :=
  match s.capOf w n with
  | none => some (channelTrap w n 1)
  | some c =>
    if !c.w then some (channelTrap w n 2)
    else if c.allow ≤ c.out then some (channelTrap w n 3)
    else if (s.fifoOf w c).isNone then some (channelTrap w n 1)
    else none

/-- A popped lane value and whether the lane got one. -/
abbrev Got := (Nat → DWord) × (Nat → Bool)

/-- The oldest entry of a FIFO taken: OUT of its sender lowered, the clock raised (R231). -/
def takeEntry (w : Who) (core num : Nat) (q : Fifo) (e : FEntry) : M Unit := do
  let tent ← look fun s => decide (s.modeOf w = .tentative)
  upd fun s =>
    let s := s.updCore core fun k =>
      { k with fifos := SMap.put k.fifos num
                 { q with head := (q.head + 1) % maxN q.depth 1, slots := q.slots.drop 1 } }
    let s := s.updLife e.life fun f =>
      { f with cap := SMap.modify f.cap e.cap fun c => { c with out := c.out - 1 } }
    if tent then s.updTeam w.team fun x =>
      { x with popped := SMap.put x.popped num (SMap.getD 0 x.popped num + 1) }
    else s
  raisePts w.core e.clk

/-- A POP of queue register n, once for the gang (R231); the check has passed. -/
def popQueue (w : Who) (n : Nat) : M Got := do
  leaveDirect w
  let c ← look fun s => s.capOf w n
  match c with
  | none => pure (fun _ => 0, fun _ => false)
  | some c => do
    let f ← look fun s => s.fifoOf w c
    match f with
    | none => pure (fun _ => 0, fun _ => false)
    | some (_, core, q) =>
      match q.slots with
      | [] => pure (fun _ => 0, fun _ => false)
      | e :: _ => do
        takeEntry w core c.fifo q e
        pure (fun i => (e.words.getD i 0).setWidth 64, fun i => e.mask.getLsbD i)

/-- An entry delivered into a FIFO (R233). -/
def State.deliver (s : State) (core num : Nat) (e : FEntry) : State :=
  s.updCore core fun k =>
    { k with fifos := SMap.modify k.fifos num fun q => { q with slots := q.slots ++ [e] } }

/-- Slots of a FIFO of a core that tentative pops of its owner's task have freed; they are not filled again before
its commit (R234). -/
def State.tentFreed (s : State) (owner num : Nat) : Nat :=
  match s.teams.find? fun e => e.2.life = owner && e.2.mode = .tentative with
  | none => 0
  | some e => SMap.getD 0 e.2.popped num

/-- Whether a FIFO of a core can take an entry now (R234). -/
def State.fifoRoom (s : State) (core num : Nat) : Bool :=
  match SMap.get? (s.core core).fifos num with
  | none => false
  | some q => decide (q.slots.length + s.tentFreed q.owner num < q.depth)

/-- The FIFO that an entry of a life names: its owner's life and its number. -/
def State.capDest (s : State) (life n : Nat) : Option (Nat × Nat) :=
  ((s.life? life).bind fun f => SMap.get? f.cap n).bind fun c => (s.namedLife life c.core).map fun l => (l, c.fifo)

/-- Entries on their way to a FIFO: in flight, or the result of a long-latency push that is not complete (R233). -/
def State.coming (s : State) (owner core num : Nat) : Nat :=
  (((s.core core).inflight.filter fun x => x.life = owner && x.fifo = num).length) +
    (s.ops.filter fun e => e.2.dests.any fun d =>
      match d with
      | .q _ n => s.capDest e.2.owner.life n = some (owner, num)
      | _ => false).length

/-- Whether a push to a FIFO of its own team needs a slot that a tentative pop has freed (R234). -/
def State.needsFreed (s : State) (owner core num : Nat) : Bool :=
  match SMap.get? (s.core core).fifos num with
  | none => false
  | some q => decide (q.depth ≤ q.slots.length + s.tentFreed owner num + s.coming owner core num)

/-- An entry on its way into the FIFO that a life's entry names (R232, R233): delivered at once on the sender's own
core where the FIFO can take it, in flight otherwise; into the save image of an owner that is not resident. DESIGN
CHOICE: an entry of another team that finds only slots freed by a tentative pop stays in flight until the owner's
commit or abort (log 56). -/
def State.pushEntry (s : State) (from' : Nat) (e : FEntry) : State :=
  let dest := s.capDest e.life e.cap
  match dest.bind fun t => (s.life? t.1).map fun f => (t.1, t.2, f.core) with
  | none => s
  | some (l, num, core) =>
    match (SMap.get? (s.core core).fifos num).filter fun q => q.owner = l with
    | some _ =>
      if core = from' && s.fifoRoom core num then s.deliver core num e
      else s.updCore core fun k => { k with inflight := k.inflight ++ [⟨l, num, e⟩] }
    | none =>
      { s with saved := SMap.map s.saved fun _ v =>
          if v.team.life = l then
            { v with fifos := SMap.modify v.fifos num fun q => { q with slots := q.slots ++ [e] } }
          else v }

/-- What an instruction with a push does before it (R232, R234, R363): the commit that a FIFO of another team asks
for, or the abort of a tentative task that needs a slot that it has freed; OUT rises. -/
def reservePush (w : Who) (n : Nat) : M Unit := do
  let c ← look fun s => s.capOf w n
  let f ← look fun s => c.bind fun c => s.fifoOf w c
  match c, f with
  | some c, some (owner, core, _) => do
    if owner = w.life then do
      leaveDirect w
      let tent ← look fun s => decide (s.modeOf w = .tentative) && s.needsFreed owner core c.fifo
      if tent then stop .abort else pure ()
    else commitTask w
    upd fun s => s.updLife w.life fun f =>
      { f with cap := SMap.modify f.cap n fun c => { c with out := c.out + 1 } }
  | _, _ => pure ()

/-- A PUSH through queue register n, once for the gang (R232); the check has passed. -/
def pushQueue (w : Who) (n : Nat) (vals : Nat → DWord) : M Unit := do
  reservePush w n
  let pts ← ptsOf w.core
  let words := (List.range 32).map fun i => if w.act.contains i then (vals i).setWidth 32 else 0
  upd fun s => s.pushEntry w.core ⟨words, laneMask w.act, pts, w.life, n, w.core⟩

/-- The push of a long-latency form whose destination is a queue register (R230, R232): its slot is taken at the
issue, and its entry is delivered with the result. -/
def reserveDst (w : Who) (o : Opnd) : M Unit :=
  match o with
  | .q n => reservePush w n.toNat
  | _ => pure ()

/-- Entries of a decision queue that every group which has not ended has popped leave it; a group that has
arrived at a `phase` has not ended (R348). -/
def Team.trimDq (x : Team) : Team :=
  let least := (x.groups.filter fun e => e.2.live || e.2.hasArrived).foldl (fun m e => minN m e.2.dqPos)
    (x.dqBase + x.dq.length)
  { x with dq := x.dq.drop (least - x.dqBase), dqBase := maxN x.dqBase least }

/-- A POP of the decision queue, once for the gang (R348). The handler slot has no decision queue: DESIGN
CHOICE, what it reads and what p14 becomes are FREE VALUES (log 15). -/
def popDecision (w : Who) : M Got := do
  let x ← look fun s => s.teamOf w
  match x with
  | none => do
    let n ← draw
    let b ← drawBool
    pure (fun _ => (w32 n).setWidth 64, fun _ => b)
  | some x => do
    let pos ← look fun s => (s.groupOf w).dqPos
    match x.dq[pos - x.dqBase]? with
    | none =>
      if x.front.run || x.front.rdv.isSome then stop .hold
      else pure (fun _ => 0, fun _ => false)
    | some (v, clk) => do
      upd fun s =>
        let s := s.updGroup w.agent fun g => { g with dqPos := g.dqPos + 1 }
        s.updTeam w.team Team.trimDq
      raisePts w.core clk
      pure (fun _ => v.setWidth 64, fun _ => true)

/-! ## Reading sources -/

/-- One source of an instruction read for every lane, with what its pop got (R26). -/
def readSrc (w : Who) (imm : BitVec 32) (sp : SrcSpec) : M ((Nat → DWord) × Option (Nat → Bool)) :=
  match sp.opnd with
  | .q n => do
    let (v, g) ← popQueue w n.toNat
    pure (v, some g)
  | .spec .dq =>
    if w.front then do
      let n ← draw
      pure (fun _ => (w32 (freeNat n)).setWidth 64, none)
    else do
      let (v, g) ← popDecision w
      pure (v, some g)
  | .immL | .immS _ =>
    let x : DWord := match sp.ty with
      | some t => typedImm t imm sp.opnd
      | none => (rawImm imm sp.opnd).setWidth 64
    pure (fun _ => x, none)
  | .spec r => do
    let known ← look fun s => (s.special w 0 r).isSome
    if known then do
      let f ← look fun s => fun lane => s.regVal w sp.wide lane sp.opnd
      pure (f, none)
    else do
      let n ← draw
      pure (fun lane => (w32 (freeNat (n + lane))).setWidth 64, none)
  | o => do
    let f ← look fun s => fun lane => s.regVal w sp.wide lane o
    pure (f, none)

/-- The lanes that take part, a program counting as its lane 0. -/
def Who.actors (w : Who) : List Nat := if w.front then [0] else w.act

/-- The lowest lane that takes part. -/
def Who.low (w : Who) : Nat := w.actors.head?.getD 0

/-- p14 of the lanes that take part, after the pops of an instruction (R231, R348). -/
def setP14 (w : Who) (got : List (Nat → Bool)) : M Unit :=
  if got.isEmpty then pure ()
  else upd fun s => s.updGroup w.agent fun g =>
    g.updLanes w.act fun i l => l.setPred 14 (got.all fun f => f i)

/-- What the pop of a source, made before the other pops of an instruction, got for each lane: all, where the source
pops nothing (R231). -/
def alsoPopped (s : State) (w : Who) (o : Opnd) : Nat → Bool :=
  match o with
  | .q _ | .spec .dq => fun i => ((s.groupOf w).lane i).pred 14
  | _ => fun _ => true

/-- The sources of an instruction read in the order given, pops included (R26, R245). -/
def readSrcs (w : Who) (imm : BitVec 32) (l : List SrcSpec) : M (List (Nat → DWord)) := do
  let r ← collectM l fun sp => readSrc w imm sp
  setP14 w (r.filterMap (·.2))
  pure (r.map (·.1))

/-- One source read. -/
def read1 (w : Who) (imm : BitVec 32) (a : SrcSpec) : M (Nat → DWord) := do
  let l ← readSrcs w imm [a]
  pure (l.getD 0 fun _ => 0)

/-- Two sources read. -/
def read2 (w : Who) (imm : BitVec 32) (a b : SrcSpec) : M ((Nat → DWord) × (Nat → DWord)) := do
  let l ← readSrcs w imm [a, b]
  pure (l.getD 0 fun _ => 0, l.getD 1 fun _ => 0)

/-- Three sources read. -/
def read3 (w : Who) (imm : BitVec 32) (a b c : SrcSpec) :
    M ((Nat → DWord) × (Nat → DWord) × (Nat → DWord)) := do
  let l ← readSrcs w imm [a, b, c]
  pure (l.getD 0 fun _ => 0, l.getD 1 fun _ => 0, l.getD 2 fun _ => 0)

/-- The effective address of `[a+b]` for each lane (R140): `b` is a word sign-extended, or the whole of a
k register. -/
def readEa (w : Who) (f : Fields) : M (Nat → Nat) := do
  let front : Bool := match f.sb with | .k _ => true | _ => false
  let (a, b) ← read2 w f.imm (srcPair f.sa) ⟨f.sb, front, none⟩
  pure fun i =>
    let off : DWord := if front then b i else ((b i).setWidth 32).signExtend 64
    (a i + off).toNat

/-- The effective address of `[a]` for each lane. -/
def readEaA (w : Who) (f : Fields) : M (Nat → Nat) := do
  let a ← read1 w f.imm (srcPair f.sa)
  pure fun i => (a i).toNat

/-! ## Writing destinations -/

/-- A value written to one register or predicate of an issuer. -/
def State.putReg (s : State) (w : Who) (r : RegRef) (wide : Bool) (x : DWord) : State :=
  let lo : Word := x.setWidth 32
  let hi : Word := x.extractLsb' 32 32
  match r with
  | .v i n => s.updGroup w.agent fun g => g.updLane i fun l =>
      let l := l.setReg n lo
      if wide then l.setReg (n + 1) hi else l
  | .s n => s.updGroup w.agent fun g =>
      let g := g.setScalar n lo
      if wide then g.setScalar (n + 1) hi else g
  | .p i n => s.updGroup w.agent fun g => g.updLane i fun l => l.setPred n (decide (lo ≠ 0))
  | .k n => s.updProg w.agent fun p => p.setK n x
  | .q _ _ => s

/-- A destination that a result of a width reaches: which register of each lane, a scalar once with the
lowest lane's result (R24), a k register extended to 64 bits (R242), the word of a lane in the entry of a
queue register. -/
def dstRefs (w : Who) (o : Opnd) : List (Nat × RegRef) :=
  match o with
  | .v n => w.act.map fun i => (i, .v i n.toNat)
  | .s n => if w.actors.isEmpty then [] else [(w.low, .s n.toNat)]
  | .p n => w.act.map fun i => (i, .p i n.toNat)
  | .k n => [(0, .k n.toNat)]
  | .q n => w.act.map fun i => (i, .q i n.toNat)
  | _ => []

/-- A 32-bit result as a k register takes it (R242). -/
def kExtend (signed : Bool) (x : DWord) : DWord :=
  if signed then ((x.setWidth 32).signExtend 64) else ((x.setWidth 32).setWidth 64)

/-- A result written to its destination for the lanes that take part (R19, R24, R242, R245); a queue
register is pushed once (R26). -/
def writeDst (w : Who) (o : Opnd) (wide signed : Bool) (vals : Nat → DWord) : M Unit :=
  match o with
  | .q n => pushQueue w n.toNat vals
  | o => upd fun s => (dstRefs w o).foldl (fun s r =>
      let x := vals r.1
      let x := match r.2 with | .k _ => if wide then x else kExtend signed x | _ => x
      s.putReg w r.2 wide x) s

/-- A result under the instruction's TYPE. -/
def writeTyped (w : Who) (t : Ty) (o : Opnd) (vals : Nat → DWord) : M Unit :=
  writeDst w o t.wide t.signed vals

/-- A 32-bit result. -/
def writeWord (w : Who) (o : Opnd) (vals : Nat → Word) : M Unit :=
  writeDst w o false false fun i => (vals i).setWidth 64

/-! ## Which registers an instruction names -/

/-- Registers that an operand of a form spans (R22, R276, R315). -/
def spanOf (mod : BitVec 3) (sp : OpSpec) : Nat :=
  if sp.al = 16 then (if mod.getLsbD 0 then 64 else 16) else if sp.al = 4 then 4 else if sp.wide || sp.al = 2 then 2 else 1

/-- The used operand fields of an instruction with their specifications. -/
def operands (fm : Form) (f : Fields) : List (OpSpec × Opnd) :=
  ([(fm.dst, f.dst), (fm.sa, f.sa), (fm.sb, f.sb)] ++
    (match fm.third.cls, f.third with
     | [], _ => []
     | _, some o => [(fm.third, o)]
     | _, none => [])).filter fun e => !e.1.cls.isEmpty

/-- Lane registers of one operand, first and number. -/
def laneSpan (mod : BitVec 3) (e : OpSpec × Opnd) : Option (Nat × Nat) :=
  match e.2 with
  | .v n => some (n.toNat, spanOf mod e.1)
  | _ => none

/-- Registers that an operand reads or writes in a gang. -/
def operandRefs (w : Who) (mod : BitVec 3) (e : OpSpec × Opnd) : List RegRef :=
  let k := spanOf mod e.1
  match e.2 with
  | .v n => (if e.1.al = 16 then List.range 32 else w.act).flatMap fun i => (List.range k).map fun j => .v i (n.toNat + j)
  | .s n => (List.range k).map fun j => .s (n.toNat + j)
  | .p n => w.act.map fun i => .p i n.toNat
  | .k n => [.k n.toNat]
  | _ => []

/-- The CHANNEL checks of an instruction's queue operands, made before any effect (R232). -/
def channelChecks (s : State) (w : Who) (fm : Form) (f : Fields) : Option Trap :=
  let src (sp : OpSpec) (o : Opnd) : Option Trap :=
    match o with | .q n => if sp.cls.isEmpty then none else popCheck s w n.toNat | _ => none
  let third := match f.third with | some o => src fm.third o | none => none
  let dst := match f.dst with
    | .q n => if fm.dst.cls.isEmpty then none
      else if fm.dstRead then popCheck s w n.toNat else pushCheck s w n.toNat
    | _ => none
  src fm.sa f.sa <|> src fm.sb f.sb <|> third <|> dst

end Sys2Proof.Machine
end

