-- ==== Sys2Proof/Machine/Flags.lean ====
section
/-!
DEFINITION. Completion flags and long-latency operations (R35 to R39, R41), pending registers (R39),
and where a completion lands (R417, R437).
-/

namespace Sys2Proof.Machine

/-- The flag that an L instruction binds (R36): the first of its clause SETA, a later one SETB, or SETA
where SETB is not valid. -/
def Latch.flag (l : Latch) : Option Nat :=
  match l.hdr.seta with
  | none => none
  | some a =>
    if l.lcnt = 0 then some a.toNat
    else match l.hdr.setb with
      | none => some a.toNat
      | some b => some b.toNat

/-- Count of a group's flag. -/
def Group.flag (g : Group) (n : Nat) : Nat := SMap.getD 0 g.flags n

/-- A group with a flag's count changed. -/
def Group.setFlag (g : Group) (n x : Nat) : Group := { g with flags := SMap.putD 0 g.flags n x }

/-- Count of a program's flag. -/
def Prog.flag (p : Prog) (n : Nat) : Nat := SMap.getD 0 p.flags n

/-- A program with a flag's count changed. -/
def Prog.setFlag (p : Prog) (n x : Nat) : Prog := { p with flags := SMap.putD 0 p.flags n x }

/-- Count of a flag of the issuer. -/
def State.flag (s : State) (w : Who) (n : Nat) : Nat :=
  if w.front then (s.progOf w).flag n else (s.groupOf w).flag n

/-- Whether every flag of a WAIT field is free (R38). -/
def waitFree (flag : Nat → Nat) (wait : BitVec 12) : Bool :=
  (List.range 12).all fun n => !wait.getLsbD n || decide (flag n = 0)

/-- The owner of an operation that an issuer starts (R437). -/
def Who.owner (w : Who) : Owner := ⟨w.life, w.gen, w.core, w.src, agentQuad w.agent⟩

/-! ## Where an owner is (R437) -/

/-- Where the issuer of an operation is now. -/
inductive OwnerAt where
  | team (t : Nat)
  | saved (k : Nat)
  | handler
  | below
  | gone
  deriving DecidableEq, Repr

/-- The place of an operation's issuer: resident with its generation, saved with it, or gone. -/
def State.ownerAt (s : State) (o : Owner) : OwnerAt :=
  if o.life = 0 then
    match (s.core o.core).handler with
    | none => .gone
    | some h =>
      if h.gen = o.gen then .handler
      else if h.below.isSome && o.gen + 1 = h.gen then .below
      else .gone
  else
    match s.teams.find? fun e => e.2.life = o.life && e.2.gen = o.gen with
    | some e => .team e.1
    | none =>
      match s.saved.find? fun e => e.2.team.life = o.life && e.2.team.gen = o.gen with
      | some e => .saved e.1
      | none => .gone

/-- A team with the group or program of SRC changed. -/
def Team.updSrc (x : Team) (src : Nat) (fg : Group → Group) (fp : Prog → Prog) : Team :=
  if src < 64 then { x with groups := SMap.modify x.groups src fg }
  else if src = 64 then { x with front := fp x.front }
  else if src = 65 then { x with mseq := fp x.mseq }
  else { x with cseq := fp x.cseq }

/-- The module with the group or program that owns an operation changed, wherever it is; unchanged
where it is gone. -/
def State.updOwner (s : State) (o : Owner) (fg : Group → Group) (fp : Prog → Prog) : State :=
  match s.ownerAt o with
  | .team t => s.updTeam t fun x => x.updSrc o.src fg fp
  | .saved k => { s with saved := SMap.modify s.saved k fun v => { v with team := v.team.updSrc o.src fg fp } }
  | .handler => s.updCore o.core fun k =>
      { k with handler := k.handler.map fun h => { h with group := fg h.group } }
  | .below => s.updCore o.core fun k =>
      { k with handler := k.handler.map fun h =>
          { h with below := h.below.map fun b => (fg b.1, b.2) } }
  | .gone => s

/-! ## Pending registers -/

/-- Whether an operation belongs to the issuer's group or program. -/
def Owner.of (o : Owner) (w : Who) : Bool :=
  o.life = w.life && o.gen = w.gen && o.src = w.src && (w.life ≠ 0 || o.core = w.core)

/-- Registers of the issuer that operations have still to write (R39). -/
def State.pendingRefs (s : State) (w : Who) : List RegRef :=
  (s.ops.filter fun e => e.2.owner.of w).flatMap fun e => e.2.dests

/-- The registers that an instruction reads or writes: those that its operands name, and for `reform` those
that each lane carries, v0 to v(n − 1) and p0 to p14 (R341). DEDUCED: no other form reads a register that
no operand names. -/
def namedRefs (w : Who) (fm : Form) (f : Fields) : List RegRef :=
  ((operands fm f).flatMap fun e => operandRefs w f.mod e) ++
    (if fm.op = 0x00 && fm.fn = 0x08 then
      w.act.flatMap fun i => ((List.range f.imm.toNat).map fun n => .v i n) ++ ((List.range 15).map fun n => .p i n)
     else [])

/-- Whether an issuer is held before an instruction: a register that it names is pending, or the flag
that it binds stands at 63 (R37, R39). -/
def State.held (s : State) (w : Who) (fm : Form) (f : Fields) : Bool :=
  let pend := s.pendingRefs w
  (!pend.isEmpty && (namedRefs w fm f).any fun r => pend.contains r) ||
    (fm.long && w.takesPart &&
      match w.latch.flag with | none => false | some n => decide (63 ≤ s.flag w n))

/-! ## Operations -/

/-- A fault recorded after issue (R417, R419). -/
def lateRec (w : Who) (t : Trap) : FaultRec :=
  { kind := t.kind, cause := t.cause, precise := false, src := w.src, unit := t.unit, mask := t.mask,
    iaddr := w.iaddr, addr := t.addr, info := t.info, newp := 0, lanes := 0, next := w.iaddr,
    nbase := w.latch.start, atStart := false }

/-- A LONG-LATENCY OPERATION started: its flag rises (R37) and its registers are pending (R39). -/
def startOp (w : Who) (kind : OpKind) (dests : List RegRef) (vals : List (RegRef × DWord))
    (late : Option Trap) (ts : Nat) (waits : List Wait) : M Nat := fun s =>
  let (id, s) := s.fresh
  let s := match w.latch.flag with
    | none => s
    | some n =>
      if w.front then s.updProg w.agent fun p => p.setFlag n (p.flag n + 1)
      else s.updGroup w.agent fun g => g.setFlag n (g.flag n + 1)
  let op : Op := ⟨w.owner, w.latch.flag, kind, dests, vals, late.map (lateRec w), ts, waits, w.iaddr⟩
  .ok (id, { s with ops := SMap.put s.ops id op })

/-- A value landed in a register of a group. -/
def Group.land (g : Group) (e : RegRef × DWord) : Group :=
  match e.1 with
  | .v i n => g.updLane i fun l => l.setReg n (e.2.setWidth 32)
  | .s n => g.setScalar n (e.2.setWidth 32)
  | .p i n => g.updLane i fun l => l.setPred n (e.2 ≠ 0)
  | .k _ | .q _ _ => g

/-- A value landed in a register of a program. -/
def Prog.land (p : Prog) (e : RegRef × DWord) : Prog :=
  match e.1 with
  | .k n => p.setK n e.2
  | _ => p

/-- A fault recorded after issue taken to its issuer: it waits for the next clause boundary, or, where
the issuer has ended, stops the team at once (R417). -/
def State.takeLate (s : State) (o : Owner) (r : FaultRec) : State :=
  let s := s.updOwner o (fun g => { g with late := g.late ++ [r] }) fun p => { p with late := p.late ++ [r] }
  match s.ownerAt o with
  | .team t =>
    let a := agentOfSrc t o.src
    let full : Bool :=
      if o.src < 64 then ((s.group? a).map fun g => !g.live).getD false
      else ((s.prog? a).map fun p => !p.run).getD false
    if full then
      let s := s.updOwner o (fun g => { g with late := [] }) fun p => { p with late := [] }
      (s.recordFault t a r).noteStop t
    else s
  | _ => s

/-- The clock of an operation handed to the core that its issuer is on, or kept with a saved issuer
(R177). -/
def State.handClock (s : State) (o : Owner) (ts : Nat) : State :=
  let up (c : Nat) (s : State) : State := s.updCore c fun k => { k with pts := maxN k.pts ts }
  match s.ownerAt o with
  | .team t => match s.team? t with | none => s | some x => up x.core s
  | .saved k =>
    { s with saved := SMap.modify s.saved k fun v =>
        { v with team := { v.team with task := { v.team.task with ts := maxN v.team.task.ts ts } } } }
  | .handler | .below => up o.core s
  | .gone => s

/-- The entry of a queue register among the results of an operation (R232): its number, words and mask. -/
def landedPush (vals : List (RegRef × DWord)) : Option (Nat × List Word × BitVec 32) :=
  let l := vals.filterMap fun e => match e.1 with | .q i n => some (n, i, (e.2.setWidth 32 : Word)) | _ => none
  match l with
  | [] => none
  | (n, _, _) :: _ =>
    some (n, (List.range 32).map fun i => ((l.find? fun e => e.2.1 = i).map (·.2.2)).getD 0,
      laneMask (l.map (·.2.1)))

/-- The entry of an operation's queue register delivered with the clock that the operation hands over. -/
def State.landPush (s : State) (op : Op) : State :=
  match landedPush op.vals with
  | none => s
  | some (n, words, mask) =>
    s.pushEntry op.owner.core ⟨words, mask, maxN (s.core op.owner.core).pts op.ts, op.owner.life, n, op.owner.core⟩

/-- A LONG-LATENCY OPERATION completed: its last timestamp raises the core's clock (R177), its values
land, its flag falls, its fault is recorded; where its issuer is gone they are discarded (R37, R39,
R437). -/
def State.finishOp (s : State) (id : Nat) : State :=
  match SMap.get? s.ops id with
  | none => s
  | some op =>
    let s := { s with ops := SMap.del s.ops id }
    let s := s.handClock op.owner op.ts
    let s := s.updOwner op.owner
      (fun g =>
        let g := op.vals.foldl Group.land g
        match op.flag with | none => g | some n => g.setFlag n (g.flag n - 1))
      (fun p =>
        let p := op.vals.foldl Prog.land p
        match op.flag with | none => p | some n => p.setFlag n (p.flag n - 1))
    let s := s.landPush op
    let s := match s.ownerAt op.owner with | .team t => if op.owner.src = 64 then s.frontArrives t else s | _ => s
    let s := match s.ownerAt op.owner with | .saved k => s.storeImage k | _ => s
    match op.late with
    | none => s
    | some r => s.takeLate op.owner r

/-- Operations whose wait is over at a timestamp; each completes with its last one (R41). -/
def State.waitOver (s : State) (x : Wait) (ts : Nat) : State :=
  (s.ops.filter fun e => e.2.waits.contains x).foldl (fun s e =>
    let left := e.2.waits.filter fun y => y ≠ x
    let s := { s with ops := SMap.put s.ops e.1 { e.2 with waits := left, ts := maxN e.2.ts ts } }
    if left.isEmpty then s.finishOp e.1 else s) s

/-- A fault recorded after issue in the operation that started a command: the newest that waits for it
(R37, R313); more lanes that meet the same kind stand in one record (R160). -/
def State.lateOn (s : State) (x : Wait) (t : Trap) : State :=
  match (s.ops.filter fun e => e.2.waits.contains x).getLast? with
  | none => s
  | some (id, op) =>
    match op.late with
    | some r =>
      if r.kind = t.kind then
        { s with ops := SMap.put s.ops id { op with late := some { r with mask := r.mask ||| t.mask } } }
      else s
    | none =>
      let r : FaultRec :=
        { kind := t.kind, cause := t.cause, precise := false, src := op.owner.src, unit := t.unit,
          mask := t.mask, iaddr := op.iaddr, addr := t.addr, info := t.info, newp := 0, lanes := 0,
          next := op.iaddr, nbase := 0, atStart := false }
      { s with ops := SMap.put s.ops id { op with late := some r } }

/-- Registers that a result of a form occupies: a pair where it is 64 bits wide. -/
def destRefs (w : Who) (o : Opnd) (wide : Bool) : List (Nat × RegRef) :=
  (dstRefs w o).flatMap fun e =>
    match e.2 with
    | .v i n => if wide then [(e.1, .v i n), (e.1, .v i (n + 1))] else [e]
    | .s n => if wide then [(e.1, .s n), (e.1, .s (n + 1))] else [e]
    | _ => [e]

/-- The registers that a result lands in with the words it lands; a k register takes it whole, extended
where it is 32 bits (R242). -/
def landings (w : Who) (o : Opnd) (wide signed : Bool) (vals : Nat → DWord) : List (RegRef × DWord) :=
  (dstRefs w o).flatMap fun e =>
    let x := vals e.1
    let lo : DWord := (x.setWidth 32).setWidth 64
    let hi : DWord := (x.extractLsb' 32 32).setWidth 64
    match e.2 with
    | .v i n => if wide then [(.v i n, lo), (.v i (n + 1), hi)] else [(.v i n, lo)]
    | .s n => if wide then [(.s n, lo), (.s (n + 1), hi)] else [(.s n, lo)]
    | .k n => [(.k n, if wide then x else kExtend signed x)]
    | .p i n => [(.p i n, if x.setWidth 32 = 0#32 then 0 else 1)]
    | .q i n => [(.q i n, lo)]

end Sys2Proof.Machine
end

