-- ==== Sys2Proof/Machine/Issue.lean ====
section
/-!
DEFINITION. The issue of one instruction: the checks of R51 that depend on the issuer, the holds, the
guard, and what each way of ending does to the machine.
-/

namespace Sys2Proof.Machine

/-- An operand that the front thread may not name (R50, R230). -/
def laneOnly : Opnd → Bool
  | .v _ | .s _ | .p _ | .q _ => true
  | _ => false

/-- A front-thread register. -/
def frontOnlyReg : Opnd → Bool
  | .k _ => true
  | _ => false

/-- The form list of a sequencer program (R352). -/
def seqrAllows (copy : Bool) (i : Instr) (fm : Form) : Bool :=
  match i with
  | .nop _ | .bra _ | .bru _ | .sleepto _ | .exitLane _ | .mov _ | .movi _ | .lea _ => true
  | _ =>
    fm.op = 0x10 || fm.op = 0x11 || fm.op = 0x12 ||
      (if copy then fm.op = 0xA0 else fm.op = 0xB1 || fm.op = 0xB2)

/-- Whether the window in force does not hold every lane register that an instruction names (R25). -/
def overWindow (i : Instr) (fm : Form) (f : Fields) (w : Nat) : Bool :=
  ((operands fm f).any fun e => match laneSpan f.mod e with | none => false | some (n, k) => decide (w < n + k)) ||
    (match i with | .reform _ => decide (w < f.imm.toNat) | _ => false)

/-- The checks of R51 that depend on the issuer: place in the clause (R34), who may issue the form
(R47, R50, R352, R431), and the window (R25). -/
def illegalUse (s : State) (w : Who) (i : Instr) (fm : Form) (f : Fields) : Bool :=
  let ops := operands fm f
  (staticCheck i).isSome || (fm.ends && w.latch.slot ≠ w.latch.hdr.count.toNat) ||
    (if w.front then
      !(fm.frontOnly || fm.front) || f.neg || f.pred ≠ 15 || ops.any fun e => laneOnly e.2
     else fm.frontOnly || (ops.any fun e => frontOnlyReg e.2) || overWindow i fm f (s.groupOf w).w) ||
    (match fm.level with
     | .lane => false
     | .handler => w.level = .lane
     | .firmware => w.level ≠ .firmware) ||
    (match w.agent with | .seqr _ copy => !seqrAllows copy i fm | _ => false) ||
    (match i with | .trap _ => w.level = .firmware | _ => false)

/-- ILLEGAL at an instruction (R51, R420). -/
def illegal : Trap := { kind := kILLEGAL }

/-- What a computation that ended leaves of the machine. `s` is the state before the instruction, and
nothing that the computation did remains in it but, where the stop says so, the commit of its task. -/
def resolve (s : State) (w : Who) (ends : Bool) (r : Except Stop (Unit × State)) :
    Host.Outcome State Fault Refusal :=
  match r with
  | .ok (_, t) => .next t
  | .error (.trap t) => .next (s.raiseTrap w ends t)
  | .error (.kept t) => .next ((runD (commitTask w) s).raiseTrap w ends t)
  | .error .abort => .next (s.abortSplit w.team (faultRecOf w ends { kind := kGRAIN, cause := 1 }))
  | .error .restart => .next (s.restart w.team)
  | .error .hold => .next s

/-- The issue of an instruction of a given form and fields by an issuer; `go` says that the issuer moves
on with it, and not only when its answer comes (R127). -/
def issueAs (go : Bool) (i : Instr) (fm : Form) (f : Fields) (w : Who) (body : Who → Fields → M Unit) (s : State) :
    Host.Outcome State Fault Refusal :=
  if illegalUse s w i fm f then .next (s.raiseTrap w fm.ends illegal)
  else if !w.takesPart then .next (s.passed w fm.ends fm.long)
  else if s.held w fm f then .next s
  else
    match channelChecks s w fm f with
    | some t => .next (s.raiseTrap w fm.ends t)
    | none => resolve s w fm.ends (body w f (if go then s.passed w fm.ends fm.long else s))

/-- THE ISSUE OF AN INSTRUCTION by the agent that issues now: `body` is its effect on a state in which
the issuer has moved on. -/
def issue (i : Instr) (body : Who → Fields → M Unit) (s : State) : Host.Outcome State Fault Refusal :=
  match s.who? s.cur, form i, fields i with
  | some w, some fm, some f => issueAs true i fm f (s.issuer i w f) body s
  | _, _, _ => .refused .noIssuer

/-- The issue of an instruction whose issuer stays before it until the answer (R127). -/
def issueStay (i : Instr) (body : Who → Fields → M Unit) (s : State) : Host.Outcome State Fault Refusal :=
  match s.who? s.cur, form i, fields i with
  | some w, some fm, some f => issueAs false i fm f (s.issuer i w f) body s
  | _, _, _ => .refused .noIssuer

/-- An event of a team: as `event`, with the abort or restart of its task where the computation ends so
(R366, R369). -/
def teamEvent (t : Nat) (m : M Unit) (s : State) : Host.Outcome State Fault Refusal :=
  match m s with
  | .ok (_, t) => .next t
  | .error .restart => .next (s.restart t)
  | .error _ => .next s

/-- An event of the module: a computation that always runs to its end; what cannot happen changes
nothing. -/
def event (m : M Unit) (s : State) : Host.Outcome State Fault Refusal :=
  match m s with
  | .ok (_, t) => .next t
  | .error _ => .next s

end Sys2Proof.Machine
end

