-- ==== Sys2Proof/Machine/Access.lean ====
section
/-!
DEFINITION. Lane accesses to memory: the checks of R99, reads and writes by page class (R137 to R160),
tentative lines (R158, R367), the constant and tile paths (R138), replicas (R133).
-/

namespace Sys2Proof.Machine

open Config

/-- A loaded value as its register takes it, before a pair or k register widens it (R141). -/
def loadValue (t : Ty) (bs : List Byte) : DWord :=
  let x := leOf bs
  if t.signed && t.bytes < 4 then (BitVec.ofInt 32 (intOf true (8 * t.bytes) x)).setWidth 64 else w64 x

/-! ## Checks (R99) -/

/-- One lane's access: the effective address, and the address it reaches once the window of R117 is
taken into account. -/
structure Acc where
  lane : Nat
  ea : Nat
  va : Nat
  deriving DecidableEq, Repr

/-- The lanes that make an access: one for a scalar destination (R143). -/
def accessLanes (w : Who) (dst : Opnd) : List Nat :=
  match dst with
  | .s _ => w.actors.take 1
  | _ => w.actors

/-- The accesses of lanes; `window` says that the form may use the window of R117. -/
def State.accs (s : State) (w : Who) (window : Bool) (ea : Nat → Nat) (lanes : List Nat) : List Acc :=
  lanes.map fun i =>
    let a := ea i
    ⟨i, a, if window && !w.front && inWindow a then s.windowTarget w i (a - privBase) else a⟩

/-- The mask of failing lanes; a program has none. -/
def Who.failMask (w : Who) (l : List Nat) : BitVec 32 := if w.front then 0 else laneMask l

/-- The fault of the first access that fails a check, over all that fail it. -/
def failing (w : Who) (kind cause : Nat) (l : List Acc) (bad : Acc → Bool) : Option Trap :=
  match l.filter bad with
  | [] => none
  | a :: t => some { kind := kind, cause := cause, mask := w.failMask ((a :: t).map (·.lane)), addr := a.ea }

/-- Class of the page of an access (R94). -/
def State.classAt (s : State) (w : Who) (a : Acc) : Nat := ((s.peekLeaf w a.va).map leafClass).getD 0

/-- The checks of R99 before any lane's access: ALIGN to `al`, LEASE over `n` bytes for rights, and for a
write STABLE (R116) and the class (R126, R149). -/
def accessFault (s : State) (w : Who) (al n : Nat) (rights : List Nat) (write : Bool) (l : List Acc) :
    Option Trap :=
  failing w kALIGN 1 l (fun a => decide (a.ea % al ≠ 0)) <|>
    failing w kLEASE 1 l (fun a => !s.inLease w a.va n rights) <|>
    (if write then
      failing w kSTABLE 0 l (fun a => w.level = .lane && ((s.peekLeaf w a.va).map leafS).getD false) <|>
        failing w kSEALED 0 l (fun a => decide (s.classAt w a = 3)) <|>
        failing w kLEASE 1 l (fun a => s.classAt w a = 4 || s.classAt w a = 5)
     else none)

/-- A fault raised where there is one. -/
def check (t : Option Trap) : M Unit :=
  match t with
  | none => pure ()
  | some t => trap t

/-- ECCU recorded after issue for lanes, with the block of the lowest (R160). -/
def eccu (w : Who) (bad : List Acc) : Option Trap :=
  match bad with
  | [] => none
  | a :: _ => some { kind := kECCU, mask := w.failMask (bad.map (·.lane)), addr := a.ea / 64 * 64 }

/-- Granules dropped outside the lease counted (R112). -/
def dropped (part : Nat) (granules : List Nat) : M Unit :=
  let n := (granules.foldl insertNat []).length
  upd fun s => s.updPart part fun p => { p with dropspec := p.dropspec + w64 n }

/-- A fault recorded after issue of an instruction that completes at once. -/
def lateNow (w : Who) (t : Option Trap) : M Unit :=
  match t with
  | none => pure ()
  | some t => upd fun s => s.takeLate w.owner (lateRec w t)

/-! ## Tentative lines (R158, R367) -/

/-- Mode of an SRAM bank (R214). -/
def Core.bankMode (k : Core) (b : Nat) : BankMode :=
  (SMap.get? k.modes b).getD (if b < 16 then .cache else .scratch)

/-- Banks of a core in cache mode: the ways of its L1. -/
def Core.ways (k : Core) : Nat := ((List.range 48).filter fun b => k.bankMode b = .cache).length

/-- L1 set of a line. -/
def setOf (line : Nat) : Nat := line % 512

/-- Lines that a staged write counts for: that of its destination, and that of its counter (R199). -/
def Staged.lines (g : Staged) : List Nat :=
  (if g.parts.isEmpty then [] else [g.va / 64]) ++ (if g.caddr = 0 then [] else [g.caddr / 64])

/-- Lines of one L1 set that a team holds tentative or staged (R367). -/
def Team.setUse (x : Team) (set : Nat) : Nat :=
  (x.tentLines.filter fun l => setOf l = set).length +
    (((x.staged.flatMap Staged.lines).foldl insertNat []).filter fun l => setOf l = set).length

/-- The abort conditions of a tentative line or staged line that a team takes (R367). -/
def State.overFootprint (s : State) (t : Nat) (x : Team) (line : Nat) : Bool :=
  let n := (s.core x.core).ways
  let own := x.setUse (setOf line)
  let others := ((s.teamsOn x.core).filter fun e => e.1 ≠ t).foldl (fun m e => m + e.2.setUse (setOf line)) 0
  decide (n / 2 < own + 1) || decide (n < own + 1 + others)

/-- An issuer for the part of one of its lanes. -/
def Who.only (w : Who) (lane : Nat) : Who := { w with act := [lane] }

/-- A line that an instruction of a tentative task writes, noted with the agent, its address and lanes, which a commit
that meets uncorrectable data there names (R160). -/
def noteWriter (m : SMap (List (Nat × Nat × BitVec 32))) (line : Nat) (w : Who) : SMap (List (Nat × Nat × BitVec 32)) :=
  let l := SMap.getD [] m line
  let mask := w.failMask w.act
  if l.any fun e => e.1 = w.src && e.2.1 = w.iaddr then
    SMap.put m line (l.map fun e => if e.1 = w.src && e.2.1 = w.iaddr then (e.1, e.2.1, e.2.2 ||| mask) else e)
  else SMap.put m line (l ++ [(w.src, w.iaddr, mask)])

/-- What a tentative task writes to a line held in its L1 (R158). -/
def tentHold (w : Who) (pl : Place) (pair : Option (Nat × Nat × Nat)) (put : Team → Team) : M Unit := do
  let line := pl.pa / 64
  let x ← look fun s => s.team? w.team
  match x with
  | none => pure ()
  | some x => do
    let full ← look fun s => !x.tentLines.contains line && s.overFootprint w.team x line
    if full then stop .abort
    else upd fun s => s.updTeam w.team fun x =>
      let x := put x
      { x with tentBy := noteWriter x.tentBy line w,
               tentShared := if leafClass pl.leaf = 2 then insertNat x.tentShared line else x.tentShared,
               tentLeaves := (match pl.entry with | none => x.tentLeaves | some e => insertNat x.tentLeaves e),
               tentPairs := (match pair with
                 | none => x.tentPairs
                 | some p => if x.tentPairs.contains p then x.tentPairs else x.tentPairs ++ [p]) }

/-- Bytes written by a tentative task held in its L1 (R158). -/
def tentWrite (w : Who) (pl : Place) (pair : Option (Nat × Nat × Nat)) (bs : List Byte) : M Unit :=
  tentHold w pl pair fun x =>
    { x with tent := (List.range bs.length).foldl (fun m i => SMap.put m (pl.pa + i) (bs.getD i 0)) x.tent }

/-- A read's bytes with what the issuer's task holds tentative over them. -/
def State.overlay (s : State) (w : Who) (pa : Nat) (bs : List Byte) : List Byte :=
  match s.teamOf w with
  | none => bs
  | some x =>
    if x.mode = .tentative then (List.range bs.length).map fun i => SMap.getD (bs.getD i 0) x.tent (pa + i)
    else bs

/-- Whether the issuer's task holds every byte of a range tentative. -/
def State.allTent (s : State) (w : Who) (pa n : Nat) : Bool :=
  match s.teamOf w with
  | none => false
  | some x => x.mode = .tentative && (List.range n).all fun i => (SMap.get? x.tent (pa + i)).isSome

/-- A line that a tentative task read, with the write timestamp it saw first (R182). -/
def noteRead (w : Who) (key wts : Nat) : M Unit :=
  upd fun s => s.updTeam w.team fun x =>
    if x.mode = .tentative && (SMap.get? x.reads key).isNone then
      { x with reads := SMap.put x.reads key wts }
    else x

/-! ## Append pages (R125) and replicas (R133) -/

/-- A transaction on a frame's append record (R123): the record written at its home; one outside the partition's own
stacks is none of its own and takes nothing (R15). -/
def appendWrite (part clk frame : Nat) (r : AppendRec) : M Nat := do
  let p ← look fun s => s.part? part
  match p with
  | none => pure clk
  | some p => do
    let a := appendAddr part p frame
    let own ← look fun s => s.own part a 16
    if !own then pure clk
    else do
      meetLine (a / 64)
      mergeLine part (a / 64)
      let ts ← stampWrite part (a / 64) clk fun h => { h with lastCore := none }
      upd fun s => s.setAppendRec part p frame r
      pure ts

/-- A frame's append record. -/
def State.frameRec (s : State) (part frame : Nat) : AppendRec :=
  match s.part? part with
  | none => ⟨0, 0, 1, 3, true⟩
  | some p => s.appendRec part p frame

/-- Key of the line that holds a frame's append record. -/
def State.recLine (s : State) (part frame : Nat) : Nat :=
  match s.part? part with
  | none => 0
  | some p => appendAddr part p frame / 64

/-- The replica of a frame that a core's twelfth holds, if any (R133). -/
def State.replicaOf (s : State) (part core frame : Nat) : Option Nat :=
  (s.part? part).bind fun p => ((SMap.getD [] p.replicas (core / 32)).find? fun e => e.1 = frame).map (·.2)

/-- Frame `i` of the replica region of a twelfth: REPLN whole frames at the top of its odd stack (R133, R457). -/
def PCfg.replicaFrame (c : PCfg) (j i : Nat) : Nat :=
  (2 * j + 1) * stackStride + (framesPerStack - c.repln + i) * 65536

/-- Lines of a frame out of every cache of a twelfth, and its TLB entries (R134). -/
def State.dropReplica (s : State) (part j frame : Nat) : State :=
  let s := { s with cores := SMap.map s.cores fun c k =>
      if c / 32 = j then
        { k.dropFrame frame with
          tlb := k.tlb.filter fun x => !(leafFrame x.leaf ≤ frame && frame < leafFrame x.leaf + x.size) }
      else k }
  s.updPart part fun p =>
    { p with codeLines := SMap.modify p.codeLines j fun l => l.filter fun x => !(frame / 64 ≤ x && x < frame / 64 + 1024) }

/-- A replica made (R133): the frame and its tags copied into a free replica frame; where the region is full,
that of the least recently used replica, whose lines and TLB entries are dropped first (R134). -/
def State.addReplica (s : State) (part j frame : Nat) : State :=
  match s.part? part with
  | none => s
  | some p =>
    let l := SMap.getD [] p.replicas j
    let (s, l) := match l with
      | [] => (s, l)
      | old :: rest => if p.cfg.repln ≤ l.length then (s.dropReplica part j old.1, rest) else (s, l)
    match (List.range p.cfg.repln).find? fun i => !(l.any fun e => e.2 = p.cfg.replicaFrame j i) with
    | none => s
    | some i =>
      let r := p.cfg.replicaFrame j i
      ((s.copyFrame frame r).markDirty part r).updPart part fun p =>
        { p with replicas := SMap.put p.replicas j (l ++ [(frame, r)]) }

/-- A read or fetch by a core of a frame that it may replicate: its record holds STATE 2 and it lies in another twelfth
of the partition. The copy is read at home, privatised bytes included (R173). A replica that is used becomes the most
recently used; whether the read misses in L2, by which a replica is made, is a FREE VALUE (R133, R134). -/
def replicate (part core frame : Nat) : M Unit := do
  let j := core / 32
  let ok ← look fun s =>
    decide ((s.frameRec part frame).st = 2) && decide (stackOf frame / 2 ≠ j) &&
      ((s.part? part).map fun p => decide (p.cfg.repln ≠ 0)).getD false
  if !ok then pure ()
  else do
    let have' ← look fun s => s.replicaOf part core frame
    match have' with
    | some r => upd fun s => s.updPart part fun p =>
        let others := (SMap.getD [] p.replicas j).filter fun e => e.1 ≠ frame
        { p with replicas := SMap.put p.replicas j (others ++ [(frame, r)]) }
    | none => do
      let miss ← drawBool
      if miss then do
        let known ← look fun s => s.knownLines frame
        each known fun l => mergeLine part l
        upd fun s => s.addReplica part j frame
      else pure ()

/-- The line that serves a core's read of a line: that of the replica where its twelfth holds one (R133). -/
def State.servedLine (s : State) (part core line : Nat) : Nat :=
  match s.replicaOf part core (line / 1024 * 65536) with
  | some r => r / 64 + line % 1024
  | none => line

/-- Bytes of a page of class 3, 4 or 5: zero from SETTLED on (R125). -/
def settledBytes (off settled : Nat) (bs : List Byte) : List Byte :=
  (List.range bs.length).map fun i => if off + i < settled then bs.getD i 0 else 0

/-! ## Generic-path reads -/

/-- Whether a range of the launch with the `s` right covers an address (R113, R115). -/
def State.inStable (s : State) (w : Who) (va : Nat) : Bool :=
  w.level = .lane && (s.rangesOf w).any fun r => r.has va [rightS]

/-- A read of a stable page (R113), bytes and tag: from the copy that carries the launch, or at home
without a lease. -/
def stableFetch (w : Who) (line o n : Nat) (keep : Bool) : M (List Byte × BitVec 16) := do
  let copy ← look fun s => SMap.get? (s.core w.core).l1 line
  match ← stillHeld (copy.filter fun x => decide (x.stable = some w.launch)) with
  | some x => pure ((x.data.drop o).take n, x.tag)
  | none => do
    mergeLine w.part line
    let (wts, _) ← homeTs w.part line
    raisePts w.core wts
    let data ← look fun s => s.bytes (64 * line) 64
    let tag ← look fun s => s.tag line
    if keep then upd fun s => s.updCore w.core fun k =>
      { k with l1 := SMap.put k.l1 line ⟨wts, 0, data, tag, some w.launch⟩ }
    else pure ()
    pure ((data.drop o).take n, tag)

/-- The fence operations of a gang that are not complete (R156). -/
def State.fencing (s : State) (w : Who) : Bool :=
  s.ops.any fun e => e.2.owner.of w && w.quads.contains e.2.owner.quad &&
    match e.2.kind with | .fence _ => true | _ => false

/-- Whether a line of a page of a class cannot be corrected (R160, R480). -/
def State.badLine (s : State) (part cls line : Nat) : Bool := if cls = 6 then s.poison6 part line else s.isPoison line

/-- The application that comes before an access to a page of class 2: whether it met uncorrectable data (R149,
R396, R408). -/
def applyPending (w : Who) (line : Nat) : M Bool := do
  let pts ← ptsOf w.core
  applyFirst w.part pts line

/-- A gang held from class 6 while its `pathfence` is not complete (R156). -/
def fenceHold (w : Who) : M Unit := do
  let f ← look fun s => s.fencing w
  if f then stop .hold else pure ()

/-- A read on a page of class 2 (R149): at home, after the pending record is applied. DESIGN CHOICE: where only
that record could not be corrected, the lane records ECCU and reads the block's bytes (log 47). -/
def sharedRead (w : Who) (pl : Place) (n : Nat) : M (List Byte × Bool) := do
  let line := pl.pa / 64
  meetLine line
  let help ← applyPending w line
  let bad ← look fun s => s.isPoison line
  if bad then pure (List.replicate n 0, true)
  else do
    mergeLine w.part line
    let (wts, _) ← homeRead w.part w.core line none
    noteRead w line wts
    let b ← look fun s => s.overlay w pl.pa (s.bytes pl.pa n)
    pure (b, help)

/-- The record of the frame of a line read at its home in the order of the accesses (R123, R125). -/
def readRec (w : Who) (frame : Nat) : M AppendRec := do
  let rl ← look fun s => s.recLine w.part frame
  meetLine rl
  mergeLine w.part rl
  let (rw, _) ← homeRead w.part w.core rl none
  noteRead w rl rw
  look fun s => s.frameRec w.part frame

/-- A line of a page of class 3, 4 or 5 as a read finds it, from a replica where the core's twelfth holds one
(R125, R133): its bytes and tag, SETTLED, its write timestamp, and whether bytes below SETTLED cannot be
corrected. -/
def settledLine (w : Who) (line : Nat) : M ((List Byte × BitVec 16) × Nat × Nat × Bool) := do
  let frame := line / 1024 * 65536
  replicate w.part w.core frame
  let served ← look fun s => s.servedLine w.part w.core line
  meetLine served
  let r ← readRec w frame
  mergeLine w.part line
  let (wts, _) ← homeRead w.part w.core line none
  noteRead w line wts
  let d ← look fun s => (s.bytes (64 * served) 64, s.tag served)
  let bad ← look fun s => s.isPoison served && decide (64 * line % 65536 < r.settled)
  pure (d, r.settled, wts, bad)

/-- A read on a page of class 3, 4 or 5 (R125). -/
def settledRead (w : Who) (pl : Place) (n : Nat) (keep : Bool) : M (List Byte × Bool) := do
  let line := pl.pa / 64
  let o := pl.pa % 64
  let ((data, tag), settled, wts, bad) ← settledLine w line
  let off := 64 * line % 65536
  if bad && decide (off + o < settled) then pure (List.replicate n 0, true)
  else do
    if keep && decide (off + 64 ≤ settled) then
      upd fun s => s.updCore w.core fun k => { k with l1 := SMap.put k.l1 line ⟨wts, 2 ^ 64, data, tag, none⟩ }
    else pure ()
    pure (settledBytes (off + o) settled ((data.drop o).take n), false)

/-- A read on a page of class 0 (R148): a stable one from the launch's copy (R113), any other coherently. -/
def plainRead (w : Who) (va : Nat) (pl : Place) (n : Nat) (keep : Bool) : M (List Byte × Bool) := do
  let line := pl.pa / 64
  let o := pl.pa % 64
  meetLine line
  let bad ← look fun s => s.isPoison line
  if bad then pure (List.replicate n 0, true)
  else do
    let st ← look fun s => leafS pl.leaf && s.inStable w va
    let b ← if st then do
        let (b, _) ← stableFetch w line o n keep
        pure b
      else do
        let (b, wts) ← coherentRead w.part w.core line o n keep
        noteRead w line wts
        pure b
    let b ← look fun s => s.overlay w pl.pa b
    pure (b, false)

/-- A read on a page of class 6 (R149). -/
def hostRead (w : Who) (pl : Place) (n : Nat) (keep : Bool) : M (List Byte × Bool) := do
  let line := pl.pa / 64
  let (b, wts) ← read6 w.part w.core line (pl.pa % 64) n keep
  noteRead w (key6 w.part line) wts
  let bad ← look fun s => s.poison6 w.part line
  let b ← look fun s => s.overlay w pl.pa b
  pure (if bad then List.replicate n 0 else b, bad)

/-- `n` bytes of one line read on the generic path at a place: the bytes, and whether uncorrectable data
was met (R144, R148, R149, R160). -/
def readPlace (w : Who) (va : Nat) (pl : Place) (n : Nat) (keep : Bool) : M (List Byte × Bool) := do
  let c := leafClass pl.leaf
  if c = 6 then fenceHold w else pure ()
  let all ← look fun s => s.allTent w pl.pa n
  if all then do
    let b ← look fun s => s.overlay w pl.pa (List.replicate n 0)
    pure (b, false)
  else if c = 7 then do
    let (b, bad) ← peerRead w.part pl.pa n
    let b ← look fun s => s.overlay w pl.pa b
    pure (b, bad)
  else if c = 6 then hostRead w pl n keep
  else if c = 2 then sharedRead w pl n
  else if c = 3 || c = 4 || c = 5 then settledRead w pl n keep
  else plainRead w va pl n keep

/-- Whether CACHE lets a path's cache hold the line (R144). -/
def Cache.keeps (c : Cache) : Bool := c = .near || c = .stream

/-- A generic-path read of a virtual address. In checkpoint mode a tentative task's bytes stand at the
frame that its commit writes (R469). -/
def genRead (w : Who) (va n : Nat) (cache : Cache) : M (List Byte × Bool) := do
  let pl ← placeOf w va
  let (b, bad) ← readPlace w va pl n (Cache.keeps cache)
  let tent ← look fun s => decide (s.modeOf w = .tentative) && leafSH pl.leaf
  if !tent then pure (b, bad)
  else do
    let (q, _) ← storePlace w va true
    let b ← look fun s => s.overlay w q.pa b
    pure (b, bad)

/-! ## Generic-path writes and atomics -/

/-- The D bit of a place's leaf set as a write through it reaches home (R96). -/
def setDirty (w : Who) (pl : Place) : M Unit := setLeafBit w.part w.core (pl.entry.getD noEntry) 7

/-- A write of an issuer dropped at a poisoned line (R477, R479). -/
def dropWrite (w : Who) (pl : Place) : M Unit := upd fun s => s.dropRec w.part pl.pa

/-- A committed write on a page of class 2, after the pending record is applied (R149); ECCU of that record
leaves the write as it is (log 47). -/
def sharedWrite (w : Who) (pl : Place) (bs : List Byte) : M Bool := do
  let line := pl.pa / 64
  meetLine line
  let help ← applyPending w line
  let bad ← look fun s => s.isPoison line
  if bad then do
    dropWrite w pl
    pure true
  else do
    mergeLine w.part line
    setDirty w pl
    let pts ← ptsOf w.core
    let ts ← stampWrite w.part line pts fun h => { h with lastCore := some w.core }
    putHome w.part (some w.ctx) pl.pa bs
    raisePts w.core ts
    pure help

/-- A committed write at a place (R148, R149, R166): whether uncorrectable data was met, which writes
nothing (R160). -/
def writePlace (w : Who) (pl : Place) (bs : List Byte) : M Bool := do
  let line := pl.pa / 64
  match leafClass pl.leaf with
  | 7 => do
    let bad ← peerStore w.part pl.pa bs
    if bad then pure () else setDirty w pl
    pure bad
  | 6 => do
    fenceHold w
    let bad ← look fun s => s.poison6 w.part line
    if bad then do
      dropWrite w pl
      pure true
    else do
      let pts ← ptsOf w.core
      let ts ← write6 w.part pts w.core pl.pa bs
      raisePts w.core ts
      setDirty w pl
      pure false
  | 2 => sharedWrite w pl bs
  | c => do
    meetLine line
    let bad ← look fun s => s.isPoison line
    if bad then do
      dropWrite w pl
      pure true
    else do
      setDirty w pl
      let _ ← coherentWrite w.part w.core w.ctx line (pl.pa % 64) bs (c = 0)
      pure false

/-- A generic-path write of a virtual address by an issuer in its mode (R146, R158): whether
uncorrectable data was met. -/
def genWrite (w : Who) (va : Nat) (bs : List Byte) : M Bool := do
  let tent ← look fun s => decide (s.modeOf w = .tentative)
  let (pl, pair) ← storePlace w va tent
  if tent then do
    if leafClass pl.leaf = 6 then fenceHold w else pure ()
    let bad ← look fun s => s.badLine w.part (leafClass pl.leaf) (pl.pa / 64)
    if bad then do
      dropWrite w pl
      pure true
    else do
      tentWrite w pl pair bs
      pure false
  else writePlace w pl bs

/-- An atomic at the home of a line of the partition's HBM (R150, R166): the old value. -/
def homeAtomic (w : Who) (pl : Place) (n : Nat) (f : Nat → Nat) : M Nat := do
  let line := pl.pa / 64
  mergeLine w.part line
  setDirty w pl
  let old ← look fun s => s.le pl.pa n
  let pts ← ptsOf w.core
  let ts ← stampWrite w.part line pts fun h =>
    { h with lastCore := some w.core, lastMask := byteMask (pl.pa % 64) n }
  putHome w.part (some w.ctx) pl.pa (leBytesOf n (f old))
  raisePts w.core ts
  pure old

/-- An atomic of a type at a virtual address by a committed task (R150), with its operand and the value that a `cas`
compares: the old value, and whether uncorrectable data was met. On class 2 ECCU of the pending record alone leaves the
atomic as it is (log 47); on class 7 the peer's home makes it (R149). -/
def genAtomic (w : Who) (va : Nat) (ty : Ty) (op : AOp) (c e : Nat) : M (Nat × Bool) := do
  let (pl, _) ← storePlace w va false
  let line := pl.pa / 64
  let n := ty.bytes
  let f (old : Nat) : Nat := atomicOp op ty old c e
  match leafClass pl.leaf with
  | 7 => do
    let (old, bad) ← peerAtomic w.part pl.pa n ty op c e
    if bad then pure () else setDirty w pl
    pure (old, bad)
  | 6 => do
    fenceHold w
    let bad ← look fun s => s.poison6 w.part line
    if bad then do
      dropWrite w pl
      pure (0, true)
    else do
      let old ← atom6 w.part w.core pl.pa n f
      setDirty w pl
      pure (old, false)
  | cls => do
    meetLine line
    let help ← if cls = 2 then applyPending w line else pure false
    let bad ← look fun s => s.isPoison line
    if bad then do
      dropWrite w pl
      pure (0, true)
    else do
      let old ← homeAtomic w pl n f
      pure (old, help)

/-! ## Constant and tile paths (R138) -/

/-- The copies that a core's constant or tile cache holds. -/
def Core.path (k : Core) (tile : Bool) : SMap (List Byte × BitVec 16) := if tile then k.tile else k.con

/-- A core with a line held in its constant or tile cache. -/
def Core.keepPath (k : Core) (tile : Bool) (line : Nat) (d : List Byte × BitVec 16) : Core :=
  if tile then { k with tile := SMap.put k.tile line d } else { k with con := SMap.put k.con line d }

/-- A core without a line in its constant or tile cache. -/
def Core.dropPath (k : Core) (tile : Bool) (line : Nat) : Core :=
  if tile then { k with tile := SMap.del k.tile line } else { k with con := SMap.del k.con line }

/-- A line and its tag as a constant-path or tile-path read finds them: a copy that may be old, or home, from
where the cache keeps the line or, an older copy dropped, does not (R138). -/
def pathLine (part core line : Nat) (tile keep exact : Bool) : M (List Byte × BitVec 16) := do
  let copy ← look fun s => SMap.get? ((s.core core).path tile) line
  match ← stillHeld (if exact then none else copy) with
  | some d => pure d
  | none => do
    mergeLine part line
    let d ← look fun s =>
      let served := s.servedLine part core line
      (s.bytes (64 * served) 64, s.tag served)
    upd fun s => s.updCore core fun k => if keep then k.keepPath tile line d else k.dropPath tile line
    pure d

/-- A line of a page of class 3, 4 or 5 on the constant or tile path, from a replica where the core's twelfth holds one
(R125, R133, R138): the data, SETTLED, and whether bytes from `o` on below SETTLED cannot be corrected. -/
def settledPath (part core line o : Nat) (tile keeps : Bool) : M ((List Byte × BitVec 16) × Nat × Bool) := do
  let frame := line / 1024 * 65536
  replicate part core frame
  let served ← look fun s => s.servedLine part core line
  meetLine served
  let rl ← look fun s => s.recLine part frame
  meetLine rl
  let off := 64 * line % 65536
  let settled ← look fun s => (s.frameRec part frame).settled
  let bad ← look fun s => s.isPoison served && decide (off + o < settled)
  if bad then pure ((List.replicate 64 0, 0), settled, true)
  else do
    let whole : Bool := decide (off + 64 ≤ settled)
    let d ← pathLine part core line tile (whole && keeps) (!whole)
    pure (d, settled, false)

/-- A read on the constant or tile path (R137, R138): the bytes, and whether uncorrectable data was
met. CACHE applies to the path's own cache (R144). -/
def pathRead (w : Who) (tile : Bool) (va n : Nat) (cache : Cache) : M (List Byte × Bool) := do
  fenceHold w
  let pl ← placeOf w va
  let line := pl.pa / 64
  let o := pl.pa % 64
  let c := leafClass pl.leaf
  if c = 2 || c = 6 || c = 7 then readPlace w va pl n (Cache.keeps cache)
  else if c = 3 || c = 4 || c = 5 then do
    let ((d, _), settled, bad) ← settledPath w.part w.core line o tile (Cache.keeps cache)
    pure (if bad then List.replicate n 0 else settledBytes (64 * line % 65536 + o) settled ((d.drop o).take n), bad)
  else do
    meetLine line
    let bad ← look fun s => s.isPoison line
    if bad then pure (List.replicate n 0, true)
    else do
      let exact ← look fun s => s.inStable w va
      let (d, _) ← pathLine w.part w.core line tile (Cache.keeps cache) exact
      pure ((d.drop o).take n, false)

end Sys2Proof.Machine
end

