-- ==== Sys2Proof/Machine/Spad.lean ====
section
/-!
DEFINITION. Scratchpad addresses (R217, R218), the bytes, tags and poison of scratchpad rows (R214, R219,
R488), and the team whose banks an address names.
-/

namespace Sys2Proof.Machine

/-- CORE of a scratchpad address. -/
def spCore (a : Nat) : Nat := bitsN a 31 28
/-- ROT of a scratchpad address. -/
def spRot (a : Nat) : Nat := bitsN a 27 24
/-- OFFSET of a scratchpad address. -/
def spOff (a : Nat) : Nat := bitsN a 20 0

/-- The life whose scratchpad CORE names for a lane of a life, which must be live (R218). -/
def State.laneSpad (s : State) (life a : Nat) : Option Life :=
  if spCore a ≠ 15 && 11 < spCore a then none
  else ((s.namedLife life (spCore a)).bind fun l => s.life? l).filter fun f => !f.ended

/-- The life whose scratchpad CORE names for a command of a life: as when it was accepted, ended or not
(R216). The lives of one start of a cluster have consecutive numbers. -/
def State.cmdSpad (s : State) (life a : Nat) : Option Life :=
  match s.life? life with
  | none => none
  | some f =>
    if spCore a = 15 then some f
    else
      (s.life? (life - f.team + spCore a)).filter fun g =>
        g.launch = f.launch && g.cluster = f.cluster && g.team = spCore a

/-- Whether an access of `n` bytes is the scratchpad fault (R218). -/
def spadBad (f : Option Life) (a n : Nat) : Bool :=
  match f with
  | none => true
  | some f => decide (bitsN a 23 21 ≠ 0) || decide (f.scratch < spOff a + n)

/-- SRAM byte of a core that an offset of a life's scratchpad reaches under a rotation code (R218):
64 times the row number of the core plus the byte in the row. -/
def spotOf (f : Life) (rot off : Nat) : Nat :=
  let nb := maxN f.banks.length 1
  let l := off / 64
  let r := l / nb
  let j := (l + rot * r) % nb
  32768 * f.banks.getD j 0 + 64 * r + off % 64

/-- SRAM byte of a scratchpad address. -/
def spot (f : Life) (a : Nat) : Nat := spotOf f (spRot a) (spOff a)

/-- A byte of a core's SRAM. -/
def State.sramByte (s : State) (core k : Nat) : Byte := SMap.getD 0 (s.core core).sram k

/-- `n` bytes from a scratchpad address. -/
def State.spadBytes (s : State) (f : Life) (a n : Nat) : List Byte :=
  (List.range n).map fun i => s.sramByte f.core (spotOf f (spRot a) (spOff a + i))

/-- Bytes written from a scratchpad address. -/
def State.setSpad (s : State) (f : Life) (a : Nat) (bs : List Byte) : State :=
  s.updCore f.core fun k =>
    { k with sram := (List.range bs.length).foldl (fun m i =>
        SMap.putD 0 m (spotOf f (spRot a) (spOff a + i)) (bs.getD i 0)) k.sram }

/-- Row number of a scratchpad address. -/
def rowOf (f : Life) (a : Nat) : Nat := spot f a / 64

/-- Tag of the row of a scratchpad address. -/
def State.spadTag (s : State) (f : Life) (a : Nat) : BitVec 16 := SMap.getD 0 (s.core f.core).stags (rowOf f a)

/-- The tag of the row of a scratchpad address written. -/
def State.setSpadTag (s : State) (f : Life) (a : Nat) (t : BitVec 16) : State :=
  s.updCore f.core fun k => { k with stags := SMap.putD 0 k.stags (rowOf f a) t }

/-- Whether the row of a scratchpad address is poisoned (R488). -/
def State.spadPoison (s : State) (f : Life) (a : Nat) : Bool := (s.core f.core).spois.contains (rowOf f a)

/-- A row's poison set or cleared. -/
def State.setSpadPoison (s : State) (f : Life) (a : Nat) (b : Bool) : State :=
  s.updCore f.core fun k =>
    { k with spois := if b then insertNat k.spois (rowOf f a) else k.spois.filter (· ≠ rowOf f a) }

/-- A row that one write has covered: its poison is gone, and what waited in it is written over (R473, R477). -/
def State.freshRow (s : State) (f : Life) (a : Nat) : State :=
  let s := s.setSpadPoison f a false
  { s with upsets := s.upsets.filter fun u =>
      match u with | .row c n _ => !(decide (c = f.core) && decide (n = rowOf f a)) | _ => true }

/-- A whole row written at a scratchpad address (R477). -/
def State.setRow (s : State) (f : Life) (a : Nat) (bs : List Byte) : State := (s.setSpad f a bs).freshRow f a

/-- Rows and tags of a bank zero. -/
def Core.zeroBank (k : Core) (b : Nat) : Core :=
  { k with sram := SMap.drop k.sram fun i => 32768 * b ≤ i && i < 32768 * (b + 1),
           stags := SMap.drop k.stags fun i => 512 * b ≤ i && i < 512 * (b + 1),
           spois := k.spois.filter fun i => !(512 * b ≤ i && i < 512 * (b + 1)) }

/-- What a read of a row finds of the errors that wait in it (R473, R475): one that cannot be corrected
leaves the row poisoned; whether there was such a one. DESIGN CHOICE: its record has KIND 3 (log 55). -/
def meetRow (f : Life) (a : Nat) : M Bool := do
  let r := rowOf f a
  let us ← look fun s => s.upsets.filter fun u =>
    match u with | .row c n _ => decide (c = f.core) && decide (n = r) | _ => false
  if us.isEmpty then pure false
  else do
    upd fun s => { s with upsets := s.upsets.filter fun u => !us.contains u }
    let bad ← collectM us fun u =>
      match u with
      | .row _ _ false => do
        upd fun s => (s.setSpadPoison f a true).errRec (some f.part) 3 3 0 f.core none
        pure true
      | _ => do
        upd fun s => s.errRec (some f.part) 1 3 0 f.core none
        pure false
    pure (bad.any id)

/-- The scratchpad address, under its own team's CORE and no rotation, of a row of a life's banks (R218). -/
def rowAddr (f : Life) (r : Nat) : Nat :=
  15 * 2 ^ 28 + 64 * (r % 512 * maxN f.banks.length 1 + f.banks.findIdx fun b => b = r / 512)

/-- A row of a scratchpad address read by a command or an `append`: bytes, tag, poison. -/
def readRow (f : Life) (a : Nat) : M Block := do
  let _ ← meetRow f a
  look fun s => ⟨s.spadBytes f (a / 64 * 64) 64, s.spadTag f a, s.spadPoison f a⟩

/-- ECCU recorded after issue for lanes at a scratchpad row, with the address of the lowest (R475). -/
def eccuSp (w : Who) (bad : List Acc) : Option Trap :=
  match bad with
  | [] => none
  | a :: _ => some { kind := kECCU, mask := w.failMask (bad.map (·.lane)), addr := a.ea }

/-- What an instruction finds of the errors that wait in the rows of the records or lists that it reads (R473, R475): for
each lane `n` bytes at an address; an error that cannot be corrected is ECCU after issue. -/
def touchRows (w : Who) (l : List (Nat × Nat)) (n : Nat) : M Unit := do
  let got ← collectM l fun e => do
    let g ← look fun s => s.laneSpad w.life e.2
    match g with
    | none => pure ([] : List Acc)
    | some g => do
      let b ← collectM (pieces (spOff e.2) n) fun p => meetRow g (e.2 - spOff e.2 + p.1)
      pure (if b.any id then [⟨e.1, e.2, e.2⟩] else [])
  lateNow w (eccuSp w got.flatten)

/-- Bytes written from a scratchpad address, row by row: a whole row clears its poison, and a part of a
poisoned row takes nothing (R477, R488); whether that was met. -/
def spadWrite (f : Life) (a : Nat) (bs : List Byte) : M Bool := do
  let base := a - spOff a
  let r ← collectM (pieces (spOff a) bs.length) fun e => do
    let x := (bs.drop (e.1 - spOff a)).take e.2
    if e.2 = 64 then do
      upd fun s => s.setRow f (base + e.1) x
      pure false
    else do
      let bad ← look fun s => s.spadPoison f (base + e.1)
      if bad then pure true
      else do
        upd fun s => s.setSpad f (base + e.1) x
        pure false
  pure (r.any id)

/-- The scratchpad faults of lanes, ALIGN to `al` first (R218, R222). -/
def spadFault (s : State) (w : Who) (al n : Nat) (l : List Acc) : Option Trap :=
  failing w kALIGN 1 l (fun a => decide (spOff a.ea % al ≠ 0)) <|>
    failing w kLEASE 3 l (fun a => spadBad (s.laneSpad w.life a.ea) a.ea n)

/-- The accesses of lanes to scratchpad addresses. -/
def spadAccs (ea : Nat → Nat) (lanes : List Nat) : List Acc := lanes.map fun i => ⟨i, ea i, ea i⟩

end Sys2Proof.Machine
end

