-- ==== Sys2Proof/Machine/Announce.lean ====
section
/-!
DEFINITION. Announced operations and helping (OP 0xD0 and 0xD1, R409 to R413) and the walker of the
announcement table (R407).
-/

namespace Sys2Proof.Machine

/-! ## ann -/

/-- The checks of an access to a shared object (R409, R413): ALIGN, LEASE for `r` and `w`, STABLE, class
2. A class 3 page raises ALIGN, cause 4, as R409, R413 and R414 say, where R126 says SEALED (DEDUCED, log 21). -/
def objFault (s : State) (w : Who) (n : Nat) (l : List Acc) : Option Trap :=
  failing w kALIGN 1 l (fun a => decide (a.ea % n ≠ 0)) <|>
    failing w kLEASE 1 l (fun a => !s.inLease w a.va n [rightR, rightW]) <|>
    failing w kSTABLE 0 l (fun a => w.level = .lane && ((s.peekLeaf w a.va).map leafS).getD false) <|>
    failing w kALIGN 4 l (fun a => decide (s.classAt w a ≠ 2))

/-- APPENDLIM, cause 3: too few free records (R401, R409). -/
def tooFew (w : Who) (l : List Acc) : Trap :=
  { kind := kAPPENDLIM, cause := 3, mask := w.failMask (l.map (·.lane)), addr := (l.head?.map (·.ea)).getD 0 }

/-- Records taken for an issuer's lanes in one transaction, or the fault of their want, which leaves the commit that
came before it (R401, R409). -/
def takeRecords (w : Who) (k : Nat) (l : List Acc) : M (List Nat) := do
  let h ← look fun s => s.atab w.part w.ctx / 64
  meetLine h
  let bad ← look fun s => s.isPoison h
  let got ← look fun s => if bad then none else s.annAlloc w.part w.ctx k
  match got with
  | none => stop (.kept (tooFew w l))
  | some (is, t) => do
    upd fun _ => t
    pure is

/-- OWNER of a record (R399). The group and lane of an issuer that has none are FREE VALUES. -/
def ownerField (w : Who) (lane : Nat) : M Nat := do
  if w.front then do
    let n ← draw
    pure (w.core % 512 + n % 2048 * 512 + 2 ^ 20)
  else do
    let g ← if w.level = .lane then pure w.g else draw
    pure (w.core % 512 + g % 64 * 512 + lane % 32 * 2 ^ 15)

/-- A record filled in STATE 1 (R399), but for its operands, its reserved bytes as zero (R5); its waiting time starts
(R407). -/
def fillRecord (part ctx i op tyc obj va own pair : Nat) (det : Bool) : M Unit :=
  upd fun s =>
    let p (s : State) (off n x : Nat) : State := s.annPut part ctx i off n x
    let s := p (p (p s 40 8 0) 32 8 obj) 24 8 va
    let s := p (p (p (p (p s 20 4 own) 16 2 pair) 15 1 0) 14 1 0) 0 11 0
    let s := p (p (p s 13 1 op) 12 1 tyc) 11 1 (1 + (if det then 4 else 0))
    s.updPart part fun q => { q with annSince := SMap.put q.annSince (ctx * 65536 + i) s.cyc }

/-- One lane's announcement: its record written, then linked to its object's block (R404, R409). Whether
the application that came first met uncorrectable data. -/
def announce (w : Who) (op : AOp) (t : Ty) (det : Bool) (a : Acc) (i : Nat) (c e : DWord) : M Bool := do
  let pl ← placeOf w a.va
  let own ← ownerField w a.lane
  upd fun s =>
    let s := s.annPut w.part w.ctx i 56 8 (c.toNat % 2 ^ tyBits t)
    s.annPut w.part w.ctx i 48 8 (if op = .cas then e.toNat % 2 ^ tyBits t else 0)
  fillRecord w.part w.ctx i op.code t.code pl.pa a.va own 0 det
  let line := pl.pa / 64
  meetLine line
  let pts ← ptsOf w.core
  let bad ← applyFirst w.part pts line
  let ts ← linkBlock w.part pts w.ctx line i
  raisePts w.core ts
  setLeafBit w.part w.core (pl.entry.getD noEntry) 7
  pure bad

/-- One lane of `ann`: its handle, and whether uncorrectable data was met. -/
def annLane (w : Who) (op : AOp) (t : Ty) (det : Bool) (a : Acc) (i : Nat) (c e : DWord) : M (Acc × Nat × Bool) := do
  let h ← look fun s => s.annHandle w.part w.ctx i
  let bad ← announce w op t det a i c e
  pure (a, h, bad)

/-- `ann` (R409). -/
def annBody (op : AOp) (w : Who) (f : Fields) : M Unit := do
  let (a, c, e) ← read3 w f.imm (srcPair f.sa) (srcTyped f.ty f.sb)
    (if op = .cas then srcTyped f.ty (f.third.getD (.v 0)) else srcRaw (.v 0))
  let l ← look fun s => s.accs w false (fun i => (a i).toNat) (accessLanes w f.dst)
  let t ← look fun s => objFault s w f.ty.bytes l
  check t
  commitTask w
  let is ← takeRecords w l.length l
  let det : Bool := f.dst = .p 15
  let got ← collectM (l.zip is) fun x => annLane w op f.ty det x.1 x.2 (c x.1.lane) (e x.1.lane)
  let d : Opnd := if det then .immL else f.dst
  let vals (i : Nat) : DWord := w64 (((got.find? fun g => g.1.lane = i).map fun g => g.2.1).getD 0)
  let pts ← ptsOf w.core
  let _ ← startOp w .load ((destRefs w d false).map (·.2)) (landings w d false false vals)
    (eccu w ((got.filter fun g => g.2.2).map (·.1))) pts []
  pure ()

/-! ## help -/

/-- One access of `help` (R410): whether it applied a record, and whether it met uncorrectable data; nothing outside
class 2. -/
def helpLane (w : Who) (a : Acc) : M (Acc × Bool × Bool) := do
  let pl ← placeOf w a.va
  if leafClass pl.leaf ≠ 2 then pure (a, false, false)
  else do
    meetLine (pl.pa / 64)
    let pts ← ptsOf w.core
    let (done, bad) ← helpLink w.part pts (pl.pa / 64)
    let (wts, _) ← homeTs w.part (pl.pa / 64)
    raisePts w.core wts
    pure (a, done, bad)

/-- `help` (R410). -/
def helpBody (w : Who) (f : Fields) : M Unit := do
  let ea ← readEaA w f
  let l ← look fun s => s.accs w false ea (accessLanes w f.dst)
  let t ← look fun s => failing w kLEASE 1 l fun a => !s.inLease w a.va 1 [rightR, rightW]
  check t
  commitTask w
  let got ← collectM l (helpLane w)
  let vals (i : Nat) : DWord := if got.any fun g => g.1.lane = i && g.2.1 then 1 else 0
  reserveDst w f.dst
  let pts ← ptsOf w.core
  let _ ← startOp w .load ((destRefs w f.dst false).map (·.2)) (landings w f.dst false false vals)
    (eccu w ((got.filter fun g => g.2.2).map (·.1))) pts []
  pure ()

/-! ## collect and annq -/

/-- The record that a handle names (R411, R408): its index, where it exists, can be read and has the
handle's SEQ. -/
def State.annMatch (s : State) (part ctx h : Nat) : Option Nat :=
  let i := h % 65536
  if i = 0 || s.annN part ctx < i || s.annBad part ctx i ||
      s.annGet part ctx i 18 2 ≠ h / 65536 then none
  else some i

/-- The record that `collect` acts on (R411). -/
def State.annTakes (s : State) (part ctx h : Nat) : Option Nat :=
  (s.annMatch part ctx h).filter fun i =>
    (s.annState part ctx i = 1 || s.annState part ctx i = 2) && s.annGet part ctx i 13 1 < 8 &&
      !bitN (s.annGet part ctx i 11 1) 2

/-- What a read of the record of a handle finds of the errors that wait in its line (R408, R473). -/
def meetRecord (part ctx h : Nat) : M Unit := do
  let i := h % 65536
  let a ← look fun s => s.annAddr part ctx i
  let n ← look fun s => s.annN part ctx
  if i ≤ n then meetLine (a / 64) else pure ()

/-- What `collect` gives one lane: the value, whether the record was taken, whether it held an error. -/
def collectLane (w : Who) (h : Nat) : M (DWord × Bool × Bool) := do
  let r ← look fun s => s.annTakes w.part w.ctx h
  match r with
  | none => pure (0, false, false)
  | some i => do
    let obj ← look fun s => s.annGet w.part w.ctx i 32 8
    let st ← look fun s => s.annState w.part w.ctx i
    if st = 1 then do
      meetLine (obj / 64)
      let _ ← applyRec w.part w.ctx i
      pure ()
    else pure ()
    let (wts, _) ← homeTs w.part (obj / 64)
    let st ← look fun s => s.annState w.part w.ctx i
    if st ≠ 2 then pure (0, false, false)
    else do
      let bad ← look fun s => bitN (s.annGet w.part w.ctx i 11 1) 3
      let res ← look fun s => w64 (s.annGet w.part w.ctx i 40 8)
      upd fun s => s.annFree w.part w.ctx i
      raisePts w.core wts
      pure (if bad then (0, false, true) else (res, true, false))

/-- `collect` (R411). -/
def collectBody (w : Who) (f : Fields) : M Unit := do
  let a ← read1 w f.imm (srcRaw f.sa)
  let h (i : Nat) : Nat := ((a i).setWidth 32).toNat
  let lanes := accessLanes w f.dst
  each lanes fun i => meetRecord w.part w.ctx (h i)
  let l ← look fun s => (lanes.filterMap fun i => (s.annTakes w.part w.ctx (h i)).map fun r => (i, r)).map
    fun e => (⟨e.1, s.annGet w.part w.ctx e.2 24 8, e.2⟩ : Acc)
  let t ← look fun s => failing w kLEASE 1 l fun x =>
    s.annState w.part w.ctx x.va = 1 && !s.inLease w x.ea (s.annWidth w.part w.ctx x.va) [rightR, rightW]
  check t
  commitTask w
  let got ← collectM lanes fun i => do
    let r ← collectLane w (h i)
    pure (i, r)
  let of (i : Nat) : DWord × Bool × Bool := ((got.find? fun g => g.1 = i).map (·.2)).getD (0, false, false)
  let flags : List (RegRef × DWord) :=
    if w.front then [] else lanes.map fun i => (.p i 14, if (of i).2.1 then 1 else 0)
  let pts ← ptsOf w.core
  let _ ← startOp w .load ((destRefs w f.dst true).map (·.2) ++ flags.map (·.1))
    (landings w f.dst true false (fun i => (of i).1) ++ flags)
    (eccu w (l.filter fun x => (of x.lane).2.2)) pts []
  pure ()

/-- The value of `annq` for a handle (R412). -/
def annqValue (s : State) (part ctx h : Nat) : Nat :=
  match s.annMatch part ctx h with
  | none => 0
  | some i =>
    let b := s.annGet part ctx i 11 1
    2 ^ 31 + b % 4 * 2 ^ 29 + (if bitN b 2 then 2 ^ 28 else 0) + (if bitN b 3 then 2 ^ 27 else 0) +
      s.annGet part ctx i 13 1 % 256 * 2 ^ 19

/-- `annq` (R412). -/
def annqBody (w : Who) (f : Fields) : M Unit := do
  let a ← read1 w f.imm (srcRaw f.sa)
  commitTask w
  each (accessLanes w f.dst) fun i => meetRecord w.part w.ctx ((a i).setWidth 32).toNat
  let s ← look id
  let vals (i : Nat) : DWord := w64 (annqValue s w.part w.ctx ((a i).setWidth 32).toNat)
  reserveDst w f.dst
  let pts ← ptsOf w.core
  let _ ← startOp w .load ((destRefs w f.dst false).map (·.2)) (landings w f.dst false false vals) none pts []
  pure ()

/-! ## bcas -/

/-- The argument block of a lane read (R413): its bytes, and whether they could be read. -/
def bcasArgs (w : Who) (c : Nat) : M (List Byte × Bool) := do
  let g ← look fun s => s.laneSpad w.life c
  match g with
  | none => pure (List.replicate 32 0, true)
  | some g => do
    let _ ← meetRow g c
    look fun s => (s.spadBytes g c 32, s.spadPoison g c)

/-- A lane's part of a `bcas` as it is accepted, with records `i` and `k`. -/
def bcasPart (w : Who) (d : Opnd) (x y : Acc) (c i k : Nat) (arg : List Byte) (lost : Bool) : M BcasPart := do
  let px ← placeOf w x.va
  let py ← placeOf w y.va
  let own ← ownerField w x.lane
  let refs := ((destRefs w d false).filter fun e => e.1 = x.lane).map (·.2)
  pure ⟨x.lane, i, k, c, arg, lost, px.pa, x.va, px.entry.getD noEntry, py.pa, y.va, py.entry.getD noEntry, own,
    refs, false, lost⟩

/-- `bcas` (R413) up to its request: every check, the commit, the argument blocks, the records. Its steps are made
one by one from then on, whatever becomes of its team (R402). -/
def bcasBody (w : Who) (f : Fields) : M Unit := do
  let (a, b, c) ← read3 w f.imm (srcPair f.sa) (srcPair f.sb) (srcRaw (f.third.getD (.v 0)))
  let lanes := accessLanes w f.dst
  let xs ← look fun s => s.accs w false (fun i => (a i).toNat) lanes
  let ys ← look fun s => s.accs w false (fun i => (b i).toNat) lanes
  let cs := spadAccs (fun i => ((c i).setWidth 32).toNat) lanes
  let t ← look fun s =>
    objFault s w f.ty.bytes ((xs.zip ys).flatMap fun e => [e.1, e.2]) <|> spadFault s w 32 32 cs
  check t
  reserveDst w f.dst
  commitTask w
  let args ← collectM cs fun x => bcasArgs w x.ea
  let is ← takeRecords w (2 * lanes.length) xs
  let parts ← collectM (((xs.zip ys).zip (cs.zip args)).zip (List.range lanes.length)) fun e =>
    let ((x, y), (z, arg, lost)) := e.1
    bcasPart w f.dst x y z.ea (is.getD (2 * e.2) 0) (is.getD (2 * e.2 + 1) 0) arg lost
  let pts ← ptsOf w.core
  let _ ← startOp w (.bcas w.ctx f.ty (lateRec w { kind := kECCU }) parts) ((destRefs w f.dst false).map (·.2)) []
    none pts []
  pure ()

/-- The records of a lane's part filled and its first step made (R399, R400, R413): whether uncorrectable data was
met. -/
def bcasBegin (part clk ctx : Nat) (ty : Ty) (b : BcasPart) : M Bool := do
  let n := ty.bytes
  let num (o : Nat) : Nat := leOf ((b.arg.drop o).take n)
  fillRecord part ctx b.i 8 ty.code b.x b.xva b.own b.k false
  fillRecord part ctx b.k 9 ty.code b.y b.yva 0 b.i false
  upd fun s =>
    let p (s : State) (j off v : Nat) : State := s.annPut part ctx j off 8 v
    p (p (p (p s b.i 56 (num 16)) b.i 48 (num 0)) b.k 56 (num 24)) b.k 48 (num 8)
  meetLine (b.x / 64)
  meetLine (b.y / 64)
  bcasFirst part clk ctx b.i

/-- Whether a record of a lane's part cannot be read (R408). -/
def State.partBad (s : State) (part ctx : Nat) (b : BcasPart) : Bool := s.annBad part ctx b.i || s.annBad part ctx b.k

/-- A lane's part that is over (R413): STATUS, the old values that were read put into its argument block, both
records freed. The status, and the clock after it. Where an argument block or a record cannot be read, STATUS is 0 and
nothing is put (log 47). -/
def bcasEnd (part clk ctx life : Nat) (ty : Ty) (b : BcasPart) : M (Nat × Nat) := do
  let gone ← look fun s => b.lost || s.partBad part ctx b
  if gone then do
    upd fun s => (s.annFree part ctx b.i).annFree part ctx b.k
    pure (0, clk)
  else do
    let status ← look fun s => s.annGet part ctx b.i 14 1
    let step ← look fun s => s.annGet part ctx b.i 15 1
    let err ← look fun s => bitN (s.annGet part ctx b.i 11 1) 3
    let rx : Bool := !(err && step = 0)
    let ry : Bool := if b.x / 64 = b.y / 64 then !err else decide (2 ≤ step) && decide (status ≠ 2)
    let resX ← look fun s => s.annGet part ctx b.i 40 8
    let resY ← look fun s => s.annGet part ctx b.k 40 8
    let (ta, _) ← homeTs part (b.x / 64)
    let (tb, _) ← homeTs part (b.y / 64)
    if status = 1 then do
      setLeafBitAt part clk b.xent 7
      setLeafBitAt part clk b.yent 7
    else pure ()
    let g ← look fun s => s.cmdSpad life b.sp
    match g with
    | none => pure ()
    | some g => do
      let put (yes : Bool) (a x : Nat) : M Unit := if yes then do
          let _ ← spadWrite g a (leBytesOf ty.bytes x)
          pure ()
        else pure ()
      put rx b.sp resX
      put ry (b.sp + 8) resY
    upd fun s => (s.annFree part ctx b.i).annFree part ctx b.k
    pure (status, maxN (maxN clk ta) (if ry then tb else 0))

/-- The record of ECCU that a `bcas` carries once a lane's part has met uncorrectable data (R408): the lowest such
lane's address and the mask of all. -/
def bcasEcc (ecc : FaultRec) (had : Option FaultRec) (b : BcasPart) : Option FaultRec :=
  if !b.bad then had
  else
    let bit : BitVec 32 := if 64 ≤ ecc.src && ecc.src ≠ handlerSrc then 0 else laneMask [b.lane]
    match had with
    | none => some { ecc with mask := bit, addr := b.xva / 64 * 64 }
    | some r => some { r with mask := r.mask ||| bit }

/-- ONE TRANSACTION OF A `bcas` (R402, R413): the first lane's part that is not done begins, its link in the lane's
order as a store (R404), or makes a step of its record, or is over once the record is in STATE 2, whoever brought it
there, or cannot be read; after the last one the operation completes. -/
def bcasEvent (part id : Nat) (op : Op) (ctx : Nat) (ty : Ty) (ecc : FaultRec) (todo : List BcasPart) : M Unit := do
  let go (todo : List BcasPart) (vals : List (RegRef × DWord)) (late : Option FaultRec) (ts : Nat) : M Unit :=
    upd fun s =>
      { s with ops := SMap.put s.ops id { op with kind := .bcas ctx ty ecc todo, vals := vals, late := late, ts := ts } }
  match todo with
  | [] => upd fun s => s.finishOp id
  | b :: rest => do
    let st ← look fun s => s.annState part ctx b.i
    let gone ← look fun s => b.begun && s.partBad part ctx b
    if !b.lost && !b.begun then do
      let e ← bcasBegin part op.ts ctx ty b
      let (ta, _) ← homeTs part (b.x / 64)
      raisePts op.owner.core ta
      go ({ b with begun := true, bad := b.bad || e } :: rest) op.vals op.late (maxN op.ts ta)
    else if !b.lost && !gone && st = 1 then do
      let atY ← drawBool
      let e ← bcasStep part op.ts ctx b.i atY
      go ({ b with bad := b.bad || e } :: rest) op.vals op.late op.ts
    else do
      let (status, ts) ← bcasEnd part op.ts ctx op.owner.life ty b
      go rest (op.vals ++ b.refs.map fun r => (r, w64 status)) (bcasEcc ecc op.late { b with bad := b.bad || gone }) ts

/-! ## The walker (R407) -/

/-- A record applied by the walker: one step for a plain record, steps until STATE 2 for a `bcas`. -/
def walkRecord (part ctx i : Nat) : M Unit := do
  let obj ← look fun s => s.annGet part ctx i 32 8
  let op ← look fun s => s.annGet part ctx i 13 1
  let a ← look fun s => s.annAddr part ctx i
  meetLine (a / 64)
  let bad ← look fun s => s.annBad part ctx i
  let clk ← look fun s => ((s.part? part).map (·.clkmax)).getD 0
  if bad || op = 9 then pure ()
  else do
    meetLine (obj / 64)
    let _ ← helpLink part clk (obj / 64)
    let st ← look fun s => s.annState part ctx i
    if op = 8 && st = 1 then do
      let _ ← bcasDrive part clk ctx i 5
      pure ()
    else pure ()

/-- The announcement records in STATE 1 of a partition whose object lies in `n` bytes from an address: context and
index. -/
def State.recordsIn (s : State) (j : Nat) (p : Part) (base n : Nat) : List (Nat × Nat) :=
  ((List.range p.cfg.nctx).filter fun c => s.ctxValid p c).flatMap fun c =>
    ((List.range (s.annN j c)).map (· + 1)).filterMap fun i =>
      let obj := s.annGet j c i 32 8
      if s.annState j c i = 1 && decide (base ≤ obj) && decide (obj < base + n) then some (c, i) else none

/-- A record applied before its frame is freed or its leaf changes class (R407): an extension record through the
record it extends. -/
def settleRecord (j ctx i : Nat) : M Unit := do
  let op ← look fun s => s.annGet j ctx i 13 1
  let pair ← look fun s => s.annGet j ctx i 16 2
  walkRecord j ctx (if op = 9 then pair else i)

/-- ANN_WALKER_APPLY (R407): for a record that has stayed announced for 8,192 cycles. -/
def annWalkerApply (part ctx i : Nat) : M Unit := do
  let key := ctx * 65536 + i
  let since ← look fun s => (s.part? part).bind fun p => SMap.get? p.annSince key
  let st ← look fun s => s.annState part ctx i
  let now ← look fun s => s.cyc
  match since with
  | none => pure ()
  | some t =>
    if now < t + Config.walkerAge then pure ()
    else do
      if st = 1 then walkRecord part ctx i else pure ()
      upd fun s => s.updPart part fun p =>
        { p with walker := key, annSince := if s.annState part ctx i = 1 then p.annSince else SMap.del p.annSince key }

/-- `ann` (R409). -/
def execAnn (op : AOp) (f : Fields) (s : State) : Host.Outcome State Fault Refusal :=
  issue (.ann op f) (annBody op) s

/-- `help` (R410). -/
def execHelpObj (f : Fields) (s : State) : Host.Outcome State Fault Refusal :=
  issue (.helpObj f) (helpBody) s

/-- `collect` (R411). -/
def execCollect (f : Fields) (s : State) : Host.Outcome State Fault Refusal :=
  issue (.collect f) (collectBody) s

/-- `annq` (R412). -/
def execAnnq (f : Fields) (s : State) : Host.Outcome State Fault Refusal :=
  issue (.annq f) (annqBody) s

/-- `bcas` (R413). -/
def execBcas (f : Fields) (s : State) : Host.Outcome State Fault Refusal :=
  issue (.bcas f) (bcasBody) s

/-- ANN_WALKER_APPLY (R407). -/
def execAnnWalkerApply (part ctx idx : Nat) (s : State) : Host.Outcome State Fault Refusal :=
  event (annWalkerApply part ctx idx) s

end Sys2Proof.Machine
end

