-- ==== Sys2Proof/Machine/Append.lean ====
section
/-!
DEFINITION. Append and seal pages (OP 0x90, R124 to R132): the reservation of `append` and its answer,
the settled tail, and the seal.
-/

namespace Sys2Proof.Machine

/-! ## append -/

/-- Bytes from an address on that lie in ranges with some rights, at most `n` (R127). -/
def reachOf (rs : List Range) (rights : List Nat) (a n : Nat) : Nat → Nat
  | 0 => 0
  | fuel + 1 =>
    match rs.find? fun r => r.has a rights with
    | none => 0
    | some r =>
      let k := r.base + r.size - a
      if n ≤ k then n else k + reachOf rs rights (a + k) (n - k) fuel

/-- Bytes of the frame at `a` that a request of an issuer may write, one past E (R127). -/
def State.appendRoom (s : State) (w : Who) (a : Nat) : Nat :=
  if w.level = .firmware then 65536
  else
    let rs := s.leaseRanges w
    reachOf rs [rightW] a 65536 (rs.length + 1)

/-- The source of one lane read at issue (R127, R129), and whether one of its rows met an error just now (R475). -/
def appendSrc (g : Life) (b n : Nat) : M (AppendSrc × Bool) := do
  let rows ← collectM (pieces (spOff b) n) fun e => do
    let struck ← meetRow g (b - spOff b + e.1)
    let x ← readRow g (b - spOff b + e.1)
    pure ((e.1 - spOff b, e.2, ((x.bytes.drop (e.1 % 64)).take e.2), x.tag, x.poison), struck)
  let bad := rows.filter fun e => e.1.2.2.2.2
  pure
    ({ bytes := rows.flatMap fun e => if e.1.2.2.2.2 then List.replicate e.1.2.1 0 else e.1.2.2.1
       tags := rows.map fun e => e.1.2.2.2.1
       bad := bad.map fun e => (e.1.1, e.1.2.1) }, rows.any fun e => e.2)

/-- The faults of an `append` at issue (R128): alignment, lease, class, source. -/
def appendFault (s : State) (w : Who) (n : Nat) (at0 src : List Acc) : Option Trap :=
  let tagged (a : Acc) : Bool := ((s.peekLeaf w a.va).map leafT).getD false
  let t : Bool := at0.any tagged
  failing w kALIGN 1 at0 (fun a => decide (a.ea % 65536 ≠ 0)) <|>
    failing w kALIGN 1 at0 (fun _ => t && decide (n % 64 ≠ 0)) <|>
    failing w kALIGN 1 src (fun a => decide (a.ea % (if t then 64 else 4) ≠ 0)) <|>
    failing w kLEASE 1 at0 (fun a => !s.inLease w a.va 1 [rightW]) <|>
    failing w kLEASE 1 at0 (fun a => s.classAt w a = 4 || s.classAt w a = 5) <|>
    failing w kAPPENDLIM 2 at0 (fun a => decide (s.classAt w a ≠ 3)) <|>
    failing w kLEASE 3 src (fun a => spadBad (s.laneSpad w.life a.ea) a.ea n)

/-- `append` up to its request (R127): the gang waits for the answer. -/
def appendBody (w : Who) (f : Fields) : M Unit := do
  let (a, b) ← read2 w f.imm (srcPair f.sa) (srcRaw f.sb)
  let n := f.imm.toNat
  let lanes := accessLanes w f.dst
  let va := (a w.low).toNat
  let at0 : List Acc := lanes.map fun i => ⟨i, va, va⟩
  let src := spadAccs (fun i => (b i).toNat % 2 ^ 32) lanes
  let t ← look fun s => appendFault s w n at0 src
  check t
  commitTask w
  let pl ← placeOf w va
  let srcs ← collectM src fun x => do
    let g ← look fun s => s.laneSpad w.life x.ea
    match g with
    | none => pure ((⟨List.replicate n 0, [], []⟩ : AppendSrc), false)
    | some g => appendSrc g x.ea n
  lateNow w (eccuSp w (((src.zip srcs).filter fun e => e.2.2).map (·.1)))
  let room ← look fun s => s.appendRoom w va
  let from' ← look fun s => src.filterMap fun x => s.namedLife w.life (spCore x.ea)
  let pts ← ptsOf w.core
  let id ← startOp w
    (.append ⟨va, pl.pa / 65536 * 65536, n, lanes, w.act, srcs.map (·.1), from', f.dst, leafT pl.leaf,
      room, pl.entry.getD noEntry, w.young⟩)
    ((destRefs w f.dst false).map (·.2)) [] none pts []
  upd fun s => s.updGroup w.agent fun g => g.updQuads w.quads fun q => { q with await := some id }

/-! ## The home of a frame's record -/

/-- SETTLED of a record under the reservations that are not complete (R124), and the seal that completes
with it (R131). -/
def AppendRec.settle (r : AppendRec) (open' : List Nat) : AppendRec :=
  let s := open'.foldl minN r.tail
  { r with settled := s, st := if r.st = 1 && s = r.tail then 2 else r.st }

/-- Starts of the reservations of a frame that are not complete. -/
def State.openStarts (s : State) (part frame : Nat) : List Nat :=
  match s.part? part with
  | none => []
  | some p => (p.resvs.filter fun r => r.frame = frame).map (·.start)

/-- The fault with which the home answers a request (R127). -/
def grantFault (r : AppendReq) (a : AppendRec) : Option Trap :=
  let k := r.lanes.length
  let t (kind cause : Nat) : Option Trap :=
    some { kind := kind, cause := cause, mask := laneMask r.lanes, addr := r.va }
  if a.st = 1 || a.st = 2 then t kSEALED 0
  else if a.limit * 64 < a.tail + k * r.n then t kAPPENDLIM 1
  else if r.room < a.tail + k * r.n then t kLEASE 1
  else none

/-- The reservations of a grant made at the home (R124, R127): their numbers and the timestamp. -/
def grantAt (part clk launch ctx : Nat) (r : AppendReq) (a : AppendRec) : M (List Nat × Nat) := do
  let k := r.lanes.length
  let starts ← look fun s => s.openStarts part r.frame
  let starts := starts ++ (List.range k).map fun i => a.tail + i * r.n
  let ts ← appendWrite part clk r.frame ({ a with tail := a.tail + k * r.n }.settle starts)
  let ids ← collectM (List.range k) fun i => do
    let (id, t) ← look fun s => s.fresh
    upd fun _ => t.updPart part fun p =>
      { p with resvs := p.resvs ++
          [⟨id, launch, r.frame, a.tail + i * r.n, r.srcs.getD i ⟨[], [], []⟩, r.tagged, ctx, ts, r.entry,
            r.va, r.lanes.getD i 0⟩] }
    pure id
  pure (ids, ts)

/-- What a grant writes in the issuer's registers (R127): offsets in DST, and p14. -/
def grantRegs (r : AppendReq) (a : AppendRec) (g : Group) : Group :=
  let full (i : Nat) : Bool := a.tail + i * r.n + r.n = a.limit * 64
  match r.dst with
  | .s n =>
    (g.setScalar n.toNat (w32 a.tail)).updLanes r.act fun _ l => l.setPred 14 (full 0)
  | .v n =>
    ((List.range r.lanes.length).zip r.lanes).foldl (fun g e =>
      g.updLane e.2 fun l => (l.setReg n.toNat (w32 (a.tail + e.1 * r.n))).setPred 14 (full e.1)) g
  | _ => g

/-- The agent and issuer of an operation whose quad waits for its answer. -/
def State.awaiter (s : State) (id : Nat) (o : Owner) : Option Who :=
  let a : Option Agent := match s.ownerAt o with
    | .team t => some (.lane t o.src o.quad)
    | .handler => some (.handler o.core o.quad)
    | _ => none
  match a with
  | none => none
  | some a =>
    if ((s.group? a).map fun g => decide ((g.quad o.quad).await = some id)).getD false then s.who? a else none

/-- The gang of an answered `append` moved past it: one that a halt has reached stops there, and the `append`,
which it issued before the halt, is no skid (R129, R416). -/
def State.passedAppend (s : State) (w : Who) : State :=
  let s := s.updGroup w.agent fun g => g.passed w false true s.cyc false (s.nextAge w.core (w.g % 2))
  if s.halting w then (s.leaveClause w).noteHalt w else s

/-- APPEND_GRANT (R127): the home answers; the gang goes on, or its fault is taken at the `append`. -/
def appendGrant (id : Nat) : M Unit := do
  let op ← look fun s => SMap.get? s.ops id
  match op with
  | some ⟨owner, flag, .append r, dests, vals, late, ts, _, iaddr⟩ => do
    let part ← look fun s => (s.partOfCore owner.core).getD 0
    let rl ← look fun s => s.recLine part r.frame
    mergeLine part rl
    meetLine rl
    let a ← look fun s => s.frameRec part r.frame
    let who ← look fun s => s.awaiter id owner
    match grantFault r a with
    | some t => do
      upd fun s =>
        let s := { s with ops := SMap.del s.ops id }
        let s := s.updOwner owner
          (fun g => match flag with | none => g | some n => g.setFlag n (g.flag n - 1))
          fun p => p
        match who with
        | none => s
        | some w => s.raiseTrap w false t
    | none => do
      let of' ← look fun s => ((s.life? owner.life).map fun f => (f.launch, f.ctx)).getD (0, 0)
      let (ids, ts') ← grantAt part ts of'.1 of'.2 r a
      raisePts owner.core ts'
      let op' : Op := ⟨owner, flag, .appended r.lives, dests, vals, late, ts', ids.map .res, iaddr⟩
      upd fun s => { s with ops := SMap.put s.ops id op' }
      match who with
      | none => pure ()
      | some w => do
        upd fun s =>
          let s := s.updGroup w.agent fun g =>
            (grantRegs r a g).updQuads w.quads fun q => { q with await := none }
          s.passedAppend { w with young := r.young }
  | _ => pure ()

/-- Pieces of a reservation that write a part of a poisoned line: they write nothing (R477). -/
def State.lostPieces (s : State) (r : Resv) : List (Nat × Nat) :=
  (pieces r.start r.src.bytes.length).filter fun e =>
    decide (e.2 < 64) && s.isPoison ((r.frame + e.1) / 64) &&
      (r.tagged || !(r.src.bad.any fun b => overlaps (r.start + b.1) b.2 e.1 e.2))

/-- ECCU in the writing team for a reservation whose bytes were lost on a poisoned line (R160, R477): the first. -/
def State.lateLost (s : State) (r : Resv) : List (Nat × Nat) → State
  | [] => s
  | e :: _ => s.lateOn (.res r.id) { kind := kECCU, mask := laneMask [r.lane], addr := r.va + e.1 / 64 * 64 }

/-- RESERVATION_COMPLETE (R124, R129): a reservation's bytes and tags are all written at home, and SETTLED
moves in the same transaction. -/
def reservationComplete (part id : Nat) : M Unit := do
  let r ← look fun s => (s.part? part).bind fun p => p.resvs.find? fun r => r.id = id
  match r with
  | none => pure ()
  | some r => do
    setLeafBitAt part r.clk r.entry 7
    let ts ← collectM (pieces r.start r.src.bytes.length) fun e => do
      let l := (r.frame + e.1) / 64
      mergeLine part l
      if e.2 < 64 then meetLine l else pure ()
      stampWrite part l r.clk fun h => LineSt.dirtied { h with lastCore := none, lastMask := 0 } (some r.ctx)
    upd fun s =>
      let s := (s.lateLost r (s.lostPieces r)).landBytes part r
      s.updPart part fun p => { p with resvs := p.resvs.filter fun x => x.id ≠ id }
    let starts ← look fun s => s.openStarts part r.frame
    let a ← look fun s => s.frameRec part r.frame
    let last ← appendWrite part (ts.foldl maxN 0) r.frame (a.settle starts)
    upd fun s => s.waitOver (.res id) last

/-! ## tailr, seal, sealq -/

/-- A read of the record of the frame at `[a+b]` by lanes (R130, R132); `val` gives the result, and a page
that is no append page reads as ones. -/
def recordRead (val : AppendRec → Nat) (w : Who) (f : Fields) : M Unit := do
  let ea ← readEa w f
  let l ← look fun s => s.accs w false ea (accessLanes w f.dst)
  let t ← look fun s => failing w kLEASE 1 l fun a => !s.inLease w a.va 1 [rightR]
  check t
  let got ← collectM l fun x => do
    let pl ← placeOf w x.va
    let c := leafClass pl.leaf
    if c = 3 || c = 4 || c = 5 then do
      let r ← readRec w (pl.pa / 65536 * 65536)
      pure (x.lane, val r)
    else pure (x.lane, 2 ^ 32 - 1)
  let vals (i : Nat) : DWord := w64 (((got.find? fun e => e.1 = i).map (·.2)).getD 0)
  reserveDst w f.dst
  let pts ← ptsOf w.core
  let _ ← startOp w .load ((destRefs w f.dst false).map (·.2)) (landings w f.dst false false vals) none pts []
  pure ()

/-- What `sealq` returns of a record (R132). -/
def sealqValue (r : AppendRec) : Nat := if r.st = 3 then 2 ^ 32 - 1 else r.st * 2 ^ 30 + r.tail % 2 ^ 17

/-- The faults of `seal` (R131). -/
def sealFault (s : State) (w : Who) (l : List Acc) : Option Trap :=
  failing w kLEASE 1 l (fun a => !s.inLease w a.va 1 [rightW]) <|>
    failing w kLEASE 1 l (fun a => s.classAt w a = 4 || s.classAt w a = 5) <|>
    failing w kAPPENDLIM 2 l (fun a => decide (s.classAt w a ≠ 3))

/-- `seal` (R131): a commit point; the seal event at home. -/
def sealBody (w : Who) (f : Fields) : M Unit := do
  let ea ← readEa w f
  let l ← look fun s => s.accs w false ea (accessLanes w f.dst)
  let t ← look fun s => sealFault s w l
  check t
  commitTask w
  let got ← collectM l fun x => do
    let pl ← placeOf w x.va
    let frame := pl.pa / 65536 * 65536
    let rl ← look fun s => s.recLine w.part frame
    mergeLine w.part rl
    meetLine rl
    let r ← look fun s => s.frameRec w.part frame
    let starts ← look fun s => s.openStarts w.part frame
    if r.st = 0 then do
      let pts ← ptsOf w.core
      let ts ← appendWrite w.part pts frame ({ r with st := 1 }.settle starts)
      raisePts w.core ts
    else pure ()
    pure (x.lane, frame)
  let pairs := (dstRefs w f.dst).filterMap fun e =>
    (got.find? fun g => g.1 = e.1).map fun g => (e.2, g.2)
  reserveDst w f.dst
  let pts ← ptsOf w.core
  let _ ← startOp w (.seal pairs) ((destRefs w f.dst false).map (·.2)) [] none pts []
  pure ()

/-- SEAL_COMPLETION (R131): every frame that the operation seals has settled; the lengths return, with the
timestamp of the event that sealed the frame (R177, R181). -/
def sealComplete (id : Nat) : M Unit := do
  let op ← look fun s => SMap.get? s.ops id
  match op with
  | some ⟨owner, flag, .seal frames, dests, _, late, ts, waits, iaddr⟩ => do
    let part ← look fun s => (s.partOfCore owner.core).getD 0
    let done ← look fun s => frames.all fun e =>
      let r := s.frameRec part e.2
      decide (1 ≤ r.st) && decide (r.settled = r.tail)
    if !done then pure ()
    else do
      let tss ← collectM frames fun e => do
        let r ← look fun s => s.frameRec part e.2
        if r.st = 1 then appendWrite part ts e.2 { r with st := 2 }
        else do
          let rl ← look fun s => s.recLine part e.2
          let (wts, _) ← homeTs part rl
          pure wts
      upd fun s =>
        let vals := frames.map fun e => (e.1, w64 (s.frameRec part e.2).tail)
        let op' : Op := ⟨owner, flag, .seal frames, dests, vals, late, tss.foldl maxN ts, waits, iaddr⟩
        { s with ops := SMap.put s.ops id op' }.finishOp id
  | _ => pure ()

/-- `append` (R127). -/
def execAppendRow (f : Fields) (s : State) : Host.Outcome State Fault Refusal :=
  issueStay (.appendRow f) (appendBody) s

/-- `tailr` (R130). -/
def execTailr (f : Fields) (s : State) : Host.Outcome State Fault Refusal :=
  issue (.tailr f) (recordRead fun r => r.settled) s

/-- `seal` (R131). -/
def execSealPage (f : Fields) (s : State) : Host.Outcome State Fault Refusal :=
  issue (.sealPage f) (sealBody) s

/-- `sealq` (R132). -/
def execSealq (f : Fields) (s : State) : Host.Outcome State Fault Refusal :=
  issue (.sealq f) (recordRead sealqValue) s

/-- APPEND_GRANT (R127). -/
def execAppendGrant (op : Nat) (s : State) : Host.Outcome State Fault Refusal :=
  event (appendGrant op) s

/-- RESERVATION_COMPLETE (R124). -/
def execReservationComplete (part res : Nat) (s : State) : Host.Outcome State Fault Refusal :=
  event (reservationComplete part res) s

/-- SEAL_COMPLETION (R131). -/
def execSealCompletion (op : Nat) (s : State) : Host.Outcome State Fault Refusal :=
  event (sealComplete op) s

end Sys2Proof.Machine
end

