-- ==== Sys2Proof/Machine/Engine.lean ====
section
/-!
DEFINITION. What the copy and matrix engines do to memory and scratchpad: source blocks (R194 to R196),
destination lines (R183, R194, R195, R209, R210), counters (R198), and staging (R199).
-/

namespace Sys2Proof.Machine

open Config

/-! ## Source blocks -/

/-- A block that an engine cannot have. -/
def noBlock : Block := ⟨List.replicate 64 0, 0, true⟩

/-- The 64-byte block of memory that an engine reads at a place, on the tile path (R196): bytes, tag, poison,
and the command's clock after it. -/
def engineReadAt (w : Who) (clk va : Nat) (pl : Place) : M (Block × Nat) := do
  let line := pl.pa / 64
  let c := leafClass pl.leaf
  if c = 7 then do
    let (b, bad) ← peerRead w.part (64 * line) 64
    pure (⟨b, 0, bad⟩, clk)
  else if c = 6 then do
    let bad ← look fun s => s.poison6 w.part line
    let b ← fill6 w.part line false
    let ts ← deviceRead w.part clk (key6 w.part line)
    pure (⟨if bad then List.replicate 64 0 else b, 0, bad⟩, ts)
  else if c = 3 || c = 4 || c = 5 then do
    let ((d, g), settled, bad) ← settledPath w.part w.core line 0 true false
    let off := 64 * line % 65536
    pure (if bad then noBlock
      else ⟨settledBytes off settled d, if leafT pl.leaf && decide (off < settled) then g else 0, false⟩, clk)
  else do
    meetLine line
    let help ← if c = 2 then applyFirst w.part clk line else pure false
    let bad ← look fun s => s.isPoison line
    if bad || help then pure (noBlock, clk)
    else if c = 2 then do
      let ts ← deviceRead w.part clk line
      let b ← look fun s => s.bytes (64 * line) 64
      pure (⟨b, 0, false⟩, ts)
    else do
      let exact ← look fun s => s.inStable w va
      let (d, g) ← pathLine w.part w.core line true false exact
      pure (⟨d, if leafT pl.leaf then g else 0, false⟩, clk)

/-- The 64-byte block that an engine reads at a virtual address. DESIGN CHOICE: one in the twin window of a team that
has ended since the command was accepted, whose frames are the pool's again, cannot be had (log 51). -/
def engineRead (w : Who) (clk va : Nat) : M (Block × Nat) := do
  let pl ← tryPlace w (va / 64 * 64)
  match pl with
  | none => pure (noBlock, clk)
  | some pl => engineReadAt w clk va pl

/-- Blocks read once each, by block number. -/
def readBlocks (read : Nat → Nat → M (Block × Nat)) (clk : Nat) : List Nat → M (SMap Block × Nat)
  | [] => pure ([], clk)
  | b :: t => do
    let (x, clk) ← read clk b
    let (m, clk) ← readBlocks read clk t
    pure (SMap.put m b x, clk)

/-! ## Shadowed destinations (R210, R213) -/

/-- Whether an engine write of a command to an address of a shadowed page is held: its buffer's quiet
interval has not ended, or a publish of the buffer that was accepted before it has not taken place. -/
def State.shadowHeld (s : State) (w : Who) (id va : Nat) : Bool :=
  ((s.peekLeaf w va).map leafSH).getD false &&
    match s.shadow w.part w.ctx va with
    | none => false
    | some (d, _, _, base, _) =>
      decide (s.cyc < s.homeLe (d + 8) 8) ||
        ((s.part? w.part).map fun p => p.cmds.any fun c =>
          decide (c.form = .publish) && decide (c.id < id) && decide (c.ctx = w.ctx) &&
            decide (c.cr.addrd = base)).getD false

/-! ## Destination lines -/

/-- The physical address that an engine writes for a virtual one, and its leaf: on a shadowed page the
shadow frame, refreshed before the first write (R209). -/
def enginePlace (w : Who) (clk va : Nat) : M (Option Place) := do
  let pl ← tryPlace w va
  match pl with
  | none => pure none
  | some pl =>
    if !(leafSH pl.leaf) then pure (some pl)
    else do
      let sh ← look fun s => s.shadow w.part w.ctx va
      match sh with
      | none => pure (some pl)
      | some (d, a, _, _, _) => do
        let f ← shadowDest w.part clk (some w.ctx) d a (leafFrame pl.leaf)
        pure (some { pl with pa := f + va % 65536 })

/-- Bytes of the pieces of a line. -/
def partsBytes (parts : List (Nat × List Byte)) : Nat := (parts.map fun p => p.2.length).sum

/-- Whether the pieces of a line name every byte of it. -/
def wholeLine (parts : List (Nat × List Byte)) : Bool :=
  (List.range 64).all fun i => parts.any fun p => decide (p.1 % 64 ≤ i) && decide (i < p.1 % 64 + p.2.length)

/-- A line that takes nothing of an engine's write or addition, with its record of KIND 8 (R477, R479). -/
def engineDrop (w : Who) (clk : Nat) (pl : Place) : M (Nat × Bool) := do
  upd fun s => s.dropRec w.part pl.pa
  pure (clk, true)

/-- The D bit of a leaf set as an engine's write through it reaches home (R96). -/
def engineDirty (w : Who) (pl : Place) : M Unit := setLeafBit w.part w.core (pl.entry.getD noEntry) 7

/-- One destination line of memory written by an engine at a place (R183, R194 to R196). -/
def engineWriteAt (w : Who) (clk : Nat) (parts : List (Nat × List Byte)) (tag : Option (BitVec 16)) (bad : Bool)
    (pl : Place) : M (Nat × Bool) := do
  let base := pl.pa / 64 * 64
  let line := pl.pa / 64
  let put := parts.map fun q => (base + q.1 % 64, q.2)
  let whole := wholeLine parts
  let c := leafClass pl.leaf
  if c = 7 then
    let r ← if bad then do
        let no ← peerStorePoison w.part base
        pure [no]
      else collectM put fun q => peerStore w.part q.1 q.2
    if r.all id then pure () else engineDirty w pl
    pure (clk, r.any id)
  else if c = 6 then do
    let k := key6 w.part line
    let old ← look fun s => s.poison6 w.part line
    if bad then do
      let ts ← stampWrite w.part k clk id
      upd fun s => { s with hlcPoison := insertNat s.hlcPoison k }
      engineDirty w pl
      pure (ts, false)
    else if old && !whole then engineDrop w clk pl
    else do
      clearBad w.part base (if whole then 64 else 0)
      let ts ← collectM put fun q => write6 w.part clk w.core q.1 q.2
      engineDirty w pl
      pure (ts.foldl maxN clk, false)
  else do
    if whole then pure () else meetLine line
    let help ← if c = 2 then applyFirst w.part clk line else pure false
    let old ← look fun s => s.isPoison line
    let g := if leafT pl.leaf && decide (c ≠ 2) then tag else none
    if old && !whole && !bad then engineDrop w clk pl
    else do
      mergeLine w.part line
      let ts ← stampWrite w.part line clk fun h => LineSt.dirtied { h with lastCore := none, lastMask := 0 } (some w.ctx)
      engineDirty w pl
      if bad && g.isNone then upd fun s => (s.addPoison line).markDirty w.part base
      else upd fun s =>
        let s := if whole then s.freshLine line else s
        let s := put.foldl (fun s q => s.setBytes q.1 q.2) s
        let s := match g with | none => s | some t => s.setTag line (if bad then 0xFF else t)
        s.markDirty w.part base
      pure (ts, help)

/-- ONE DESTINATION LINE OF MEMORY written by an engine: pieces by virtual address, all in one line; the tag that the
block takes, if any; whether a source block could not be corrected. The command's clock after it, and whether a
poisoned line (R477), or one that the engine can no longer reach (log 51), took nothing. -/
def engineWrite (w : Who) (clk : Nat) (parts : List (Nat × List Byte)) (tag : Option (BitVec 16)) (bad : Bool) :
    M (Nat × Bool) := do
  match parts with
  | [] => pure (clk, false)
  | p :: _ => do
    let pl ← enginePlace w clk p.1
    match pl with
    | none => pure (clk, true)
    | some pl => engineWriteAt w clk parts tag bad pl

/-- ONE DESTINATION ROW OF SCRATCHPAD written by an engine (R194, R195, R488): pieces by scratchpad
address, all in one row; whether a poisoned row took nothing. -/
def rowWrite (g : Life) (parts : List (Nat × List Byte)) (tag : Option (BitVec 16)) (bad : Bool) : M Bool := do
  match parts with
  | [] => pure false
  | p :: _ => do
    let whole := wholeLine parts
    let old ← look fun s => s.spadPoison g p.1
    if bad && tag.isNone then do
      upd fun s => s.setSpadPoison g p.1 true
      pure false
    else if old && !whole then pure true
    else do
      upd fun s =>
        let s := parts.foldl (fun s q => s.setSpad g q.1 q.2) s
        let s := if whole then s.freshRow g p.1 else s
        match tag with
        | none => s
        | some t => s.setSpadTag g p.1 (if bad then 0xFF else t)
      pure false

/-- An addition to a byte counter at a place (R198): one atomic event at home. The command's clock after it, and
whether uncorrectable data was met. -/
def engineAddAt (w : Who) (clk n : Nat) (pl : Place) : M (Nat × Bool) := do
  let line := pl.pa / 64
  let sum (old : Nat) : List Byte := leBytesOf 8 (old + n)
  let c := leafClass pl.leaf
  if c = 7 then do
    let (_, bad) ← peerAtomic w.part pl.pa 8 .n64 .fadd n 0
    if bad then pure () else engineDirty w pl
    pure (clk, bad)
  else if c = 6 then do
    let bad ← look fun s => s.poison6 w.part line
    if bad then engineDrop w clk pl
    else do
      let _ ← atom6 w.part w.core pl.pa 8 fun old => old + n
      engineDirty w pl
      let (ts, _) ← homeTs w.part (key6 w.part line)
      pure (maxN clk ts, false)
  else do
    meetLine line
    let help ← if c = 2 then applyFirst w.part clk line else pure false
    let bad ← look fun s => s.isPoison line
    if bad then engineDrop w clk pl
    else do
      let old ← look fun s => s.homeLe pl.pa 8
      let ts ← deviceWrite w.part clk (some w.ctx) pl.pa (sum old)
      engineDirty w pl
      pure (ts, help)

/-- An addition to a byte counter (R198), where the engine can still reach it (log 51). -/
def engineAdd (w : Who) (clk va n : Nat) : M (Nat × Bool) := do
  let known ← tryPlace w va
  match known with
  | none => pure (clk, true)
  | some _ => do
    let (pl, _) ← storePlace w va false
    engineAddAt w clk n pl

/-! ## Staging (R199) -/

/-- Whether a line that is to be staged is over a team's footprint: its destination's line, or its counter's. -/
def State.stageOver (s : State) (t : Nat) (x : Team) (st : Staged) : Bool :=
  let new (y : Team) (l : Nat) : Bool := !(y.staged.any fun g => g.lines.contains l) && s.overFootprint t y l
  let y : Team := { x with staged := x.staged ++ [{ st with caddr := 0 }] }
  (!st.parts.isEmpty && new x (st.va / 64)) || (st.caddr ≠ 0 && new y (st.caddr / 64))

/-- Where the issuing task of a tentative command is. -/
def State.tentTeam (s : State) (o : Owner) : Option (Nat × Team) :=
  match s.ownerAt o with
  | .team t => (s.team? t).bind fun x => if x.mode = .tentative then some (t, x) else none
  | _ => none

/-- A line staged by a tentative task; over its footprint the task is aborted (R199, R367). -/
def stageLine (o : Owner) (st : Staged) (iaddr : Nat) : M Unit := do
  let x ← look fun s => s.tentTeam o
  match x with
  | none => pure ()
  | some (t, x) => do
    let full ← look fun s => s.stageOver t x st
    if full then
      upd fun s => s.abortSplit t
        { kind := kGRAIN, cause := 1, precise := true, src := o.src, unit := 0, mask := 0, iaddr := iaddr,
          addr := 0, info := [], newp := 0, lanes := 0, next := iaddr, nbase := iaddr, atStart := false }
    else upd fun s => s.updTeam t fun x => { x with staged := x.staged ++ [st] }

end Sys2Proof.Machine
end

