-- ==== Sys2Proof/Machine/Copy.lean ====
section
/-!
DEFINITION. The copy pool (OP 0xA0, R187 to R204): command records and their checks, acceptance, promises,
the units of a transfer, completion, missed promises, `pstat`, and `publish` (R211 to R213).
-/

namespace Sys2Proof.Machine

open Config

/-! ## Records (R189) -/

/-- A copy command record of 64 bytes (R189). -/
def CopyRec.ofBytes (b : List Byte) : CopyRec :=
  let n (o k : Nat) : Nat := leOf ((b.drop o).take k)
  ⟨n 56 8, n 48 8, n 40 8, n 36 4, n 32 4, n 28 4, n 24 4, n 16 8, BitVec.ofNat 8 (n 7 1), n 6 1, n 5 1⟩

def CopyRec.srcSp (r : CopyRec) : Bool := r.ctl.getLsbD 0
def CopyRec.dstSp (r : CopyRec) : Bool := r.ctl.getLsbD 1
def CopyRec.tags (r : CopyRec) : Bool := r.ctl.getLsbD 2
def CopyRec.miss (r : CopyRec) : Bool := r.ctl.getLsbD 3
def CopyRec.idxSp (r : CopyRec) : Bool := r.ctl.getLsbD 4
def CopyRec.idx64 (r : CopyRec) : Bool := r.ctl.getLsbD 5

/-- Width of an element of a form (R192); 1 for the forms without a TYPE. -/
def elemWidth (fm : CopyForm) (ty : Ty) : Nat :=
  match fm with
  | .gather | .scatter | .cfill => ty.bytes
  | _ => 1

/-- An address moved by an offset: modulo 2⁶⁴, and of a sum that is a scratchpad address bits [31:0], which R218 then
checks as any other (R189, R192). -/
def moveAddr (sp : Bool) (base : Nat) (off : Int) : Nat :=
  (((base : Nat) + off) % (if sp then 2 ^ 32 else 2 ^ 64 : Int)).toNat

/-- Address of the source side moved by an offset. -/
def CopyRec.srcAt (r : CopyRec) (off : Int) : Nat := moveAddr r.srcSp r.addrs off

/-- Address of the destination side moved by an offset. -/
def CopyRec.dstAt (r : CopyRec) (off : Int) : Nat := moveAddr r.dstSp r.addrd off

/-- The runs of source bytes of a command: address and length (R192). -/
def srcRuns (fm : CopyForm) (ty : Ty) (r : CopyRec) (idx : List Int) : List (Nat × Nat) :=
  let w := elemWidth fm ty
  match fm with
  | .cpy => [(r.srcAt 0, r.len)]
  | .cpy2d => (List.range r.rows).map fun i => (r.srcAt (i * r.spitch : Nat), r.len)
  | .gather => idx.map fun k => (r.srcAt (k * w), w)
  | .scatter => [(r.srcAt 0, idx.length * w)]
  | _ => []

/-- The runs of destination bytes of a command (R192). -/
def dstRuns (fm : CopyForm) (ty : Ty) (r : CopyRec) (idx : List Int) : List (Nat × Nat) :=
  let w := elemWidth fm ty
  match fm with
  | .cpy | .cfill => [(r.dstAt 0, r.len)]
  | .cpy2d => (List.range r.rows).map fun i => (r.dstAt (i * r.dpitch : Nat), r.len)
  | .gather => [(r.dstAt 0, idx.length * w)]
  | .scatter => idx.map fun k => (r.dstAt (k * w), w)
  | _ => []

/-! ## Checks (R191, R193, R194) -/

/-- A failed check of one issuer: its place in the order of R191, and the fault. -/
structure CmdFault where
  place : Nat
  kind : Nat
  cause : Nat
  addr : Nat
  deriving DecidableEq, Repr

/-- Whether a record meets the limits of R193 that do not depend on the index list's entries. -/
def copyLimits (fm : CopyForm) (ty : Ty) (r : CopyRec) : Bool :=
  let w := elemWidth fm ty
  let own : Bool := match fm with
    | .cpy => decide (r.len ≤ 2 ^ 31)
    | .cpy2d => decide (1 ≤ r.rows ∧ r.rows ≤ 65536 ∧ 1 ≤ r.len ∧ r.len ≤ 2 ^ 20 ∧ r.len ≤ r.spitch ∧ r.len ≤ r.dpitch)
    | .gather | .scatter =>
      decide (1 ≤ r.len ∧ r.len ≤ 4096 ∧ r.addri % (if r.idx64 then 8 else 4) = 0)
    | .cfill => decide (r.len % w = 0 ∧ r.len ≤ 2 ^ 31 ∧ r.addrd % w = 0)
    | _ => true
  let tagged : Bool := match fm with
    | .cpy => decide (r.len % 64 = 0 ∧ r.addrs % 64 = 0 ∧ r.addrd % 64 = 0)
    | .cpy2d => decide (r.len % 64 = 0 ∧ r.addrs % 64 = 0 ∧ r.addrd % 64 = 0 ∧ r.spitch % 64 = 0 ∧ r.dpitch % 64 = 0)
    | .gather | .scatter => decide (ty = .blk ∧ r.addrs % 64 = 0 ∧ r.addrd % 64 = 0)
    | .cfill => decide (r.len % 64 = 0 ∧ r.addrd % 64 = 0)
    | _ => true
  own && (!r.tags || tagged)

/-- Whether a form reads an index list. -/
def CopyForm.indexed (fm : CopyForm) : Bool := fm = .gather || fm = .scatter

/-- Bytes of an index list. -/
def CopyRec.listLen (r : CopyRec) : Nat := r.len * (if r.idx64 then 8 else 4)

/-- Checks 1 to 4 of R191 for one issuer: the record's place, the limits, the counter's alignment, the
index list. -/
def copyCheckA (s : State) (w : Who) (fm : CopyForm) (ty : Ty) (a : Nat) (r : CopyRec) : Option CmdFault :=
  if a % 64 ≠ 0 then some ⟨0, kALIGN, 1, a⟩
  else if spadBad (s.laneSpad w.life a) a 64 then some ⟨1, kLEASE, 3, a⟩
  else if !copyLimits fm ty r then some ⟨2, kALIGN, 2, a⟩
  else if r.addrc ≠ 0 && decide (r.addrc % 8 ≠ 0) then some ⟨3, kALIGN, 1, r.addrc⟩
  else if fm.indexed && r.idxSp then
    let l := r.addri % 2 ^ 32
    if spadBad (s.laneSpad w.life l) l r.listLen then some ⟨4, kLEASE, 3, l⟩ else none
  else if fm.indexed && !s.inLease w r.addri r.listLen [rightR] then some ⟨4, kLEASE, 1, r.addri⟩
  else none

/-- First bytes of the 64 KiB pages that a run touches. -/
def runPages (e : Nat × Nat) : List Nat :=
  if e.2 = 0 then []
  else (List.range ((e.1 + e.2 - 1) / 65536 - e.1 / 65536 + 1)).map fun i => maxN e.1 ((e.1 / 65536 + i) * 65536)

/-- The LEASE of a run of bytes of a command (R111), scratchpad or memory. -/
def runFault (s : State) (w : Who) (sp : Bool) (rights : List Nat) (e : Nat × Nat) : Option CmdFault :=
  if e.2 = 0 then none
  else if sp then (if spadBad (s.laneSpad w.life e.1) e.1 e.2 then some ⟨6, kLEASE, 3, e.1⟩ else none)
  else if s.inLease w e.1 e.2 rights then none
  else some ⟨6, kLEASE, 1, e.1⟩

/-- The class checks of written pages: classes 4 and 5, then STABLE, then SEALED (R194). -/
def pageFault (s : State) (w : Who) (pages : List Nat) : Option CmdFault :=
  let leaf (a : Nat) : DWord := (s.peekLeaf w a).getD 0
  let first (f : DWord → Bool) : Option Nat := pages.find? fun a => f (leaf a)
  (first fun e => leafClass e = 4 || leafClass e = 5).map (fun a => ⟨6, kLEASE, 1, a⟩) <|>
    (first fun e => w.level = .lane && leafS e).map (fun a => ⟨7, kSTABLE, 0, a⟩) <|>
    (first fun e => decide (leafClass e = 3)).map fun a => ⟨8, kSEALED, 0, a⟩

/-- Checks 5 to 7 of R191 for one issuer. -/
def copyCheckB (s : State) (w : Who) (fm : CopyForm) (ty : Ty) (a : Nat) (r : CopyRec) (idx : List Int) :
    Option CmdFault :=
  let n := elemWidth fm ty
  let src := srcRuns fm ty r idx
  let dst := dstRuns fm ty r idx
  let cnt : List (Nat × Nat) := if r.addrc = 0 then [] else [(r.addrc, 8)]
  (if fm.indexed && (decide (r.addrs % n ≠ 0) || decide (r.addrd % n ≠ 0)) then some ⟨5, kALIGN, 2, a⟩ else none) <|>
    src.findSome? (runFault s w r.srcSp [rightR]) <|>
    dst.findSome? (runFault s w r.dstSp [rightW]) <|>
    cnt.findSome? (runFault s w false [rightR, rightW]) <|>
    pageFault s w ((if r.dstSp then [] else dst.flatMap runPages) ++ cnt.flatMap runPages)

/-- The fault of several issuers: the earliest failed check, over all that fail it (R99, R191). -/
def firstFault (w : Who) (l : List (Nat × Option CmdFault)) : Option Trap :=
  let bad := l.filterMap fun e => e.2.map fun f => (e.1, f)
  let least := bad.foldl (fun m e => minN m e.2.place) 99
  match bad.filter fun e => e.2.place = least with
  | [] => none
  | e :: t =>
    let same := (e :: t).filter fun x => x.2.kind = e.2.kind && x.2.cause = e.2.cause
    some { kind := e.2.kind, cause := e.2.cause, mask := w.failMask (same.map (·.1)), addr := e.2.addr }

/-- The fault of a form that acts once for its gang (R99). -/
def gangFault (w : Who) (f : Option CmdFault) : Option Trap :=
  f.map fun f => { kind := f.kind, cause := f.cause, mask := w.failMask w.act, addr := f.addr }

/-! ## Reading records and lists (R190) -/

/-- 64 bytes of a record in scratchpad; zeros where the address is none. DESIGN CHOICE: R488 names no reading of a
record in a poisoned row; its bytes are read as they stand (log 47). -/
def State.recordBytes (s : State) (w : Who) (a : Nat) : List Byte :=
  match s.laneSpad w.life a with
  | none => List.replicate 64 0
  | some g => s.spadBytes g a 64

/-- Entries of an index list of `k` bytes each, sign-extended. -/
def entriesOf (k : Nat) : Nat → List Byte → List Int
  | 0, _ => []
  | n + 1, b => intOf true (8 * k) (leOf (b.take k)) :: entriesOf k n (b.drop k)

/-- The index list of a command (R190), read as its sources are. DESIGN CHOICE: data that cannot be corrected reads as
the row's bytes in scratchpad and as zeros in memory, and records nothing (log 47). -/
def indexList (w : Who) (r : CopyRec) : M (List Int) := do
  let k := if r.idx64 then 8 else 4
  let n := r.listLen
  let b ← if r.idxSp then do
      let l := r.addri % 2 ^ 32
      look fun s => match s.laneSpad w.life l with | none => List.replicate n 0 | some g => s.spadBytes g l n
    else do
      let pts ← ptsOf w.core
      let parts ← collectM (pieces r.addri n) fun e => do
        let (x, _) ← engineRead w pts e.1
        pure ((x.bytes.drop (e.1 % 64)).take e.2)
      pure parts.flatten
  pure (entriesOf k r.len b)

/-! ## Acceptance (R188, R191, R200) -/

/-- Outstanding copies and publishes of a partition (R188). -/
def State.poolUse (s : State) (part : Nat) : Nat :=
  ((s.part? part).map fun p => (p.cmds.filter fun c => c.ticket ≠ 0).length).getD 0

/-- A gang held before the instruction where its commands would exceed the pool (R188). -/
def poolRoom (w : Who) (n : Nat) : M Unit := do
  let u ← look fun s => s.poolUse w.part
  if maxCmds < u + n then stop .hold else pure ()

/-- Bytes that a command moves. -/
def moved (fm : CopyForm) (ty : Ty) (r : CopyRec) (idx : List Int) : Nat :=
  ((dstRuns fm ty r idx).map (·.2)).sum

/-- A ticket of the issuer's context. -/
def takeTicket (w : Who) : M Nat := do
  let (t, s) ← look fun s => s.newTicket w.part w.ctx
  upd fun _ => s
  pure t

/-- A fresh serial number. -/
def takeSerial : M Nat := do
  let (n, s) ← look fun s => s.fresh
  upd fun _ => s
  pure n

/-- The cycle before which a command's writes of some pages are held, as it stands at acceptance: QUIETEND of the
shadowed buffers among them, or the quiet interval that an outstanding publish of one begins (R210, R213). -/
def State.quietEnd (s : State) (w : Who) (pages : List Nat) : Nat :=
  pages.foldl (fun m a =>
    if !(((s.peekLeaf w a).map leafSH).getD false) then m
    else
      match s.shadow w.part w.ctx a with
      | none => m
      | some (d, _, _, base, _) =>
        let due : Bool := ((s.part? w.part).map fun p => p.cmds.any fun c =>
          decide (c.form = .publish) && decide (c.ctx = w.ctx) && decide (c.cr.addrd = base)).getD false
        maxN m (maxN (s.homeLe (d + 8) 8) (if due then s.cyc + Config.quiet else 0))) 0

/-- FREE VALUE: the promise of a command of some length (R200), not earlier than acceptance nor than the end of a
hold that its writes stand under (R210). -/
def takePromise (n held : Nat) : M Nat := do
  let now ← look fun s => s.cyc
  if n = 0 then pure now
  else do
    let x ← draw
    pure (maxN now held + promiseDelay n x)

/-- A COMMAND ACCEPTED (R191): its ticket in the record, its promise, and what its completion is waited
for; nothing waits for one that moves no byte (R193). DESIGN CHOICE: a ticket for a record whose row is poisoned is lost,
and nothing is recorded (log 56). -/
def acceptCopy (w : Who) (fm : CopyForm) (ty : Ty) (a : Nat) (r : CopyRec) (idx : List Int) :
    M (Nat × List Wait) := do
  let t ← takeTicket w
  let sp ← look fun s => s.laneSpad w.life a
  match sp with
  | none => pure ()
  | some g => do
    let _ ← spadWrite g (a + 12) (leBytesOf 4 t)
    pure ()
  let n := moved fm ty r idx
  let held ← look fun s => if r.dstSp then 0 else s.quietEnd w ((dstRuns fm ty r idx).flatMap runPages)
  let p ← takePromise n held
  if n = 0 then pure (p, [])
  else do
    let id ← takeSerial
    let pts ← ptsOf w.core
    let tent ← look fun s => decide (s.modeOf w = .tentative)
    let c : Cmd :=
      { id := id, ticket := t, ctx := w.ctx, launch := w.launch, owner := w.owner, form := fm, ty := ty, cr := r,
        idx := idx, st := .queued, promise := p, missed := false, raised := false, clk := pts, done := [],
        tentative := tent, savedAt := 0 }
    upd fun s => s.updPart w.part fun p => { p with cmds := p.cmds ++ [c] }
    pure (p, [.cmd id])

/-- A direct task commits before a command that writes memory is accepted (R199, R363). -/
def copyCommits (w : Who) (recs : List CopyRec) : M Unit :=
  if recs.any fun r => !r.dstSp || r.addrc ≠ 0 then leaveDirect w else pure ()

/-- The issuers of a copy form (R191). -/
def copyIssuers (w : Who) (dst : Opnd) : List Nat :=
  match dst with
  | .s _ | .k _ => w.actors.take 1
  | _ => w.actors

/-- The checks of copy commands of several issuers, and their index lists; nothing is accepted where one
fails (R191). -/
def copyChecks (w : Who) (fm : CopyForm) (ty : Ty) (l : List (Nat × Nat × CopyRec)) : M (List (List Int)) := do
  let t ← look fun s => firstFault w (l.map fun e => (e.1, copyCheckA s w fm ty e.2.1 e.2.2))
  check t
  let idx ← collectM l fun e => if fm.indexed then indexList w e.2.2 else pure []
  let t ← look fun s => firstFault w ((l.zip idx).map fun e =>
    (e.1.1, copyCheckB s w fm ty e.1.2.1 e.1.2.2 e.2))
  check t
  pure idx

/-- The scratchpad rows that copy commands of several issuers read at issue: their records and index lists (R190). -/
def copyTouches (w : Who) (fm : CopyForm) (l : List (Nat × Nat × CopyRec)) : M Unit := do
  touchRows w (l.map fun e => (e.1, e.2.1)) 64
  each l fun e =>
    if fm.indexed && e.2.2.idxSp then touchRows w [(e.1, e.2.2.addri % 2 ^ 32)] e.2.2.listLen else pure ()

/-- The five copy forms (R191). -/
def copyBody (fm : CopyForm) (w : Who) (f : Fields) : M Unit := do
  let a ← read1 w f.imm (srcRaw f.sa)
  let issuers := copyIssuers w f.dst
  poolRoom w issuers.length
  let l ← look fun s => issuers.map fun i =>
    let x := (a i).toNat % 2 ^ 32
    (i, x, CopyRec.ofBytes (s.recordBytes w x))
  let idx ← copyChecks w fm f.ty l
  copyCommits w (l.map fun e => e.2.2)
  let got ← collectM (l.zip idx) fun e => acceptCopy w fm f.ty e.1.2.1 e.1.2.2 e.2
  let vals (i : Nat) : DWord := w64 ((((issuers.zip got).find? fun e => e.1 = i).map (·.2.1)).getD 0)
  writeDst w f.dst true false vals
  copyTouches w fm l
  let pts ← ptsOf w.core
  let _ ← startOp w .engine [] [] none pts (got.flatMap fun e => e.2)
  pure ()

/-! ## The transfer -/

/-- One piece of a destination line: destination, source (its address, or an offset in the pattern of
`cfill`), bytes. -/
abbrev Piece := Nat × Nat × Nat

/-- Lines that a run of bytes touches. -/
def lineCount (a n : Nat) : Nat := if n = 0 then 0 else (a + n - 1) / 64 - a / 64 + 1

/-- The part of a run of `n` bytes at `a` that lies in its `i`-th line: offset in the run, and length. -/
def linePart (a n i : Nat) : Nat × Nat :=
  let lo := maxN a ((a / 64 + i) * 64)
  (lo - a, minN (a + n) ((a / 64 + i + 1) * 64) - lo)

/-- Distinct destination lines of a `scatter`, in order of their first element. -/
def scatterLines (c : Cmd) : List Nat :=
  c.idx.foldl (fun l k =>
    let x := c.cr.dstAt (k * (elemWidth c.form c.ty : Nat)) / 64
    if l.contains x then l else l ++ [x]) []

/-- Places that the destination lines of a command are numbered by. -/
def Cmd.places (c : Cmd) : Nat :=
  match c.form with
  | .cpy2d => c.cr.rows * (c.cr.len / 64 + 2)
  | .scatter => (scatterLines c).length
  | .flush l => l.length
  | .publish => 0
  | _ => lineCount (c.cr.dstAt 0) (moved c.form c.ty c.cr c.idx)

/-- Destination lines of a command. -/
def Cmd.units (c : Cmd) : Nat :=
  match c.form with
  | .cpy2d => ((dstRuns c.form c.ty c.cr c.idx).map fun e => lineCount e.1 e.2).sum
  | _ => c.places

/-- Elements of a `gather` under a part of its destination: each with what of it falls in the part. -/
def gatherPart (c : Cmd) (w off n : Nat) : List Piece :=
  let k0 := off / w
  (List.range ((off + n + w - 1) / w - k0)).filterMap fun j =>
    let k := k0 + j
    let lo := maxN off (k * w)
    let hi := minN (off + n) (k * w + w)
    if lo < hi then
      some (c.cr.dstAt (lo : Nat), c.cr.srcAt (c.idx.getD k 0 * (w : Nat) + ((lo - k * w : Nat) : Int)), hi - lo)
    else none

/-- The pieces of destination line `u` of a command, in the order in which they are written. -/
def Cmd.pieces (c : Cmd) (u : Nat) : List Piece :=
  let w := elemWidth c.form c.ty
  match c.form with
  | .cpy | .cfill =>
    if lineCount (c.cr.dstAt 0) c.cr.len ≤ u then []
    else
      let (o, n) := linePart (c.cr.dstAt 0) c.cr.len u
      [(c.cr.dstAt (o : Nat), if c.form = .cfill then o else c.cr.srcAt (o : Nat), n)]
  | .cpy2d =>
    let k := c.cr.len / 64 + 2
    let r := u / k
    let d := c.cr.dstAt (r * c.cr.dpitch : Nat)
    if c.cr.rows ≤ r || lineCount d c.cr.len ≤ u % k then []
    else
      let (o, n) := linePart d c.cr.len (u % k)
      [(d + o, c.cr.srcAt ((r * c.cr.spitch + o : Nat) : Int), n)]
  | .gather =>
    let d := c.cr.dstAt 0
    let total := c.idx.length * w
    if lineCount d total ≤ u then []
    else
      let (o, n) := linePart d total u
      gatherPart c w o n
  | .scatter =>
    match (scatterLines c)[u]? with
    | none => []
    | some line =>
      ((List.range c.idx.length).zip c.idx).filterMap fun e =>
        let d := c.cr.dstAt (e.2 * (w : Nat))
        if d / 64 = line then some (d, c.cr.srcAt ((e.1 * w : Nat) : Int), w) else none
  | _ => []

/-- The engine's read of a source block of a command, by block number (R196, R488). -/
def Cmd.readBlock (c : Cmd) (w : Who) (clk b : Nat) : M (Block × Nat) := do
  if c.cr.srcSp then do
    let g ← look fun s => s.cmdSpad c.owner.life (64 * b)
    match g with
    | none => pure (⟨List.replicate 64 0, 0, false⟩, clk)
    | some g => do
      let x ← readRow g (64 * b)
      pure (if x.poison then { x with bytes := List.replicate 64 0 } else x, clk)
  else engineRead w clk (64 * b)

/-- Source blocks of pieces. -/
def sourceBlocks (l : List Piece) : List Nat :=
  l.foldl (fun m p => (List.range (lineCount p.2.1 p.2.2)).foldl (fun m i => insertNat m (p.2.1 / 64 + i)) m) []

/-- Bytes of a run out of the blocks that hold it. -/
def fromBlocks (m : SMap Block) (a n : Nat) : List Byte :=
  (List.range n).map fun i =>
    ((SMap.get? m ((a + i) / 64)).map fun b => b.bytes.getD ((a + i) % 64) 0).getD 0

/-- The pattern of `cfill` from an offset. -/
def pattern (r : CopyRec) (w off n : Nat) : List Byte :=
  let p := leBytesOf w r.addrs
  (List.range n).map fun i => p.getD ((off + i) % w) 0

/-- Pieces of a line of which some byte remains, not written over by a later one (R197). -/
def lastPieces : List Piece → List Piece
  | [] => []
  | p :: l =>
    let rest := lastPieces l
    if (List.range p.2.2).any fun i => !(l.any fun q => q.1 ≤ p.1 + i && p.1 + i < q.1 + q.2.2) then p :: rest else rest

/-- What a line takes: its pieces with their bytes, its tag, the first source block that could not be corrected, and
whether bytes of such a block remain in the line (R194, R197). -/
def Cmd.lineData (c : Cmd) (w : Who) (clk : Nat) (l : List Piece) :
    M (List (Nat × List Byte) × Option (BitVec 16) × Option Nat × Bool × Nat) := do
  if c.form = .cfill then
    pure (l.map fun p => (p.1, pattern c.cr (elemWidth c.form c.ty) p.2.1 p.2.2),
      if c.cr.tags then some (BitVec.ofNat 16 c.cr.addri) else none, none, false, clk)
  else do
    let bl := sourceBlocks l
    let (m, clk) ← readBlocks (c.readBlock w) clk bl
    let spoilt (b : Nat) : Bool := ((SMap.get? m b).map (·.poison)).getD false
    let tag := match l.getLast? with
      | none => 0
      | some p => ((SMap.get? m (p.2.1 / 64)).map (·.tag)).getD 0
    pure (l.map fun p => (p.1, fromBlocks m p.2.1 p.2.2), if c.cr.tags then some tag else none,
      (bl.find? spoilt).map (64 * ·), (sourceBlocks (lastPieces l)).any spoilt, clk)

/-- A command changed in its partition's list. -/
def Part.updCmd (p : Part) (id : Nat) (f : Cmd → Cmd) : Part :=
  { p with cmds := p.cmds.map fun c => if c.id = id then f c else c }

/-- A command of a partition. -/
def State.cmd? (s : State) (part id : Nat) : Option Cmd :=
  (s.part? part).bind fun p => p.cmds.find? fun c => c.id = id

/-- ECCU of a command (R194, R198): recorded in its operation, with the block's address. -/
def cmdEccu (id : Nat) (addr : Nat) : M Unit :=
  upd fun s => s.lateOn (.cmd id) { kind := kECCU, addr := addr }

/-- The address of the instruction that started a command. -/
def State.waitIaddr (s : State) (x : Wait) : Nat :=
  (((s.ops.filter fun e => e.2.waits.contains x).getLast?).map fun e => e.2.iaddr).getD 0

/-- An engine write to memory, with its counter addition: made at once, staged, or discarded with its
tentative task (R198, R199). The command's clock after it. -/
def landOrStage (w : Who) (x : Wait) (owner : Owner) (tentative : Bool) (clk : Nat)
    (st : Staged) : M Nat := do
  if tentative then do
    let ia ← look fun s => s.waitIaddr x
    stageLine owner st ia
    pure clk
  else do
    let (clk, bad) ← engineWrite w clk st.parts st.tag st.bad
    if bad then upd fun s => s.lateOn x { kind := kECCU, addr := st.va } else pure ()
    if st.caddr = 0 then pure clk
    else do
      let (clk, bad) ← engineAdd w clk st.caddr st.cadd
      if bad then upd fun s => s.lateOn x { kind := kECCU, addr := st.caddr / 64 * 64 } else pure ()
      pure clk

/-- One destination line of a command moved (R183, R192 to R199). -/
def moveLine (part : Nat) (c : Cmd) (l : List Piece) : M Nat := do
  let w := engineWho part c.ctx c.launch c.owner
  let (parts, tag, bad, hurt, clk) ← c.lineData w c.clk l
  let n := partsBytes parts
  match bad with
  | some b => cmdEccu c.id b
  | none => pure ()
  let va := ((l.head?.map (·.1)).getD 0) / 64 * 64
  if c.cr.dstSp then do
    let g ← look fun s => s.cmdSpad c.owner.life va
    match g with
    | none => pure ()
    | some g => do
      let no ← rowWrite g parts tag hurt
      if no then cmdEccu c.id va else pure ()
    if c.cr.addrc = 0 then pure clk
    else landOrStage w (.cmd c.id) c.owner c.tentative clk ⟨c.cr.addrc, [], none, false, c.cr.addrc, n⟩
  else
    landOrStage w (.cmd c.id) c.owner c.tentative clk ⟨va, parts, tag, hurt, c.cr.addrc, n⟩

/-- Whether a line of a command is held by a shadowed buffer (R210, R213). -/
def State.lineHeld (s : State) (part : Nat) (c : Cmd) (va : Nat) : Bool :=
  !c.tentative && s.shadowHeld (engineWho part c.ctx c.launch c.owner) c.id va

/-- The destination of a command's line where it lies in memory. -/
def Cmd.lineVa (c : Cmd) (u : Nat) : Option Nat :=
  match c.form with
  | .flush l => (l[u]?).bind fun st => if st.parts.isEmpty then none else some st.va
  | .publish => none
  | _ => if c.cr.dstSp then none else (c.pieces u).head?.map (·.1)

/-- COPY_LINE_WRITE (R197, R203, R210): one more destination line of a running command. A line of a
shadowed buffer that is held leaves the command waiting. -/
def copyLineWrite (part id line : Nat) : M Unit := do
  let c ← look fun s => s.cmd? part id
  match c with
  | none => pure ()
  | some c => do
    let u := line % maxN c.places 1
    let held ← look fun s => ((c.lineVa u).map fun va => s.lineHeld part c va).getD false
    let idle ← look fun s => ((s.part? part).map fun p => decide (p.pstate ≠ 1 ∧ p.pstate ≠ 2)).getD true
    if c.st ≠ .running || c.done.contains u || idle then pure ()
    else if held then upd fun s => s.updPart part fun p => p.updCmd id fun c => { c with st := .waiting }
    else do
      let w := engineWho part c.ctx c.launch c.owner
      let clk ← match c.form with
        | .flush l =>
          match l[u]? with
          | none => pure c.clk
          | some st => landOrStage w (.cmd id) c.owner false c.clk st
        | _ =>
          let ps := c.pieces u
          if ps.isEmpty then pure c.clk else moveLine part c ps
      let real : Bool := match c.form with | .flush _ => true | _ => !(c.pieces u).isEmpty
      if real then
        upd fun s => s.updPart part fun p => p.updCmd id fun c => { c with clk := clk, done := c.done ++ [u] }
      else pure ()

/-- SHADOW_WRITE_RELEASE (R210): a command whose held line may proceed runs again. -/
def shadowRelease (part id : Nat) : M Unit := do
  let c ← look fun s => s.cmd? part id
  match c with
  | none => pure ()
  | some c => do
    let still ← look fun s =>
      match c.form with
      | .flush l => ((List.range l.length).zip l).all fun e => c.done.contains e.1 || s.lineHeld part c e.2.va
      | _ => (dstRuns c.form c.ty c.cr c.idx).all fun e => s.lineHeld part c e.1
    if c.st ≠ .waiting || c.form = .publish || still then pure ()
    else upd fun s => s.updPart part fun p => p.updCmd id fun c => { c with st := .running }

/-- Engines of a partition (R187): four in each unit. -/
def Part.engines (p : Part) : Nat := 4 * ((List.range 48).filter fun i => p.cfg.cemask.getLsbD i).length

/-- COPY_COMMAND_START (R188): a free engine takes the next accepted command of the partition. -/
def copyStart (part : Nat) : M Unit :=
  upd fun s => s.updPart part fun p =>
    let busy := (p.cmds.filter fun c => c.form ≠ .publish && (c.st = .running || c.st = .waiting) && c.ticket ≠ 0).length
    match p.cmds.find? fun c => c.st = .queued && c.form ≠ .publish with
    | none => p
    | some c => if busy < p.engines then p.updCmd c.id fun c => { c with st := .running } else p

/-- A command that is over leaves the pool, and what waits for it completes (R200). -/
def State.endCmd (s : State) (part id clk : Nat) : State :=
  (s.updPart part fun p => { p with cmds := p.cmds.filter fun c => c.id ≠ id }).waitOver (.cmd id) clk

/-- COPY_COMMAND_COMPLETION (R200): every line of a command has been written or staged. -/
def copyComplete (part id : Nat) : M Unit := do
  let c ← look fun s => s.cmd? part id
  match c with
  | none => pure ()
  | some c =>
    if c.form = .publish || c.st ≠ .running || c.done.length < c.units then pure ()
    else upd fun s => s.endCmd part id c.clk

/-! ## Missed promises (R201) -/

/-- Whether no agent of a team can run again: every group, the front context and every sequencer program has ended or
arrived. DESIGN CHOICE: a group all of whose lanes have arrived counts, its bound flags up or not (log 55). -/
def Team.spent (x : Team) : Bool :=
  (x.groups.all fun e => !e.2.live) && x.bins.isEmpty && !x.front.run && x.front.rdv.isNone && !x.mseq.run &&
    !x.cseq.run

/-- Whether the issuer of a command can still be stopped. -/
def State.canStop (s : State) (o : Owner) : Bool :=
  match s.ownerAt o with
  | .team t => ((s.team? t).map fun x => !x.spent).getD false
  | .saved k => ((SMap.get? s.saved k).map fun v => !v.team.spent).getD false
  | .handler | .below => true
  | .gone => false

/-- Whether a command has outlived its promise; one that a handler renewed does so once `$cyc` has reached the new
one (R201). -/
def Cmd.overdue (c : Cmd) (now : Nat) : Bool :=
  c.form ≠ .publish && c.ticket ≠ 0 && !c.raised && c.st ≠ .saved &&
    (decide (c.promise < now) || (c.missed && decide (c.promise ≤ now)))

/-- Whether the issuer of a command runs now: no fault, halt or save has stopped its team. -/
def State.runsNow (s : State) (o : Owner) : Bool :=
  match s.ownerAt o with
  | .team t => ((s.team? t).map fun x => x.fault.isNone && decide (x.run ≠ .halting)).getD false
  | .handler | .below => true
  | .saved _ | .gone => false

/-- The record of a missed promise (R201, R419). -/
def promiseRec (o : Owner) (iaddr ticket promise : Nat) : FaultRec :=
  { kind := kPROMISE, cause := 0, precise := false, src := o.src, unit := 0, mask := 0, iaddr := iaddr, addr := 0,
    info := [w32 ticket, 0, w32 promise, w32 (promise / 2 ^ 32)], newp := 0, lanes := 0, next := iaddr,
    nbase := 0, atStart := false }

/-- PROMISE of a command taken to its issuer, which runs (R201). -/
def State.promiseLate (s : State) (part : Nat) (c : Cmd) : State :=
  let s := s.updPart part fun q => q.updCmd c.id fun c => { c with missed := true, raised := true }
  s.takeLate c.owner (promiseRec c.owner (s.waitIaddr (.cmd c.id)) c.ticket c.promise)

/-- The overdue commands of an issuer that stands at a clause boundary (R201). -/
def State.dueLate (s : State) (w : Who) : State :=
  match s.part? w.part with
  | none => s
  | some p => (p.cmds.filter fun c => c.owner = { w.owner with quad := c.owner.quad } && !c.cr.miss && c.overdue s.cyc).foldl
      (fun s c => s.promiseLate w.part c) s

/-- PROMISE_MISS (R201): `$cyc` has passed an incomplete command's promise. The issuer of one that is to raise PROMISE
does so at its next clause boundary, or, where its team is not running, at the boundary from which it next runs, if
the command is still incomplete. -/
def promiseMiss (part id : Nat) : M Unit := do
  let c ← look fun s => s.cmd? part id
  let now ← look fun s => s.cyc
  match c with
  | none => pure ()
  | some c =>
    if !(c.overdue now) then pure ()
    else do
      let can ← look fun s => s.canStop c.owner
      let runs ← look fun s => s.runsNow c.owner
      if c.cr.miss || !can then do
        let p ← takePromise (moved c.form c.ty c.cr c.idx) 0
        upd fun s => s.updPart part fun q =>
          { q.updCmd id fun c => { c with promise := p, missed := true } with latecmd := q.latecmd + 1 }
      else if runs then upd fun s => s.promiseLate part c
      else upd fun s => s.updPart part fun q => q.updCmd id fun c => { c with missed := true }

/-! ## pstat (R204) -/

/-- What `pstat` reports of a ticket. -/
def State.pstat (s : State) (w : Who) (t : Nat) : Nat :=
  match (s.part? w.part).bind fun p => p.cmds.find? fun c => c.ctx = w.ctx && c.ticket = t && c.ticket ≠ 0 with
  | none => 0
  | some c =>
    let st := match c.st with | .queued => 1 | .running => 2 | .saved => 3 | .waiting => 4
    st * 2 ^ 29 + (if c.missed then 2 ^ 28 else 0) + (if c.form = .publish then 0 else minN c.done.length (2 ^ 28 - 1))

/-- `pstat` (R204). -/
def pstatBody (w : Who) (f : Fields) : M Unit := do
  let t ← read1 w f.imm (srcRaw f.sa)
  let v ← look fun s => fun i => s.pstat w ((t i).toNat % 2 ^ 32)
  writeWord w f.dst fun i => w32 (v i)

/-! ## publish (R211 to R213) -/

/-- The faults of `publish` at one address (R212). -/
def publishFault (s : State) (w : Who) (a : Nat) : Option CmdFault :=
  if a % 65536 ≠ 0 then some ⟨1, kALIGN, 1, a⟩
  else
    let sh : Bool := ((s.peekLeaf w a).map leafSH).getD false
    match s.shadow w.part w.ctx a with
    | none => some ⟨2, kLEASE, 1, a⟩
    | some (_, _, _, base, n) =>
      if base = a && sh && s.inLease w a (65536 * n) [rightW] then none else some ⟨2, kLEASE, 1, a⟩

/-- A PUBLISH ACCEPTED (R211): its ticket, and the number of the command that waits for its event. -/
def acceptPublish (w : Who) (a : Nat) : M (Nat × Nat) := do
  let t ← takeTicket w
  let id ← takeSerial
  let pts ← ptsOf w.core
  let c : Cmd :=
    { id := id, ticket := t, ctx := w.ctx, launch := w.launch, owner := w.owner, form := .publish, ty := .blk,
      cr := ⟨0, 0, a, 0, 1, 0, 0, 0, 0, 0, 0⟩, idx := [], st := .waiting, promise := 0, missed := false, raised := false,
      clk := pts, done := [], tentative := false, savedAt := 0 }
  upd fun s => s.updPart w.part fun p => { p with cmds := p.cmds ++ [c] }
  pure (t, id)

/-- `publish` (R211). -/
def publishBody (w : Who) (f : Fields) : M Unit := do
  let a ← read1 w f.imm (srcPair f.sa)
  let issuers := copyIssuers w f.dst
  poolRoom w issuers.length
  let l := issuers.map fun i => (i, (a i).toNat)
  let t ← look fun s => firstFault w (l.map fun e => (e.1, publishFault s w e.2))
  check t
  commitTask w
  let got ← collectM l fun e => acceptPublish w e.2
  let vals (i : Nat) : DWord := w64 ((((issuers.zip got).find? fun e => e.1 = i).map (·.2.1)).getD 0)
  writeDst w f.dst false false vals
  let pts ← ptsOf w.core
  let _ ← startOp w .engine [] [] none pts (got.map fun e => .cmd e.2)
  pure ()

/-- Whether a command's destination lies in pages [base, base + 64 KiB·n). -/
def Cmd.touches (c : Cmd) (base n : Nat) : Bool :=
  match c.form with
  | .flush l => l.any fun st => !st.parts.isEmpty && overlaps st.va 64 base (65536 * n)
  | .publish => decide (c.cr.addrd = base)
  | _ => !c.cr.dstSp && (dstRuns c.form c.ty c.cr c.idx).any fun e => overlaps e.1 e.2 base (65536 * n)

/-- Whether a matrix command writes memory in pages [base, base + 64 KiB·n). -/
def MCmd.touches (m : MCmd) (base n : Nat) : Bool :=
  match m.form with
  | .mcvt ty _ c d => c.getLsbD 16 && overlaps d.toNat (256 * ty.bytes) base (65536 * n)
  | _ => false

/-- Whether what a publish waits for has not all taken place (R211, R213). -/
def State.publishBlocked (s : State) (part : Nat) (c : Cmd) (base n : Nat) : Bool :=
  ((s.part? part).map fun p => p.cmds.any fun x => x.ctx = c.ctx && decide (x.id < c.id) && x.touches base n).getD false ||
    (s.cores.any fun e => e.2.mq.any fun m =>
      decide (m.id < c.id) && m.touches base n && ((s.launch? m.launch).map fun l =>
        decide (l.part = part ∧ l.ctx = c.ctx)).getD false)

/-- PUBLISH_EVENT (R211). -/
def publishEvent (part id : Nat) : M Unit := do
  let c ← look fun s => s.cmd? part id
  match c with
  | none => pure ()
  | some c => do
    let sh ← look fun s => s.shadow part c.ctx c.cr.addrd
    match sh with
    | none => pure ()
    | some (d, _, _, base, n) => do
      let wait ← look fun s => s.publishBlocked part c base n
      if c.form ≠ .publish || c.st = .saved || wait then pure ()
      else do
        let tp ← publishAt part c.ctx c.clk [d]
        upd fun s => s.endCmd part id tp

/-- `cpy` (R191). -/
def execCpy (f : Fields) (s : State) : Host.Outcome State Fault Refusal :=
  issue (.cpy f) (copyBody .cpy) s

/-- `cpy2d` (R191). -/
def execCpy2d (f : Fields) (s : State) : Host.Outcome State Fault Refusal :=
  issue (.cpy2d f) (copyBody .cpy2d) s

/-- `gather` (R191). -/
def execGather (f : Fields) (s : State) : Host.Outcome State Fault Refusal :=
  issue (.gather f) (copyBody .gather) s

/-- `scatter` (R191). -/
def execScatter (f : Fields) (s : State) : Host.Outcome State Fault Refusal :=
  issue (.scatter f) (copyBody .scatter) s

/-- `cfill` (R191). -/
def execCfill (f : Fields) (s : State) : Host.Outcome State Fault Refusal :=
  issue (.cfill f) (copyBody .cfill) s

/-- `publish` (R211). -/
def execPublish (f : Fields) (s : State) : Host.Outcome State Fault Refusal :=
  issue (.publish f) (publishBody) s

/-- `pstat` (R204). -/
def execPstat (f : Fields) (s : State) : Host.Outcome State Fault Refusal :=
  issue (.pstat f) (pstatBody) s

/-- COPY_COMMAND_START (R188). -/
def execCopyCommandStart (part : Nat) (s : State) : Host.Outcome State Fault Refusal :=
  event (copyStart part) s

/-- COPY_LINE_WRITE (R197). -/
def execCopyLineWrite (part cmd line : Nat) (s : State) : Host.Outcome State Fault Refusal :=
  event (copyLineWrite part cmd line) s

/-- SHADOW_WRITE_RELEASE (R210). -/
def execShadowWriteRelease (part cmd : Nat) (s : State) : Host.Outcome State Fault Refusal :=
  event (shadowRelease part cmd) s

/-- COPY_COMMAND_COMPLETION (R200). -/
def execCopyCommandCompletion (part cmd : Nat) (s : State) : Host.Outcome State Fault Refusal :=
  event (copyComplete part cmd) s

/-- PROMISE_MISS (R201). -/
def execPromiseMiss (part cmd : Nat) (s : State) : Host.Outcome State Fault Refusal :=
  event (promiseMiss part cmd) s

/-- PUBLISH_EVENT (R211). -/
def execPublishEvent (part cmd : Nat) (s : State) : Host.Outcome State Fault Refusal :=
  event (publishEvent part cmd) s

end Sys2Proof.Machine
end

