-- ==== Sys2Proof/WellFormed.lean ====
section
/-!
DEFINITION. Which terms are instructions of the hardware: the checks of R51 that a word alone
decides. Events carry no word and are well formed as they stand.
-/

namespace Sys2Proof

/-- An instruction whose word passes every check of R51 that its issuer does not decide. -/
def Instr.wellFormed (i : Instr) : Bool :=
  match form i with
  | none => true
  | some _ => (staticCheck i).isNone

/-- A header that R31 accepts. -/
def Header.wellFormed (h : Header) : Bool :=
  let flag (x : Option (BitVec 4)) : Bool := match x with | none => true | some n => decide (n.toNat < 12)
  h.count ≠ 0 && flag h.seta && flag h.setb && (h.setb.isNone || h.seta.isSome) && h.yieldpol ≠ 3

end Sys2Proof
end

