-- ==== Sys2Proof/Decode.lean ====
section
/-!
DEFINITION. Decoding: the 96-bit instruction word and the clause header (R16, R30), the fate of the
words that are no instruction (R51), and the encoder written from the same fields.
-/

namespace Sys2Proof

/-- The 96-bit word of three memory words, word 0 lowest (R16). -/
def word96 (w0 w1 w2 : BitVec 32) : BitVec 96 := w2 ++ w1 ++ w0

/-- The little-endian number of a byte string (R2). -/
def leNat : List Byte → Nat
  | [] => 0
  | b :: bs => b.toNat + 256 * leNat bs

/-- The first `n` bytes of a number, little-endian (R2). -/
def leBytes : Nat → Nat → List Byte
  | 0, _ => []
  | n + 1, x => BitVec.ofNat 8 x :: leBytes n (x / 256)

/-- Source type of a `cvt` from its FN: codes 0 to 11 and 14 (R48). -/
def cvtSource (fn : Nat) : Option Ty :=
  if fn ≤ 11 || fn = 14 then Ty.ofCode fn else none

/-- The instructions of OP 0x00 (R48). -/
def controlOf (fn : Nat) (f : Fields) : Option Instr :=
  match fn with
  | 0x00 => some (.nop f)
  | 0x01 => some (.bra f)
  | 0x02 => some (.brx f)
  | 0x03 => some (.jmpx f)
  | 0x04 => some (.call f)
  | 0x05 => some (.callx f)
  | 0x06 => some (.ret f)
  | 0x07 => some (.exitLane f)
  | 0x08 => some (.reform f)
  | 0x09 => some (.regang f)
  | 0x0A => some (.yieldGang f)
  | 0x0B => some (.sleepto f)
  | 0x0C => some (.ipref f)
  | 0x0D => some (.decide f)
  | 0x0E => some (.bru f)
  | 0x0F => some (.fork f)
  | _ => none

/-- The instructions of OP 0x10 (R48). -/
def arithOf (fn : Nat) (f : Fields) : Option Instr :=
  match fn with
  | 0x00 => some (.add f)
  | 0x01 => some (.sub f)
  | 0x02 => some (.addc f)
  | 0x03 => some (.mul f)
  | 0x04 => some (.mulhi f)
  | 0x05 => some (.mad f)
  | 0x06 => some (.madhi f)
  | 0x07 => some (.min f)
  | 0x08 => some (.max f)
  | 0x09 => some (.abs f)
  | 0x0A => some (.neg f)
  | _ => none

/-- The instructions of OP 0x11 (R48). -/
def logicOf (fn : Nat) (f : Fields) : Option Instr :=
  match fn with
  | 0x00 => some (.andb f)
  | 0x01 => some (.orb f)
  | 0x02 => some (.xorb f)
  | 0x03 => some (.notb f)
  | 0x04 => some (.andn f)
  | 0x05 => some (.shl f)
  | 0x06 => some (.shr f)
  | 0x07 => some (.sar f)
  | 0x08 => some (.rol f)
  | _ => none

/-- The instructions of OP 0x12 (R48). -/
def bitsOf (fn : Nat) (f : Fields) : Option Instr :=
  match fn with
  | 0x00 => some (.bfx f)
  | 0x01 => some (.bfi f)
  | 0x02 => some (.popc f)
  | 0x03 => some (.clz f)
  | 0x04 => some (.ctz f)
  | 0x05 => some (.brev f)
  | 0x06 => some (.bperm f)
  | _ => none

/-- The instructions of OP 0x20 (R48). -/
def predOf (fn : Nat) (f : Fields) : Option Instr :=
  match fn with
  | 0x00 => some (.sel f)
  | 0x01 => some (.setp f)
  | 0x02 => some (.pand f)
  | 0x03 => some (.por f)
  | 0x04 => some (.pxor f)
  | 0x05 => some (.pnot f)
  | _ => none

/-- The instructions of OP 0x21 (R48). -/
def moveOf (fn : Nat) (f : Fields) : Option Instr :=
  match fn with
  | 0x00 => some (.mov f)
  | 0x01 => some (.movi f)
  | 0x02 => some (.lea f)
  | 0x03 => some (.srd f)
  | 0x04 => some (.swr f)
  | _ => none

/-- The instructions of OP 0x30 (R48). -/
def floatOf (fn : Nat) (f : Fields) : Option Instr :=
  match fn with
  | 0x00 => some (.fadd f)
  | 0x01 => some (.fsub f)
  | 0x02 => some (.fmul f)
  | 0x03 => some (.ffma f)
  | 0x04 => some (.fmin f)
  | 0x05 => some (.fmax f)
  | 0x06 => some (.fneg f)
  | 0x07 => some (.fsetp f)
  | 0x08 => some (.fclass f)
  | 0x09 => some (.frnd f)
  | 0x0A => some (.fscale f)
  | 0x0B => some (.fdot2 f)
  | _ => none

/-- The instructions of OP 0x40 (R48). -/
def transcOf (fn : Nat) (f : Fields) : Option Instr :=
  match fn with
  | 0x00 => some (.frcp f)
  | 0x01 => some (.frsq f)
  | 0x02 => some (.fsqrt f)
  | 0x03 => some (.fexp2 f)
  | 0x04 => some (.flog2 f)
  | 0x05 => some (.fsin f)
  | 0x06 => some (.fcos f)
  | 0x07 => some (.ftanh f)
  | _ => none

/-- The instructions of OP 0x51 (R48). -/
def blockOf (fn : Nat) (f : Fields) : Option Instr :=
  match fn with
  | 0x00 => some (.cvt8 f)
  | 0x01 => some (.bpack f)
  | 0x02 => some (.bunpack f)
  | 0x03 => some (.bscale f)
  | 0x04 => some (.btagr f)
  | 0x05 => some (.btagw f)
  | _ => none

/-- The instructions of OP 0x60 (R48). -/
def exchangeOf (fn : Nat) (f : Fields) : Option Instr :=
  match fn with
  | 0x00 => some (.shfl f)
  | 0x01 => some (.vote f)
  | 0x02 => some (.ballot f)
  | 0x03 => some (.redadd f)
  | 0x04 => some (.redmax f)
  | 0x05 => some (.scan f)
  | _ => none

/-- The instructions of OP 0x70 (R48). -/
def scratchOf (fn : Nat) (f : Fields) : Option Instr :=
  match fn with
  | 0x00 => some (.lds f)
  | 0x01 => some (.sts f)
  | 0x02 => some (.bankmode f)
  | 0x03 => some (.qcfg f)
  | 0x04 => some (.qstat f)
  | 0x05 => some (.qdrain f)
  | _ => none

/-- The instructions of OP 0x80 (R48). -/
def memoryOf (fn : Nat) (f : Fields) : Option Instr :=
  match fn with
  | 0x00 => some (.ld f)
  | 0x01 => some (.st f)
  | 0x02 => some (.ldc f)
  | 0x03 => some (.ldt f)
  | 0x04 => some (.pref f)
  | 0x05 => some (.pathfence f)
  | 0x06 => some (.probe f)
  | 0x07 => some (.cwb f)
  | _ => none

/-- The instructions of OP 0x90 (R48). -/
def appendOf (fn : Nat) (f : Fields) : Option Instr :=
  match fn with
  | 0x00 => some (.appendRow f)
  | 0x01 => some (.tailr f)
  | 0x02 => some (.sealPage f)
  | 0x03 => some (.sealq f)
  | _ => none

/-- The instructions of OP 0xA0 (R48). -/
def copyOf (fn : Nat) (f : Fields) : Option Instr :=
  match fn with
  | 0x00 => some (.cpy f)
  | 0x01 => some (.cpy2d f)
  | 0x02 => some (.gather f)
  | 0x03 => some (.scatter f)
  | 0x04 => some (.cfill f)
  | 0x05 => some (.publish f)
  | 0x06 => some (.pstat f)
  | _ => none

/-- The instructions of OP 0xB0 (R48). -/
def gongOf (fn : Nat) (f : Fields) : Option Instr :=
  match fn with
  | 0x00 => some (.gset f)
  | 0x01 => some (.garm f)
  | 0x02 => some (.sign f)
  | 0x03 => some (.gstat f)
  | _ => none

/-- The instructions of OP 0xB1 (R48). -/
def mmaOf (fn : Nat) (f : Fields) : Option Instr :=
  match fn with
  | 0x00 => some (.mmaRr f)
  | 0x01 => some (.mmaRs f)
  | 0x02 => some (.mmaSr f)
  | 0x03 => some (.mmaSs f)
  | _ => none

/-- The instructions of OP 0xB2 (R48). -/
def accOf (fn : Nat) (f : Fields) : Option Instr :=
  match fn with
  | 0x00 => some (.mzero f)
  | 0x01 => some (.mscale f)
  | 0x02 => some (.mcvt f)
  | _ => none

/-- The instructions of OP 0xC0 (R48). -/
def taskOf (fn : Nat) (f : Fields) : Option Instr :=
  match fn with
  | 0x00 => some (.launch f)
  | 0x01 => some (.spawn f)
  | 0x02 => some (.phase f)
  | 0x03 => some (.taskend f)
  | 0x04 => some (.commit f)
  | 0x05 => some (.alloc f)
  | 0x06 => some (.claim f)
  | 0x07 => some (.releaseRegs f)
  | _ => none

/-- The instructions of OP 0xD1 (R48). -/
def helpOf (fn : Nat) (f : Fields) : Option Instr :=
  match fn with
  | 0x00 => some (.helpObj f)
  | 0x01 => some (.collect f)
  | 0x02 => some (.annq f)
  | 0x03 => some (.bcas f)
  | _ => none

/-- The instructions of OP 0xE0 (R48). -/
def systemOf (fn : Nat) (f : Fields) : Option Instr :=
  match fn with
  | 0x00 => some (.trap f)
  | 0x01 => some (.trapret f)
  | 0x02 => some (.hwin f)
  | 0x03 => some (.hwrd f)
  | 0x04 => some (.hwwr f)
  | 0x05 => some (.dispose f)
  | 0x06 => some (.ctxsave f)
  | 0x07 => some (.ctxload f)
  | 0x08 => some (.tlbinv f)
  | _ => none

/-- The instruction of an OP and an FN (R48, R49). -/
def ofOpFn (op fn : Nat) (f : Fields) : Option Instr :=
  match op with
  | 0x00 => controlOf fn f
  | 0x10 => arithOf fn f
  | 0x11 => logicOf fn f
  | 0x12 => bitsOf fn f
  | 0x20 => predOf fn f
  | 0x21 => moveOf fn f
  | 0x30 => floatOf fn f
  | 0x40 => transcOf fn f
  | 0x50 => (cvtSource fn).map fun t => .cvt t f
  | 0x51 => blockOf fn f
  | 0x60 => exchangeOf fn f
  | 0x70 => scratchOf fn f
  | 0x71 => (AOp.ofCode fn).map fun o => .atoms o f
  | 0x80 => memoryOf fn f
  | 0x81 => (AOp.ofCode fn).map fun o => .atom o f
  | 0x90 => appendOf fn f
  | 0xA0 => copyOf fn f
  | 0xB0 => gongOf fn f
  | 0xB1 => mmaOf fn f
  | 0xB2 => accOf fn f
  | 0xC0 => taskOf fn f
  | 0xD0 => (AOp.ofCode fn).map fun o => .ann o f
  | 0xD1 => helpOf fn f
  | 0xE0 => systemOf fn f
  | _ => none

/-- The fields of a word beyond OP and FN (R16, R28); absent where TYPE is 15 or an operand field has
no legal class and index. -/
def fieldsOf (w : BitVec 96) : Except Illegal Fields :=
  match Ty.ofCode (w.extractLsb' 40 4).toNat with
  | none => .error .badType
  | some ty =>
    match Opnd.ofCode (w.extractLsb' 66 11), Opnd.ofCode (w.extractLsb' 55 11),
      Opnd.ofCode (w.extractLsb' 44 11) with
    | some d, some a, some b =>
      .ok {
        neg := w.getLsbD 81
        pred := w.extractLsb' 77 4
        dst := d
        sa := a
        sb := b
        ty := ty
        reuseA := w.getLsbD 39
        reuseB := w.getLsbD 38
        yield := w.getLsbD 37
        cache := Cache.ofCode (w.extractLsb' 35 2)
        mod := w.extractLsb' 32 3
        imm := w.extractLsb' 0 32 }
    | _, _, _ => .error .badOperand

/-- The instruction of a word in a clause slot, or why it is none (R51). Total on every word. -/
def decode (w : BitVec 96) : Except Illegal Instr :=
  match fieldsOf w with
  | .error e => .error e
  | .ok f =>
    match ofOpFn (w.extractLsb' 88 8).toNat (w.extractLsb' 82 6).toNat f with
    | none => .error .unlisted
    | some i =>
      match staticCheck i with
      | some e => .error e
      | none => .ok i

/-- The instruction of twelve bytes of memory (R16). -/
def decodeBytes (bs : List Byte) : Except Illegal Instr :=
  decode (BitVec.ofNat 96 (leNat (bs.take 12)))

/-- A flag or queue number with its valid bit: absent and zero, or valid (R31). -/
def headerField (valid : Bool) (x : BitVec 4) : Option (Option (BitVec 4)) :=
  if valid then some (some x) else if x = 0 then some none else none

/-- Whether a valid flag field names a flag f0 to f11 (R31). -/
def flagNamed (x : Option (BitVec 4)) : Bool :=
  match x with
  | none => true
  | some n => decide (n.toNat < 12)

/-- The clause header of a word, absent where R31 or R33 make it ILLEGAL. -/
def decodeHeader (w : BitVec 96) : Option Header :=
  if w.extractLsb' 88 8 ≠ 0xFF#8 || w.extractLsb' 0 48 ≠ 0 then none
  else
    match headerField (w.getLsbD 71) (w.extractLsb' 67 4),
      headerField (w.getLsbD 66) (w.extractLsb' 62 4),
      headerField (w.getLsbD 61) (w.extractLsb' 57 4) with
    | some a, some b, some q =>
      if w.extractLsb' 84 4 = 0 || !flagNamed a || !flagNamed b || (b.isSome && a.isNone) ||
          w.extractLsb' 55 2 = 3#2 then none
      else
        some {
          count := w.extractLsb' 84 4
          wait := w.extractLsb' 72 12
          seta := a
          setb := b
          parkq := q
          yieldpol := w.extractLsb' 55 2
          reconv := w.getLsbD 54
          ganghint := w.extractLsb' 48 6 }
    | _, _, _ => none

/-- One bit. -/
def bit1 (b : Bool) : BitVec 1 := if b then 1#1 else 0#1

/-- The word of an OP, an FN and fields (R16, R28). -/
def packWord (op : BitVec 8) (fn : BitVec 6) (f : Fields) : BitVec 96 :=
  op ++ fn ++ bit1 f.neg ++ f.pred ++ f.dst.code ++ f.sa.code ++ f.sb.code ++
    BitVec.ofNat 4 f.ty.code ++ bit1 f.reuseA ++ bit1 f.reuseB ++ bit1 f.yield ++ f.cache.code ++
    f.mod ++ f.imm

/-- The word of an instruction; an event has none. -/
def encode (i : Instr) : Option (BitVec 96) :=
  match form i, fields i with
  | some fm, some f => some (packWord (BitVec.ofNat 8 fm.op) (BitVec.ofNat 6 fm.fn) f)
  | _, _ => none

/-- The word of a clause header (R30). -/
def encodeHeader (h : Header) : BitVec 96 :=
  0xFF#8 ++ h.count ++ h.wait ++ bit1 h.seta.isSome ++ h.seta.getD 0 ++ bit1 h.setb.isSome ++
    h.setb.getD 0 ++ bit1 h.parkq.isSome ++ h.parkq.getD 0 ++ h.yieldpol ++ bit1 h.reconv ++
    h.ganghint ++ 0#48

/-- The twelve bytes of a word as memory holds them (R2, R16). -/
def bytesOfWord (w : BitVec 96) : List Byte := leBytes 12 w.toNat

/-- The instruction whose bits are `w`, laid out as the hardware stores it: bit 0 is the least
significant bit of word 0, the word at the lowest address (R16). Every instruction has 96 bits; the
bits above `nbits` are zero. -/
def decodeTableWord (nbits w : Nat) : Option Instr :=
  match decodeBytes (leBytes 12 (w % 2 ^ nbits)) with
  | .ok i => some i
  | .error _ => none

end Sys2Proof
end

