-- ==== Sys2Proof/Machine/Sched.lean ====
section
/-!
DEFINITION. What the machine may do next: which agents stand before an instruction or at a clause, which
events are due, the fetch of an instruction's bytes, and what follows every step.
-/

namespace Sys2Proof.Machine

open Config

/-! ## Fetch -/

/-- Bytes of code at a place, from the replica of its frame where the core's twelfth holds one (R133); bytes of
an append page at or above SETTLED read as zero (R125). -/
def State.codeBytes (s : State) (w : Who) (pl : Place) (n : Nat) : List Byte :=
  let raw := (List.range n).map fun i =>
    let pa := pl.pa + i
    s.homeByte (64 * s.servedLine w.part w.core (pa / 64) + pa % 64)
  let c := leafClass pl.leaf
  if c = 3 || c = 4 || c = 5 then
    settledBytes (pl.pa % 65536) (s.frameRec w.part (pl.pa / 65536 * 65536)).settled raw
  else raw

/-- Bytes of code at an address, which lie in one page: a frame that may be replicated may be copied (R133). -/
def codeAt (w : Who) (va n : Nat) : M (List Byte) := do
  let pl ← placeOf w va
  let c := leafClass pl.leaf
  if c = 3 || c = 4 || c = 5 then replicate w.part w.core (pl.pa / 65536 * 65536) else pure ()
  look fun s => s.codeBytes w pl n

/-- The twelve bytes of the instruction at an address, where an execute range covers them (R110, R335);
code pages are read-only while they may be executed (R138, R353). -/
def fetchBytes (w : Who) (va : Nat) : M (Option (List Byte)) := do
  let ok ← look fun s => s.inLease w va 12 [rightX]
  if !ok then pure none
  else do
    let k := minN 12 (65536 - va % 65536)
    let a ← codeAt w va k
    let b ← if k = 12 then pure [] else codeAt w ((va + k) % 2 ^ 56) (12 - k)
    pure (some (a ++ b))

/-- What the issuer finds at its instruction: the module after the fetch, and the instruction, or the
fault of the fetch or of the decoder. -/
inductive Fetched where
  | instr (i : Instr) (s : State)
  | trap (t : Trap) (s : State)

/-- What an issue finds of the errors that wait in the registers and records of its team (R473, R475): a
corrected one is recorded, one that cannot be corrected gives ECCU after issue with ADDR 0. -/
def State.meetRegs (s : State) (w : Who) : State :=
  let mine (u : Upset) : Bool :=
    match u with
    | .reg t _ => w.level = .lane && t = w.team
    | .record l _ => w.level = .lane && l = w.life
    | _ => false
  let us := s.upsets.filter mine
  if us.isEmpty then s
  else
    let s := { s with upsets := s.upsets.filter fun u => !(mine u) }
    us.foldl (fun s u =>
      let s := s.regRec w.part w.core u
      let r : FaultRec := { eccuAt w.src 0 with iaddr := w.iaddr }
      if !u.hard then s
      else if w.front then s.updProg w.agent fun p => { p with late := p.late ++ [r] }
      else s.updGroup w.agent fun g => { g with late := g.late ++ [r] }) s

/-- The fetch and decoding of an issuer's instruction (R16, R33, R51, R335). -/
def fetch (w : Who) (s : State) : Fetched :=
  match fetchBytes w w.iaddr s with
  | .error (.trap t) => .trap t s
  | .error _ => .trap illegal s
  | .ok (none, s) =>
    .trap { kind := kLEASE, cause := 2, addr := w.iaddr, mask := laneMask w.lanes } s
  | .ok (some bs, s) =>
    match decodeBytes bs with
    | .ok i => .instr i (s.meetRegs w)
    | .error _ => .trap illegal s

/-- Whether records that a `spawn` of the gang pushes still wait for a place (R357, R370). -/
def State.spawning (s : State) (w : Who) : Bool :=
  s.ops.any fun e => e.2.owner.of w && (w.front || w.quads.contains e.2.owner.quad) &&
    match e.2.kind with
    | .spawn part orders => s.pushWaits part orders
    | _ => false

/-- Whether a `bcas` of the gang has still to make the link of a lane, which takes its place in the lane's order as a
store does (R167, R404). -/
def State.linking (s : State) (w : Who) : Bool :=
  s.ops.any fun e => e.2.owner.of w && (w.front || w.quads.contains e.2.owner.quad) &&
    match e.2.kind with
    | .bcas _ _ _ todo => todo.any fun b => !b.lost && !b.begun
    | _ => false

/-- Whether an operation of the gang has still to push its result through a queue register: the lane's later accesses
come after the push (R221, R233). -/
def State.pushing (s : State) (w : Who) : Bool :=
  s.ops.any fun e => e.2.owner.of w && (w.front || w.quads.contains e.2.owner.quad) &&
    e.2.dests.any fun d => match d with | .q _ _ => true | _ => false

/-- Whether an issuer may issue now: no `sleepto` and no answer holds it (R127, R344), nor a push to another team
of its core that is not delivered (R233, R234), nor a record that its `spawn` has still to push (R357), nor a link that
its `bcas` has still to make (R404), nor the push of a result (R221); a parked group issues nothing (R380, R384). -/
def State.mayIssue (s : State) (w : Who) : Bool :=
  !((s.core w.core).inflight.any fun x => x.entry.life = w.life && x.life ≠ w.life) &&
  !s.spawning w && !s.linking w && !s.pushing w &&
  if w.front then (s.progOf w).sleep.isNone
  else
    let g := s.groupOf w
    g.park.isNone && w.quads.all fun q => (g.quad q).sleep.isNone && (g.quad q).await.isNone

/-! ## What may happen -/

/-- Steps that the quads of a group may take. -/
def quadActs (a : Nat → Agent) (ev : Nat → List Act) (g : Group) : List Act :=
  (List.range 8).flatMap fun q =>
    let x := g.quad q
    let hold : List Act :=
      (if x.sleep.isSome then [.event (.sleeptoWake (a q))] else []) ++
        (if x.parkSince.isSome then [.event (.parkqTimeout (a q))] else []) ++
        (if x.recSince.isSome then [.event (.reconvHoldTimeout (a q))] else [])
    if x.latch.isSome then .issue (a q) :: .event (.gangAgePromotion (a q)) :: hold
    else if x.bound then ev q
    else if x.cur ≠ 0 || x.solo.isSome then .event (.clauseStart (a q)) :: hold
    else hold

/-- Steps that a program may take. -/
def progActs (a : Agent) (p : Prog) : List Act :=
  if !p.run then []
  else
    (if p.latch.isSome then [.issue a] else [.event (.clauseStart a)]) ++
      (if p.sleep.isSome then [.event (.sleeptoWake a)] else []) ++
      (if p.parkSince.isSome then [.event (.parkqTimeout a)] else [])

/-- Steps of a resident team. -/
def teamActs (t : Nat) (x : Team) : List Act :=
  (x.groups.flatMap fun e =>
    quadActs (fun q => .lane t e.1 q) (fun q => [.event (.clauseBoundary t e.1 q)]) e.2 ++
      [.event (.groupArrival t e.1)]) ++
    progActs (.front t) x.front ++ progActs (.seqr t false) x.mseq ++ progActs (.seqr t true) x.cseq ++
    ((List.map (·.1) x.bins).flatMap fun b => [.event (.binDraw t b), .event (.binAgeExpiry t b)]) ++
    [.event (.allowanceExpiry t), .event (.taskEnd t), .event (.sliceExpiry t), .event (.preemptSave t),
      .event (.forcedSaveTimeout t)]

/-- The completion that an operation waits for. -/
def opAct (id : Nat) (o : Op) : Act :=
  match o.kind with
  | .load => .event (.loadReturn id)
  | .store => .event (.storeCompletion id)
  | .atomic | .bcas _ _ _ _ => .event (.atomicReturn id)
  | .fence _ => .event (.pathfenceCompletion id)
  | .cwb _ => .event (.cwbCompletion id)
  | .append _ => .event (.appendGrant id)
  | .seal _ => .event (.sealCompletion id)
  | .engine | .appended _ | .spawn _ _ => .event (.storeCompletion id)
  | .ctxsave _ => .event (.ctxsaveComplete id)

/-- Steps of a core: its engines, its handler slot, its queues. -/
def coreActs (c : Nat) (k : Core) : List Act :=
  (match k.handler with
   | none => []
   | some h => quadActs (fun q => .handler c q) (fun _ => [.event (.clauseStart (.handler c 0))]) h.group) ++
    [.event (.queueDelivery c), .event (.matrixCommandExecute c), .event (.matrixCommandCompletion c),
      .event (.scratchBankRelease c), .event (.handlerStart c)]

/-- Steps of a partition's engines and scheduler. -/
def partActs (j : Nat) (p : Part) (n : Nat) : List Act :=
  [.event (.copyCommandStart j), .event (.freeServe j), .event (.stopComplete j),
    .event (.taskStart j (32 * j + n % (32 * maxN p.size 1))),
    .event (.teamResume j (32 * j + n % (32 * maxN p.size 1)))] ++
    (p.cmds.flatMap fun c =>
      [.event (.copyLineWrite j c.id n), .event (.shadowWriteRelease j c.id),
        .event (.copyCommandCompletion j c.id), .event (.promiseMiss j c.id), .event (.publishEvent j c.id)]) ++
    (p.resq.map fun r => .event (.residencyAnswerPoll j r.slot)) ++
    (p.resvs.map fun r => .event (.reservationComplete j r.id)) ++
    ((List.map (·.1) p.annSince).map fun k => .event (.annWalkerApply j (k / 65536) (k % 65536))) ++
    ((List.range 128).map fun i => .event (.rebaseSweepComplete (128 * j + i)))

/-- Everything that may happen next of the device's own accord; `n` is a free choice that some steps
carry. An event that is not due changes nothing. -/
def State.candidates (s : State) (n : Nat) : List Act :=
  [.event (.ptsTick (n % 64 + 1)), .event (.patrolScrub (n % 24))] ++
    (s.teams.flatMap fun e => teamActs e.1 e.2 ++
      [.event (.hardwarePrefetch e.2.core e.1 n), .event (.speculativeFetch e.1 n)]) ++
    (List.map (fun e => opAct e.1 e.2) s.ops) ++ (s.cores.flatMap fun e => coreActs e.1 e.2) ++
    (s.parts.flatMap fun e => partActs e.1 e.2 n) ++
    (s.launches.flatMap fun e => [.event (.launchGrant e.1), .event (.leaseEnd e.1)])

/-- What happens next: the head of the agenda, or, where it is empty, a free choice among what may
happen (log 1). -/
def State.nextAct (s : State) : Act × State :=
  match s.agenda with
  | a :: rest => (a, { s with agenda := rest })
  | [] =>
    let l := s.candidates (freeNat (s.free + 1))
    (l.getD (freeNat s.free % maxN l.length 1) (.event (.ptsTick 1)), { s with free := s.free + 2 })

/-- What a frozen module still does: the instrument network answers, and power can be cycled (R481,
R482, R483). -/
def frozenAllows : Act → Bool
  | .event (.instrumentRead _ _) | .event (.powerOn _) => true
  | _ => false

/-- What follows every step: the contexts of dirty lines that it lost are struck (R476), the model's count of steps, and
a partition whose clock has reached 2⁶³ is stopped with CLOCKOUT (R162). -/
def State.settle (s : State) : State :=
  let s := if s.strikes.isEmpty then s else runD strikeAll s
  (s.parts.filter fun e => decide (2 ^ 63 ≤ e.2.clkmax)).foldl (fun s e => s.resetPart e.1 true false)
    { s with pick := s.pick + 1 }

/-! ## One instruction placed for the next step (log 12) -/

/-- A clause header for one instruction. -/
def oneSlot : Header := ⟨1, 0, none, none, none, 0, false, 0⟩

/-- A gang or program that stands at slot 1 of the clause at address 0. -/
def atSlotOne : Latch := ⟨0, 0, oneSlot, 1, 0⟩

/-- A group of 32 lanes at slot 1 of the clause at address 0, with the largest window. -/
def placedGroup : Group :=
  let g := Group.start 0 512 0 (BitVec.allOnes 32)
  { g with lanes := g.lanes.map fun l => { l with pc := 12 },
           quads := g.quads.map fun q => { q with latch := some atSlotOne, gang := 0 } }

/-- A front context at slot 1 of the clause at address 0. -/
def placedFront : Prog := { Prog.init with run := true, pc := 12, base := 0, latch := some atSlotOne }

/-- The leaf of a code page at a frame: class 5, R and X. -/
def codeLeaf (frame : Nat) : DWord := w64 (5 * 2 ^ 61 + frame + 64 + 32 + 8 + 3)

/-- A granted launch whose one range is the code page. -/
def placedLaunch : Launch :=
  { part := 0, ctx := 0, desc := 0, parent := none, host := true, args := 0, kdesc := 0, status := 0,
    statusPin := ⟨0, 65536, codeLeaf 0, 0⟩, ext := [1, 1, 1], rangen := 1, ranges := [⟨0, 65536, 5⟩],
    kernel := none, st := .granted, slot := 0, pins := [⟨0, 65536, codeLeaf 0, 0⟩], waiting := none,
    killed := none, clk := 0, ready := true, freed := [] }

/-- A first phase of one group and a front context on core 0. -/
def placedTask : TaskRec :=
  ⟨0, 0, 0, 0, 0, 0, 1, 0, 0, true, false, [0, 1, 0, 1, 0, 1], 0, 0, 0, 0, 1⟩

/-- The life of the placed team. -/
def placedLife (launch : Nat) : Life :=
  ⟨0, 0, launch, 0, 0, 0, [], 0, [], [], 1, ⟨0, 0, 1, 0, 0, true, false, []⟩, false, 0⟩

/-- The placed team, in direct mode. -/
def placedTeam (life : Nat) : Team :=
  { life := life, core := 0, task := placedTask, mode := .direct, gen := 1, groups := [(0, placedGroup)],
    front := placedFront, mseq := Prog.init, cseq := Prog.init, bins := [], dq := [], dqBase := 0,
    allow := 120000, allowOut := false, slice := tslice, run := .running, fault := none, token := none, tent := [],
    tentTags := [], reads := [], staged := [], popped := [], tentLeaves := [], tentPairs := [],
    tentShared := [], tentBy := [], entry := [], entryGongs := [], ending := none }

/-- The placed handler slot, at firmware level. -/
def placedHandler (team : Nat) : Handler := ⟨1, .firmware, placedGroup, team, 0, none, none, none⟩

/-- The partition of the placed team, with its append state table away from the code. -/
def placedPart : Part :=
  let p := Part.blank 1
  { p with cfg := { p.cfg with astab := 65536 } }

/-- A word's bytes stored at the instruction slot of the first clause of a team that is placed on core
0, and the agent that may issue it set to go next: the front context for a front-only form, the handler
slot at firmware level for a form of that level, a gang of 32 lanes otherwise. -/
def placeWord (s : State) (bytes : List Byte) (i : Option Instr) : State :=
  let fm := i.bind form
  let a : Agent := match fm with
    | none => .lane s.serial 0 0
    | some fm =>
      if fm.frontOnly then .front s.serial
      else if fm.level ≠ .lane then .handler 0 0
      else .lane s.serial 0 0
  let s := s.setBytes 12 bytes
  let p := (s.part? 0).getD placedPart
  let s := { s with parts := SMap.put s.parts 0 p }.setBytes (appendAddr 0 p 0) (AppendRec.toBytes ⟨65536, 65536, 0, 2, true⟩)
  let s := s.updCore 0 fun k =>
    { k with tlb := ⟨0, 0, 65536, codeLeaf 0, 0⟩ :: k.tlb, handler := some (placedHandler s.serial) }
  { s with
    launches := SMap.put s.launches (s.serial + 2) placedLaunch
    lives := SMap.put s.lives (s.serial + 1) (placedLife (s.serial + 2))
    teams := SMap.put s.teams s.serial (placedTeam (s.serial + 1))
    serial := s.serial + 3
    agenda := [.issue a] }

end Sys2Proof.Machine
end

