-- ==== Sys2Proof/Machine/Lanes.lean ====
section
/-!
DEFINITION. Lanes that end, arrive or are filed (R326, R333, R340, R374), and what follows for their group
and task.
-/

namespace Sys2Proof.Machine

/-- Lanes that leave the paths of their quads for another state (R326). -/
def Group.leave (g : Group) (ls : List Nat) (st : LaneSt) : Group :=
  ls.foldl (fun g i =>
    (g.updLane i fun l => { l with st := st }).updQuad (i / 4) fun q =>
      { q with cur := q.cur &&& ~~~BitVec.ofNat 4 (2 ^ (i % 4)) }) g

/-- Whether a group has no lane running, recorded or filed (R326). -/
def Group.idle (g : Group) : Bool := g.lanes.all fun l => l.st = .ended || l.st = .arrived

/-- Whether a group has no lane running or recorded (R375). -/
def Group.noPath (g : Group) : Bool := g.lanes.all fun l => l.st ≠ .live

/-- Whether a lane of a group stands arrived at a `phase`. -/
def Group.anyArrived (g : Group) : Bool := g.lanes.any fun l => l.st = .arrived

/-- A group that has ended: its window returns to its side's pool, its claim leaves the queue (R326,
R378). -/
def State.endGroup (s : State) (t g : Nat) : State :=
  match s.team? t with
  | none => s
  | some x =>
    let s := s.updGroup (.lane t g 0) fun y => { y with live := false, park := none }
    let s := s.updTeam t Team.trimDq
    let s := s.updCore x.core fun k =>
      k.setClaimq (g % 2) ((k.claimq (g % 2)).filter fun e => e ≠ (t, g))
    s.poolChanged x.core (g % 2)

/-- What follows when lanes of a group have left: the group ends where none is left and none has arrived
(R326, R340). -/
def State.lanesGone (s : State) (t g : Nat) : State :=
  match s.group? (.lane t g 0) with
  | none => s
  | some y => if y.live && y.idle && !y.anyArrived then s.endGroup t g else s

/-- Lanes of an issuer ended (R340). -/
def State.endLanes (s : State) (w : Who) (ls : List Nat) : State :=
  let s := s.updGroup w.agent fun g => g.leave ls .ended
  if w.level = .lane then s.lanesGone w.team w.g else s

/-- Whether every group of a team has ended or arrived and no bin holds a lane (R372, R376). -/
def Team.groupsOver (x : Team) : Bool := (x.groups.all fun e => !e.2.live) && x.bins.isEmpty

/-! ## Bins (R333) -/

/-- A lane filed under a key with `n` registers, where a bin can take it. -/
def Team.fileLane (x : Team) (gi lane key n now : Nat) : Option Team :=
  match SMap.get? x.groups gi with
  | none => none
  | some g =>
    let l := g.lane lane
    let rec' : Filed := ⟨SMap.range l.v 0 n, l.p, gi, lane⟩
    let moved (x : Team) (b : Nat) (y : Bin) : Team :=
      { x with bins := SMap.put x.bins b y, groups := SMap.put x.groups gi (g.leave [lane] .filed) }
    match x.bins.find? fun e => e.2.lanes.length < 32 && e.2.key = key && e.2.n = n && e.2.w = g.w with
    | some (b, y) => some (moved x b { y with lanes := y.lanes ++ [rec'] })
    | none =>
      match (List.range 16).find? fun b => (SMap.get? x.bins b).isNone with
      | some b => some (moved x b ⟨key, n, g.w, now, [rec']⟩)
      | none => none

/-! ## Programs of the front thread -/

/-- The exit of a program (R351): an exit due at a rendezvous is counted down, and the last one resumes
the front context at its target; with none outstanding the front context ends. -/
def State.exitProg (s : State) (a : Agent) : State :=
  let t := match a with | .front t | .seqr t _ => t | _ => 0
  match s.team? t, s.prog? a with
  | some x, some p =>
    let clk := match a with | .seqr _ _ => p.clk | _ => (s.core x.core).pts
    let s := s.updProg a fun p => { p with run := false, latch := none }
    match x.front.rdv with
    | none => s.frontArrives t
    | some r =>
      let r := { r with j := r.j - 1, clk := maxN r.clk clk }
      if r.j = 0 then
        (s.updProg (.front t) fun p =>
          { p with run := true, rdv := none, pc := r.target, base := r.target }).updCore x.core fun k =>
          { k with pts := maxN k.pts r.clk }
      else s.updProg (.front t) fun p => { p with rdv := some r }
  | _, _ => s

end Sys2Proof.Machine
end

