-- ==== Sys2Proof/Machine/Control.lean ====
section
/-!
DEFINITION. Control flow, divergence and the front thread (OP 0x00, R335 to R352).
-/

namespace Sys2Proof.Machine

open Config

/-- The target of a clause-unit count (R42). -/
def unitTarget (w : Who) (imm : BitVec 32) : Nat :=
  ((w64 w.latch.start) + (w64 48) * imm.signExtend 64 : DWord).toNat % 2 ^ 56

/-- The participants of an instruction transferred to their targets (R335). -/
def jump (w : Who) (target : Nat → Nat) : M Unit :=
  upd fun s =>
    if w.front then s.transferProg w (target 0)
    else w.act.foldl (fun s i => s.transfer w i (target i)) s

/-- The ALIGN check of R43 on the offset or address of each lane, with the branch target of the lowest
failing lane. -/
def checkTarget (w : Who) (raw : Nat → Int) (target : Nat → Nat) : M Unit :=
  match w.actors.filter fun i => raw i % 48 ≠ 0 with
  | [] => pure ()
  | i :: t => trap { kind := kALIGN, cause := 3, mask := w.failMask (i :: t), addr := target i }

/-- The 64-bit operand of `brx`, `jmpx` and `callx`. -/
def readTarget (w : Who) (f : Fields) : M (Nat → Nat) := do
  let a ← read1 w f.imm (srcPair f.sa)
  pure fun i => (a i).toNat

/-- Address of slot `k` of a lane's return stack, in its frame (R339). -/
def State.stackSlot (s : State) (w : Who) (lane k : Nat) : Nat :=
  s.windowTarget w lane (0x3C00 + 8 * (k % 128))

/-- The return address pushed for the participants (R339): a `st.n64` through the window. -/
def pushReturn (w : Who) : M Unit :=
  if w.front then upd fun s => s.updProg w.agent fun p =>
    { p with stack := (if p.stack.length < 16 then p.stack else p.stack.drop 1) ++ [w.next] }
  else do
    let l ← look fun s => w.act.map fun i =>
      let r := ((s.groupOf w).lane i).rsd
      (⟨i, privBase + 0x3C00 + 8 * (r % 128), s.stackSlot w i r⟩ : Acc)
    let t ← look fun s => accessFault s w 8 8 [rightW] true l
    check t
    leaveDirect w
    let bad ← collectM l fun a => genWrite (w.only a.lane) a.va (leBytesOf 8 w.next)
    upd fun s => s.updGroup w.agent fun g => g.updLanes w.act fun _ l => { l with rsd := minN (l.rsd + 1) 65535 }
    lateNow w (eccu w (((l.zip bad).filter fun e => e.2).map (·.1)))

/-- `bra` (R337). -/
def braBody (w : Who) (f : Fields) : M Unit := jump w fun _ => unitTarget w f.imm

/-- `brx` (R338). DESIGN CHOICE: R43 gives its 64-bit offset no sign; the test for a multiple of 48 reads it
signed, so that a branch may go back (log 16). -/
def brxBody (w : Who) (f : Fields) : M Unit := do
  let a ← readTarget w f
  let t (i : Nat) : Nat := (w.latch.start + a i) % 2 ^ 56
  checkTarget w (fun i => (w64 (a i)).toInt) t
  jump w t

/-- `jmpx` (R338). -/
def jmpxBody (w : Who) (f : Fields) : M Unit := do
  let a ← readTarget w f
  checkTarget w (fun i => a i) a
  jump w a

/-- `call` (R337). -/
def callBody (w : Who) (f : Fields) : M Unit := do
  pushReturn w
  jump w fun _ => unitTarget w f.imm

/-- `callx` (R338). -/
def callxBody (w : Who) (f : Fields) : M Unit := do
  let a ← readTarget w f
  checkTarget w (fun i => a i) a
  pushReturn w
  jump w a

/-- `exit` (R340, R351). -/
def exitBody (w : Who) (_ : Fields) : M Unit :=
  upd fun s => if w.front then s.exitProg w.agent else s.endLanes w w.act

/-- `ret` of the front context (R339). -/
def retFront (w : Who) (f : Fields) : M Unit := do
  let st ← look fun s => (s.progOf w).stack
  match st.getLast? with
  | none => exitBody w f
  | some a =>
    upd fun s => (s.updProg w.agent fun p => { p with stack := p.stack.dropLast }).transferProg w a

/-- `ret` (R339). -/
def retBody (w : Who) (f : Fields) : M Unit :=
  if w.front then retFront w f
  else do
    let deep ← look fun s => w.act.filter fun i => ((s.groupOf w).lane i).rsd ≠ 0
    let l ← look fun s => deep.map fun i =>
      let r := ((s.groupOf w).lane i).rsd - 1
      (⟨i, privBase + 0x3C00 + 8 * (r % 128), s.stackSlot w i r⟩ : Acc)
    let t ← look fun s => accessFault s w 8 8 [rightR] false l
    check t
    let got ← collectM l fun a => genRead w a.va 8 .near
    let back := (l.zip got).map fun e => (e.1, leOf e.2.1, e.2.2)
    match back.filter fun e => e.2.1 % 48 ≠ 0 with
    | e :: t => trap { kind := kALIGN, cause := 3, mask := w.failMask ((e :: t).map (·.1.lane)), addr := e.2.1 }
    | [] => do
      upd fun s => back.foldl (fun s e =>
        (s.updGroup w.agent fun g => g.updLane e.1.lane fun l => { l with rsd := l.rsd - 1 }).transfer w
          e.1.lane e.2.1) s
      upd fun s => s.endLanes w (w.act.filter fun i => !deep.contains i)
      lateNow w (eccu w ((back.filter fun e => e.2.2).map (·.1)))

/-- `reform` (R341). -/
def reformBody (w : Who) (f : Fields) : M Unit := do
  let a ← readTarget w f
  checkTarget w (fun i => a i) a
  each w.act fun i => do
    let key := a i % 2 ^ 56
    upd fun s => s.transfer w i key
    let y ← look fun s => (s.teamOf w).bind fun x => x.fileLane w.g i key f.imm.toNat s.cyc
    match y with
    | none => pure ()
    | some y => upd fun s => s.updTeam w.team fun _ => y

/-- The latch that a gang merged by `regang` takes: none, so that it starts again from its slot with its WAIT; in a team
that a halt has reached, where nothing starts, the WAIT is tested at once, and what passes it goes on to its clause
boundary (R342, R416). -/
def State.regangLatch (s : State) (w : Who) : Option Latch :=
  if s.halting w && waitFree (s.flag w) w.latch.hdr.wait then some { w.latch with slot := w.latch.slot + 1 } else none

/-- Gangs of a group that stand before the slot after a gang's instruction join it (R342). -/
def Group.regang (g : Group) (w : Who) (latch : Option Latch) : Group :=
  let next := w.latch.slot + 1
  let joins := (List.range 8).filter fun q =>
    let x := g.quad q
    match x.latch with
    | none => false
    | some l => !w.quads.contains q && l.start = w.latch.start && l.slot = next && x.sleep.isNone &&
        x.await.isNone && x.solo.isNone
  let alone := w.quads.any fun q => (g.quad q).solo.isSome
  if alone || joins.isEmpty || w.latch.slot = w.latch.hdr.count.toNat then g
  else g.updQuads (w.quads ++ joins) fun q =>
    { q with latch := latch, gang := w.latch.gang, age := g.oldest (w.quads ++ joins) }

/-- `regang` (R342). -/
def regangBody (w : Who) (_ : Fields) : M Unit :=
  upd fun s => (s.updGroup w.agent fun g => g.regang w (s.regangLatch w)).noteHalt w

/-- `yield` (R343). -/
def yieldBody (w : Who) (_ : Fields) : M Unit :=
  upd fun s =>
    if w.front then s
    else s.updGroup w.agent fun g => g.updQuads w.quads fun q =>
      { q with force := true, age := s.nextAge w.core (w.g % 2) }

/-- `sleepto` (R344, R416). -/
def sleeptoBody (w : Who) (f : Fields) : M Unit := do
  let a ← readTarget w f
  let t := w.actors.foldl (fun m i => maxN m (a i)) 0
  upd fun s =>
    if t ≤ s.cyc then s
    else
      let h := s.halting w
      let s :=
        if w.front then s.updProg w.agent fun p =>
          let p := { p with sleep := some t }
          if h then p.haltSleep else p
        else s.updGroup w.agent fun g => g.updQuads w.quads fun q =>
          let q := { q with sleep := some t }
          if h then q.haltSleep else q
      s.noteHalt w

/-- A fetch block's lines put into the caches that a level of `ipref` names (R345, R353). -/
def State.cacheCode (s : State) (w : Who) (lines : List Nat) (lvl : Nat) : State :=
  let add (l : List Nat) : List Nat := lines.foldl insertNat l
  let s := s.updPart w.part fun p =>
    { p with codeLines := SMap.put p.codeLines (w.core / 32) (add (SMap.getD [] p.codeLines (w.core / 32))) }
  if lvl = 1 then s
  else s.updCore w.core fun k =>
    let k := { k with l1i := add k.l1i }
    if lvl = 2 then
      (if w.g % 2 = 0 then { k with l0i0 := add k.l0i0 } else { k with l0i1 := add k.l0i1 })
    else k

/-- One block of `ipref` (R345): each of its lines that lies on a page of class 5; a line of another page, or
of a page with no translation, is ignored. -/
def fetchBlock (w : Who) (lvl a : Nat) : M Unit :=
  each (insertNat [a / 64 * 64] ((a + 47) / 64 * 64)) fun v => do
    let p ← tryPlace w v
    match p with
    | some p => if leafClass p.leaf = 5 then upd fun s => s.cacheCode w [p.pa / 64] lvl else pure ()
    | none => pure ()

/-- `ipref` (R345, R112). -/
def iprefBody (w : Who) (f : Fields) : M Unit := do
  let a ← readTarget w f
  let n := f.imm.toNat % 65536
  let lvl := f.imm.toNat / 65536 % 4
  let starts := (w.actors.map fun i => a i / 48 * 48).foldl insertNat []
  let blocks := (starts.flatMap fun b => (List.range n).map fun k => b + 48 * k).foldl insertNat []
  let ok ← look fun s => blocks.filter fun b => s.inLease w b 48 [rightX]
  dropped w.part ((blocks.filter fun b => !ok.contains b).flatMap fun b => [b / 65536, (b + 47) / 65536])
  each ok fun b => fetchBlock w lvl b

/-- `decide` (R349). -/
def decideBody (w : Who) (f : Fields) : M Unit := do
  let a ← read1 w f.imm (srcRaw f.sa)
  let full ← look fun s => ((s.teamOf w).map fun x => decide (64 ≤ x.dq.length)).getD false
  if full then stop .hold
  else do
    let pts ← ptsOf w.core
    upd fun s => s.updTeam w.team fun x => ({ x with dq := x.dq ++ [((a 0).setWidth 32, pts)] }).trimDq

/-- `bru` (R350). -/
def bruBody (w : Who) (f : Fields) : M Unit := do
  let a ← read1 w f.imm (srcRaw f.sa)
  if (a 0).setWidth 32 = 0#32 then pure () else jump w fun _ => unitTarget w f.imm

/-- A sequencer program as a fork starts it (R351, R352). -/
def startSeqr (p : Prog) (a clk : Nat) : Prog :=
  { Prog.init with run := true, pc := a % 2 ^ 56, base := a % 2 ^ 56, k := p.k, clk := clk }

/-- `fork` (R351). -/
def forkBody (w : Who) (f : Fields) : M Unit := do
  let (a, b) ← read2 w f.imm (srcPair f.sa) (srcPair f.sb)
  let m := (a 0).toNat
  let c := (b 0).toNat
  let x ← look fun s => s.teamOf w
  match x with
  | none => pure ()
  | some x => do
    let pts ← ptsOf w.core
    let st := if x.front.rdv.isSome then 1 else if m % 48 ≠ 0 || c % 48 ≠ 0 then 2 else 0
    if st = 0 then
      upd fun s => s.updTeam w.team fun x =>
        let p := x.front
        { x with
          front := { p with rdv := some ⟨1 + (if m ≠ 0 then 1 else 0) + (if c ≠ 0 then 1 else 0),
                                         unitTarget w f.imm, 0⟩ }
          mseq := if m ≠ 0 then startSeqr p m pts else x.mseq
          cseq := if c ≠ 0 then startSeqr p c pts else x.cseq }
    else pure ()
    writeWord w f.dst fun _ => w32 st

/-- `nop` (R336). -/
def execNop (f : Fields) (s : State) : Host.Outcome State Fault Refusal :=
  issue (.nop f) (fun _ _ => pure ()) s

/-- `bra` (R337). -/
def execBra (f : Fields) (s : State) : Host.Outcome State Fault Refusal :=
  issue (.bra f) (braBody) s

/-- `brx` (R338). -/
def execBrx (f : Fields) (s : State) : Host.Outcome State Fault Refusal :=
  issue (.brx f) (brxBody) s

/-- `jmpx` (R338). -/
def execJmpx (f : Fields) (s : State) : Host.Outcome State Fault Refusal :=
  issue (.jmpx f) (jmpxBody) s

/-- `call` (R337). -/
def execCall (f : Fields) (s : State) : Host.Outcome State Fault Refusal :=
  issue (.call f) (callBody) s

/-- `callx` (R338). -/
def execCallx (f : Fields) (s : State) : Host.Outcome State Fault Refusal :=
  issue (.callx f) (callxBody) s

/-- `ret` (R339). -/
def execRet (f : Fields) (s : State) : Host.Outcome State Fault Refusal :=
  issue (.ret f) (retBody) s

/-- `exit` (R340, R351). -/
def execExitLane (f : Fields) (s : State) : Host.Outcome State Fault Refusal :=
  issue (.exitLane f) (exitBody) s

/-- `reform` (R341). -/
def execReform (f : Fields) (s : State) : Host.Outcome State Fault Refusal :=
  issue (.reform f) (reformBody) s

/-- `regang` (R342). -/
def execRegang (f : Fields) (s : State) : Host.Outcome State Fault Refusal :=
  issue (.regang f) (regangBody) s

/-- `yield` (R343). -/
def execYieldGang (f : Fields) (s : State) : Host.Outcome State Fault Refusal :=
  issue (.yieldGang f) (yieldBody) s

/-- `sleepto` (R344). -/
def execSleepto (f : Fields) (s : State) : Host.Outcome State Fault Refusal :=
  issue (.sleepto f) (sleeptoBody) s

/-- `ipref` (R345). -/
def execIpref (f : Fields) (s : State) : Host.Outcome State Fault Refusal :=
  issue (.ipref f) (iprefBody) s

/-- `decide` (R349). -/
def execDecide (f : Fields) (s : State) : Host.Outcome State Fault Refusal :=
  issue (.decide f) (decideBody) s

/-- `bru` (R350). -/
def execBru (f : Fields) (s : State) : Host.Outcome State Fault Refusal :=
  issue (.bru f) (bruBody) s

/-- `fork` (R351). -/
def execFork (f : Fields) (s : State) : Host.Outcome State Fault Refusal :=
  issue (.fork f) (forkBody) s

end Sys2Proof.Machine
end

