-- ==== Sys2Proof/Machine/Grant.lean ====
section
/-!
DEFINITION. Launches: what the scheduler reads through a context's translation (R485), submission (R101,
R360, R467), the steps of a grant (R104 to R107, R122, R207, R469), residency requests (R106, R458), the
cut (R361), and the end of a lease (R108, R362).
-/

namespace Sys2Proof.Machine

open Config

/-! ## The scheduler's reads (R485) -/

/-- The byte of a private frame that an address of the twin window reaches for the launch that holds its slot in a
context (R118, R119). -/
def State.ctxTwin (s : State) (part ctx va : Nat) : Option Nat :=
  if !(inTwin va) then none
  else
    (s.launches.find? fun e => e.2.part = part && e.2.ctx = ctx && e.2.st = .granted &&
      e.2.slot = (va - twinBase) / 2 ^ 40).bind fun e => s.twin e.1 va

/-- What the scheduler's walk of an address finds: a private frame as R119 maps it, or what the tables name. -/
def State.schedWalk (s : State) (part ctx va : Nat) : WalkRes :=
  match s.ctxTwin part ctx va with
  | some pa => .leaf 0 noEntry (frameLeaf (pa / 65536 * 65536))
  | none => s.walk part ctx va

/-- The reads of the scheduler's walks of some addresses, for a request that carries a clock: each entry at its home
(R96, R178); the clock after them. A private frame takes no walk. -/
def schedWalks (part ctx clk : Nat) : List Nat → M Nat
  | [] => pure clk
  | va :: l => do
    let own ← look fun s => (s.ctxTwin part ctx va).isSome
    let ts ← if own then pure clk else timedWalk part clk ctx va
    schedWalks part ctx ts l

/-- The physical address of a virtual one of a context, its leaf, and the address of its leaf entry; none
where its entry is absent or malformed. The page of a shadowed buffer stands at the frame that the
context reads (R206, R469). -/
def State.schedPlace (s : State) (part ctx va : Nat) : Option Place :=
  match s.schedWalk part ctx va with
  | .leaf lvl entry e =>
    let size := pageSize lvl
    let plain : Place := ⟨leafFrame e / size * size + va % size, e, some entry⟩
    if !(leafSH e) then some plain
    else
      match s.shadow part ctx va with
      | none => some plain
      | some (_, a, _, _, _) =>
        let ck := ((s.part? part).map fun p => s.ctxCkpt p ctx).getD false
        let (cur, dirty, f1) := s.pair a
        let one := if ck && dirty then !cur else cur
        some { plain with pa := (if one then f1 else leafFrame e) + va % 65536 }
  | _ => none

/-- `n` bytes of one line at a place, as a request with a clock reads them at home: the bytes, whether
uncorrectable data was met, and the clock after it. -/
def schedLine (part clk : Nat) (pl : Place) (n : Nat) : M (List Byte × Bool × Nat) := do
  let line := pl.pa / 64
  let c := leafClass pl.leaf
  if c = 7 then do
    let (b, bad) ← peerRead part pl.pa n
    pure (b, bad, clk)
  else if c = 6 then do
    let bad ← look fun s => s.poison6 part line
    let b ← fill6 part line false
    let ts ← deviceRead part clk (key6 part line)
    pure (if bad then List.replicate n 0 else (b.drop (pl.pa % 64)).take n, bad, ts)
  else do
    meetLine line
    let help ← if c = 2 then applyFirst part clk line else pure false
    let off := pl.pa % 65536
    let upTo ← look fun s =>
      if c = 3 || c = 4 || c = 5 then (s.frameRec part (pl.pa / 65536 * 65536)).settled else 65536
    let bad ← look fun s => s.isPoison line && decide (off < upTo)
    if bad || help then pure (List.replicate n 0, true, clk)
    else do
      let ts ← deviceRead part clk line
      let b ← look fun s => settledBytes off upTo (s.bytes pl.pa n)
      pure (b, false, ts)

/-- Bytes at a virtual address of a context as the scheduler reads them at home; none where a line lies in
an absent or malformed translation. -/
def schedRead (part ctx clk va n : Nat) : M (Option (List Byte × Bool × Nat)) := do
  let ps := pieces va n
  let known ← look fun s => ps.all fun e => (s.schedPlace part ctx e.1).isSome
  if !known then pure none
  else do
    let r ← collectM ps fun e => do
      let pl ← look fun s => s.schedPlace part ctx e.1
      let clk ← schedWalks part ctx clk [e.1]
      match pl with
      | none => pure (List.replicate e.2 0, false, clk)
      | some pl => schedLine part clk pl e.2
    pure (some (r.flatMap fun e => e.1, r.any fun e => e.2.1, r.foldl (fun m e => maxN m e.2.2) clk))

/-! ## Submission (R101, R360, R467, R485) -/

/-- A little-endian field of a byte list. -/
def fieldOf (b : List Byte) (o n : Nat) : Nat := leOf ((b.drop o).take n)

/-- A range record (R85). -/
def Range.ofBytes (b : List Byte) : Range := ⟨fieldOf b 16 8, fieldOf b 8 8, BitVec.ofNat 8 (fieldOf b 0 1)⟩

/-- `n` range records, one after another. -/
def rangesOfBytes : Nat → List Byte → List Range
  | 0, _ => []
  | n + 1, b => Range.ofBytes b :: rangesOfBytes n (b.drop 24)

/-- Frames whose FREE the partition has begun and not completed (R107, R464). -/
def State.freeingFrames (s : State) (part : Nat) : List Nat :=
  match s.part? part with
  | none => []
  | some p =>
    if p.freeing.isNone then []
    else
      match p.freeq with
      | [] => []
      | a :: _ => (List.range (s.homeLe (a + 12) 4)).map fun i => s.homeLe (a + 16) 8 + 65536 * i

/-- The leaf of an address pinned (R105). -/
def State.pinAt (s : State) (part ctx va : Nat) : Option Pin :=
  match s.schedWalk part ctx va with
  | .leaf lvl entry e => some ⟨va / pageSize lvl * pageSize lvl, pageSize lvl, e, entry⟩
  | _ => none

/-- A LAUNCH SUBMITTED: the header and range records as read, the status record's leaf pinned, the clock of
the submitter (R361, R485). -/
def State.submit (s : State) (part ctx desc : Nat) (parent : Option Nat) (clk : Nat) (h recs : List Byte)
    (pin : Pin) : State :=
  let (n, s) := s.fresh
  let k := fieldOf h 7 1
  let l : Launch :=
    { part := part, ctx := ctx, desc := desc, parent := parent, host := parent.isNone, args := fieldOf h 40 8,
      kdesc := fieldOf h 32 8, status := fieldOf h 24 8, statusPin := pin,
      ext := [fieldOf h 12 4, fieldOf h 16 4, fieldOf h 20 4], rangen := k,
      ranges := if k ≤ 16 then rangesOfBytes k recs else [], kernel := none, st := .pending, slot := 0,
      pins := [], waiting := none, killed := none, clk := clk, ready := false,
      freed := s.freeingFrames part }
  { s with launches := SMap.put s.launches n l }

/-! ## The kernel descriptor (R84, R485) -/

/-- A kernel descriptor and its lease records. -/
def Kernel.ofBytes (b recs : List Byte) : Kernel :=
  { scarry := BitVec.ofNat 128 (fieldOf b 112 16), vcarry := BitVec.ofNat 512 (fieldOf b 48 64),
    allow := fieldOf b 40 4, grain := [fieldOf b 28 4, fieldOf b 32 4, fieldOf b 36 4],
    scratch := fieldOf b 24 4, regs := fieldOf b 22 2, prio := fieldOf b 21 1, split := fieldOf b 20 1,
    axes := fieldOf b 19 1, clh := fieldOf b 18 1, clw := fieldOf b 17 1, entry := fieldOf b 0 8,
    ranges := rangesOfBytes (fieldOf b 16 1) recs }

/-- Why a grant does not go on: a refusal code with its DETAIL, or the first absent granule with the number
of absent ones from it. -/
inductive Stuck where
  | refuse (code detail : Nat)
  | absent (va pages : Nat)
  deriving DecidableEq, Repr

/-- Size of the region under an entry of a level. -/
def entrySpan : Nat → Nat
  | 0 => 65536
  | 1 => 2097152
  | 2 => 1073741824
  | 3 => 549755813888
  | _ => 281474976710656

/-- Size of the region of the absent entry that a walk meets; none where it meets none. -/
def absentFrom (s : State) (j : Nat) (p : Part) (va table : Nat) : List Nat → Option Nat
  | [] => none
  | lvl :: rest =>
    let a := table + 8 * levelIndex va lvl
    let e : DWord := w64 (s.homeLe a 8)
    if !inPartHbm j p.size a 8 then none
    else if !entryV e then some (entrySpan lvl)
    else if entryL e || lvl = 0 || entryNext e % nextTableSize lvl ≠ 0 then none
    else absentFrom s j p va (entryNext e) rest

/-- Consecutive absent granules from one up to an end (R106). -/
def absentRun (s : State) (j : Nat) (p : Part) (root stop va : Nat) : Nat → Nat
  | 0 => 0
  | fuel + 1 =>
    if stop ≤ va then 0
    else
      match absentFrom s j p va root [4, 3, 2, 1, 0] with
      | none => 0
      | some k =>
        let next := va / k * k + k
        if stop ≤ next then (stop - va + 65535) / 65536
        else (next - va) / 65536 + absentRun s j p root stop next fuel

/-- PAGES of a residency request for a granule of a run of bytes that ends at `stop` (R106). -/
def State.absentPages (s : State) (part ctx va stop : Nat) : Nat :=
  match s.part? part with
  | none => 0
  | some p => absentRun s part p (s.ctxField p ctx 40 8) stop va ((stop - va) / 65536 + 1)

/-- The walk of the granules of the kernel descriptor or its lease records (R485). -/
def kernelWalk (s : State) (part ctx a stop : Nat) : Nat → Nat → Option Stuck
  | 0, _ => none
  | fuel + 1, g =>
    if stop ≤ g then none
    else
      match s.schedWalk part ctx g with
      | .absent => some (.absent g (s.absentPages part ctx g stop))
      | .malformed => some (.refuse 0x14 g)
      | .leaf _ _ e => if leafR e then kernelWalk s part ctx a stop fuel (g + 65536) else some (.refuse 0x14 g)

/-- The walk of `n` bytes from an address; no bytes touch no granule. -/
def kernelGranules (s : State) (part ctx a n : Nat) : Option Stuck :=
  if n = 0 then none else kernelWalk s part ctx a (a + n) (n / 65536 + 2) (a / 65536 * 65536)

/-- The granules of `n` bytes from an address. -/
def granulesOf (a n : Nat) : List Nat :=
  if n = 0 then [] else (List.range ((a % 65536 + n + 65535) / 65536)).map fun i => a / 65536 * 65536 + 65536 * i

/-- The clock of a launch raised. -/
def raiseLaunch (n ts : Nat) : M Unit := upd fun s => s.updLaunch n fun l => { l with clk := maxN l.clk ts }

/-- The kernel descriptor read, once, with its lease records (R485): the walk may refuse or wait. LEASEOFF
is returned. DESIGN CHOICE: uncorrectable data counts as zeros and stops nothing, since no rule names a record for
such a read (log 29). -/
def readKernel (n : Nat) (l : Launch) : M (Option Stuck × Nat) := do
  let clk ← schedWalks l.part l.ctx l.clk (granulesOf l.kdesc 128)
  raiseLaunch n clk
  let t ← look fun s => kernelGranules s l.part l.ctx l.kdesc 128
  match t with
  | some t => pure (some t, 0)
  | none => do
    let b ← schedRead l.part l.ctx clk l.kdesc 128
    let clk := ((b.map (·.2.2)).getD clk)
    let b := (b.map (·.1)).getD []
    let off := fieldOf b 44 4
    let at' := (l.kdesc + off) % 2 ^ 64
    let k := fieldOf b 16 1
    let clk ← schedWalks l.part l.ctx clk (granulesOf at' (24 * k))
    raiseLaunch n clk
    let t ← look fun s => kernelGranules s l.part l.ctx at' (24 * k)
    match t with
    | some t => pure (some t, 0)
    | none => do
      let r ← schedRead l.part l.ctx clk at' (24 * k)
      let ker := Kernel.ofBytes b ((r.map (·.1)).getD [])
      upd fun s => s.updLaunch n fun l => { l with kernel := some ker, clk := maxN l.clk ((r.map (·.2.2)).getD clk) }
      pure (none, off)

/-! ## The checks of R104 -/

/-- Address of record `i` of a launch's ranges: the kernel's lease records, then the descriptor's. `off`
is LEASEOFF. -/
def recordAddr (l : Launch) (k : Kernel) (off i : Nat) : Nat :=
  if i < k.ranges.length then l.kdesc + off + 24 * i else l.desc + 64 + 24 * (i - k.ranges.length)

/-- Whether a range record breaks R85 or runs past 2⁵⁶ (R104 step 1). -/
def Range.bad (r : Range) : Bool :=
  r.size = 0 || decide (2 ^ 56 < r.base + r.size) || decide (15 < r.rights.toNat) || r.rights = 0 ||
    (r.rights.getLsbD rightW && r.rights.getLsbD rightS)

/-- Whether a kernel descriptor or the domain fails SHAPE (R104 step 1). -/
def badShape (l : Launch) (k : Kernel) : Bool :=
  k.regs = 0 || decide (512 < k.regs) || k.axes = 0 || decide (3 < k.axes) || decide (k.axes ≤ k.split) ||
    decide (7 < k.prio) || k.clw = 0 || decide (8 < k.clw) || k.clh = 0 || decide (4 < k.clh) ||
    decide (12 < k.clw * k.clh) || (l.ext.take k.axes).any fun e => decide (e = 0)

/-- The first index of a list that a test selects. -/
def firstIdx {α : Type} (l : List α) (p : Nat → α → Bool) : Option Nat :=
  ((List.range l.length).zip l).findSome? fun e => if p e.1 e.2 then some e.1 else none

/-- Whether a range shares a byte with one before it (R104 step 2). -/
def overlapsEarlier (rs : List Range) (i : Nat) (r : Range) : Bool :=
  (rs.take i).any fun q => overlaps q.base q.size r.base r.size

/-- Whether a range lies inside one range of another list, with rights no wider (R104 step 4). -/
def Range.inside (r : Range) (ps : List Range) : Bool :=
  ps.any fun q => decide (q.base ≤ r.base) && decide (r.base + r.size ≤ q.base + q.size) &&
    r.rights &&& ~~~q.rights = 0

/-- The granule of an address. -/
def granuleOf (a : Nat) : Nat := a / 65536 * 65536

/-- The first byte of the 48 at an address that no range with execute right holds. -/
def uncovered (rs : List Range) (a : Nat) : Nat :=
  a + ((List.range 48).find? fun i => !(rs.any fun r => r.has (a + i) [rightX])).getD 0

/-- STEPS 1 TO 4 OF R104 on the ranges `rs` of a launch. -/
def declareCheck (s : State) (l : Launch) (k : Kernel) (off : Nat) (rs : List Range) : Option Stuck :=
  let detail (i : Nat) : Nat := recordAddr l k off i
  if 16 < k.ranges.length + l.rangen then some (.refuse 0x10 (detail 16))
  else
    match firstIdx rs fun _ r => r.bad with
    | some i => some (.refuse 0x10 (detail i))
    | none =>
      if badShape l k then some (.refuse 0x18 l.kdesc)
      else
        match firstIdx rs (overlapsEarlier rs) with
        | some i => some (.refuse 0x11 (detail i))
        | none =>
          if l.args ≠ 0 && !(rs.any fun r => r.has l.args [rightR]) then some (.refuse 0x12 (granuleOf l.args))
          else if k.entry % 48 ≠ 0 then some (.refuse 0x12 (granuleOf k.entry))
          else if !(coveredBy rs [rightX] k.entry 48 17) then some (.refuse 0x12 (granuleOf (uncovered rs k.entry)))
          else
            match l.parent with
            | none => none
            | some p =>
              let outer := ((s.launch? p).map (·.ranges)).getD []
              match firstIdx rs fun _ r => !(r.inside outer) with
              | some i => some (.refuse 0x13 (detail i))
              | none => none

/-- A part of a range that one leaf maps: the range's rights, the first granule and the end, the leaf. -/
structure Span where
  rights : BitVec 8
  lo : Nat
  hi : Nat
  pin : Pin
  deriving DecidableEq, Repr

/-- Granules of a span with the frames they stand in. -/
def Span.granules (x : Span) : List (Nat × Nat) :=
  (List.range ((x.hi - x.lo + 65535) / 65536)).map fun i =>
    let g := x.lo + 65536 * i
    (g, leafFrame x.pin.leaf / x.pin.size * x.pin.size + (g - x.pin.va))

/-- Whether a frame's append record breaks R122 for a leaf. -/
def recordBad (s : State) (part frame : Nat) (leaf : DWord) : Bool :=
  let r := s.frameRec part frame
  !r.zero || !(r.st = 0 || r.st = 2) || r.tail ≠ r.settled || r.limit = 0 || decide (1024 < r.limit) ||
    decide (r.limit * 64 < r.tail) || (leafT leaf && r.tail % 64 ≠ 0) || (leafClass leaf = 4 && r.st ≠ 2)

/-- Whether a leaf with SH breaks R207. -/
def shadowBad (s : State) (part ctx va : Nat) (pin : Pin) : Bool :=
  decide (pin.size ≠ 65536) ||
    match s.shadow part ctx va, s.part? part with
    | some (_, a, _, _, _), some p =>
      let (_, _, f1) := s.pair a
      decide (f1 = leafFrame pin.leaf) || !(inPartHbm part p.size f1 65536)
    | _, _ => true

/-- Whether a context in checkpoint mode may not write a leaf (R469 step 1). -/
def ckptBad (leaf : DWord) : Bool :=
  let c := leafClass leaf
  c = 2 || c = 3 || c = 6 || c = 7 || (c = 0 && !(leafSH leaf))

/-- Whether the leaf of a span names one of some frames. -/
def Span.names (x : Span) (fs : List Nat) : Bool :=
  let a := leafFrame x.pin.leaf / x.pin.size * x.pin.size
  fs.any fun f => decide (a ≤ f) && decide (f < a + x.pin.size)

/-- The checks of step 5 on one span: a FREE that has begun of any frame that its leaf names (R107), the record of
R122, the shadow of R207, checkpoint mode (R469). -/
def spanCheck (s : State) (l : Launch) (x : Span) : Option Stuck :=
  let c := leafClass x.pin.leaf
  let ck := ((s.part? l.part).map fun p => s.ctxCkpt p l.ctx).getD false
  if x.names l.freed then some (.refuse 0x16 (granuleOf x.lo))
  else x.granules.findSome? fun e =>
    if (c = 3 || c = 4 || c = 5) && recordBad s l.part e.2 x.pin.leaf then some (.refuse 0x14 e.1)
    else if leafSH x.pin.leaf && shadowBad s l.part l.ctx e.1 x.pin then some (.refuse 0x14 e.1)
    else if ck && x.rights.getLsbD rightW && ckptBad x.pin.leaf then some (.refuse 0x14 e.1)
    else none

/-- The walk of the granules of one range from `g` (R104 step 5): its spans, and what stopped it. -/
def walkRange (s : State) (l : Launch) (r : Range) : Nat → Nat → List Span × Option Stuck
  | 0, _ => ([], none)
  | fuel + 1, g =>
    let stop := r.base + r.size
    if stop ≤ g then ([], none)
    else
      match s.schedWalk l.part l.ctx g with
      | .absent => ([], some (.absent g (s.absentPages l.part l.ctx g stop)))
      | .malformed => ([], some (.refuse 0x14 g))
      | .leaf lvl entry e =>
        let size := pageSize lvl
        let next := g / size * size + size
        let x : Span := ⟨r.rights, g, minN next stop, ⟨g / size * size, size, e, entry⟩⟩
        match spanCheck s l x with
        | some t => ([], some t)
        | none =>
          let (xs, t) := walkRange s l r fuel next
          (x :: xs, t)

/-- The walk of every range, in order. -/
def walkRanges (s : State) (l : Launch) : List Range → List Span × Option Stuck
  | [] => ([], none)
  | r :: rest =>
    match walkRange s l r (r.size / 65536 + 2) (r.base / 65536 * 65536) with
    | (xs, some t) => (xs, some t)
    | (xs, none) =>
      let (ys, t) := walkRanges s l rest
      (xs ++ ys, t)

/-- Whether a leaf lacks a right that its range declares (R104 step 6). -/
def Span.lacks (x : Span) : Bool :=
  let c := leafClass x.pin.leaf
  (x.rights.getLsbD rightR && !(leafR x.pin.leaf)) ||
    (x.rights.getLsbD rightW && (!(leafW x.pin.leaf) || c = 4 || c = 5)) ||
    (x.rights.getLsbD rightX && (!(leafX x.pin.leaf) || c ≠ 5)) ||
    (x.rights.getLsbD rightS && !(leafS x.pin.leaf))

/-- STEPS 6 AND 7 OF R104 on the spans of a walk. -/
def spanRights (s : State) (part : Nat) (xs : List Span) : Option Stuck :=
  match xs.find? Span.lacks with
  | some x => some (.refuse 0x15 x.lo)
  | none =>
    xs.findSome? fun x =>
      if x.rights.getLsbD rightX && leafClass x.pin.leaf = 5 then
        x.granules.findSome? fun e => if (s.frameRec part e.2).st = 2 then none else some (.refuse 0x16 e.1)
      else none

/-- The pins of spans, each page once: a leaf of a table that two pointers share counts for each page that it
maps. -/
def pinsOf (xs : List Span) : List Pin :=
  xs.foldl (fun l x => if l.any fun p => p.entry = x.pin.entry && p.va = x.pin.va then l else l ++ [x.pin]) []

/-! ## Refusal, residency, grant -/

/-- A launch refused (R104): STATE and DETAIL written, its pins released. -/
def refuseLaunch (n code detail : Nat) : M Unit := endLaunch n code (some detail)

/-- A residency request written (R106, R458): in the next slot of the ring, where it is writable, with
vector 1; the launch waits for its answer. -/
def postResidency (n : Nat) (l : Launch) (va pages : Nat) : M Unit := do
  let p ← look fun s => s.part? l.part
  match p with
  | none => pure ()
  | some p =>
    let k := p.resPos
    if p.cfg.resqn ≤ k || (p.resUsed.contains k && p.resq.any fun r => r.slot = k) then pure ()
    else do
      let _ ← deviceWrite l.part l.clk none (p.cfg.resq + 32 * k)
        (leBytesOf 8 0 ++ leBytesOf 4 l.ctx ++ leBytesOf 4 pages ++ leBytesOf 8 va ++ leBytesOf 8 l.desc)
      upd fun s =>
        let s := s.updPart l.part fun p =>
          { p with resPos := (k + 1) % maxN p.cfg.resqn 1, resUsed := insertNat p.resUsed k,
                   resq := p.resq ++ [⟨k, n, va⟩] }
        (s.updLaunch n fun l => { l with waiting := some k }).vector l.part 1

/-- What a grant that cannot go on does. -/
def stuck (n : Nat) (t : Stuck) : M Unit :=
  match t with
  | .refuse code detail => refuseLaunch n code detail
  | .absent va pages => do
    let l ← look fun s => s.launch? n
    match l with
    | none => pure ()
    | some l => postResidency n l va pages

/-- The address that stopped a walk. -/
def Stuck.at? : Option Stuck → List Nat
  | some (.absent va _) => [va]
  | some (.refuse 0x14 va) => [va]
  | _ => []

/-- STEPS 5 TO 7 OF R104: the walk, with its reads at home (R178), the rights, the seals; the pins taken are kept. -/
def grantWalk (n : Nat) (l : Launch) : M Unit := do
  let (xs, t) ← look fun s => walkRanges s l l.ranges
  let clk ← schedWalks l.part l.ctx l.clk ((xs.map (·.lo)) ++ Stuck.at? t)
  raiseLaunch n clk
  upd fun s => s.updLaunch n fun l => { l with pins := pinsOf xs }
  match t with
  | some t => stuck n t
  | none => do
    let t ← look fun s => spanRights s l.part xs
    match t with
    | some t => stuck n t
    | none => upd fun s => s.updLaunch n fun l => { l with ready := true }

/-- STEPS 1 TO 4 OF R104, once the kernel descriptor is read. -/
def grantDeclare (n : Nat) (l : Launch) : M Unit := do
  let (t, off) ← readKernel n l
  match t with
  | some t => stuck n t
  | none => do
    let l' ← look fun s => (s.launch? n).getD l
    match l'.kernel with
    | none => pure ()
    | some k => do
      let rs := k.ranges ++ l.ranges
      let t ← look fun s => declareCheck s l' k off rs
      match t with
      | some t => stuck n t
      | none => do
        let l'' : Launch := { l' with ranges := rs }
        upd fun s => s.updLaunch n fun _ => l''
        grantWalk n l''

/-! ## The cut (R361) -/

/-- Every piece that can be halved, halved. -/
def halveAll (k : Kernel) (ps : List (List Word)) : List (List Word) :=
  ps.flatMap fun d => match halves k d with | none => [d] | some (a, b) => [a, b]

/-- Pieces halved until they are at least `idle` cores divided by CLW·CLH, which need not be whole, or none can be
halved. -/
def cutTo (k : Kernel) (idle : Nat) : Nat → List (List Word) → List (List Word)
  | 0, ps => ps
  | fuel + 1, ps =>
    if ps.length * (k.clw * k.clh) < idle && ps.any (fun d => (halves k d).isSome) then cutTo k idle fuel (halveAll k ps)
    else ps

/-- The whole domain of a launch (R356). -/
def wholeDomain (l : Launch) (k : Kernel) : List Word :=
  (List.range 3).flatMap fun a => [0, if a < k.axes then w32 (l.ext.getD a 1) else 1]

/-- Cores of a partition. -/
def partCores (part size : Nat) : List Nat := (List.range (coresPerTwelfth * size)).map fun i => coresPerTwelfth * part + i

/-- The record of a piece (R361). -/
def pieceRec (l : Launch) (k : Kernel) (slot : Nat) (dom : List Word) : TaskRec :=
  { jointo := 0, join := 0, cluster := 0, affin := 0, team := 0, slot := slot, groups := 0, prio := k.prio,
    rst := 0, direct := false, later := false, dom := dom, frame := l.args, front := 0, code := k.entry,
    ts := 0, gen := 0 }

/-- The pieces of a granted launch pushed. -/
def cutLaunch (n : Nat) : M Unit := upd fun s =>
  match s.launch? n with
  | none => s
  | some l =>
    match l.kernel, s.part? l.part with
    | some k, some p =>
      let idle := (partCores l.part p.size).filter fun c => (s.teamsOn c).isEmpty
      (cutTo k idle.length idle.length [wholeDomain l k]).foldl (fun s d =>
        let (r, s) := s.freshRec l.part l.ctx (pieceRec l k l.slot d) l.clk
        s.pushRec l.part l.ctx n r none []) s
    | _, _ => s

/-- Launch slots that no granted launch of a context holds (R104 step 8). -/
def State.freeSlots (s : State) (part ctx : Nat) : List Nat :=
  let used := (s.launches.filter fun e => e.2.part = part && e.2.ctx = ctx && e.2.st = .granted).map (·.2.slot)
  (List.range 256).filter fun i => !used.contains i

/-- STEPS 8 AND 9 OF R104: a slot, STATE 1 and SLOT, the cut. Which free slot is a FREE VALUE. A launch of a
host waits while another one of a context in checkpoint mode holds its lease (R469 step 2). -/
def grantSlot (n : Nat) (l : Launch) : M Unit := do
  let free ← look fun s => s.freeSlots l.part l.ctx
  let wait ← look fun s =>
    l.host && (((s.part? l.part).map fun p => s.ctxCkpt p l.ctx).getD false) &&
      s.launches.any fun e => e.2.part = l.part && e.2.ctx = l.ctx && e.2.host && e.2.st = .granted
  if free.isEmpty || wait then pure ()
  else do
    let i ← draw
    let slot := free.getD (freeNat i % maxN free.length 1) 0
    upd fun s => s.updLaunch n fun l => { l with st := .granted, slot := slot }
    writeStatus n 0 (leBytesOf 4 1 ++ leBytesOf 4 slot)
    cutLaunch n

/-- LAUNCH_GRANT (R104): a pending launch taken as far as it goes. -/
def launchGrant (n : Nat) : M Unit := do
  let l ← look fun s => s.launch? n
  match l with
  | none => pure ()
  | some l => do
    let on ← look fun s => ((s.part? l.part).map fun p => decide (p.pstate = 1)).getD false
    if !on || l.st ≠ .pending || l.waiting.isSome then pure ()
    else do
      if l.ready then pure ()
      else if l.kernel.isSome then grantWalk n l
      else grantDeclare n l
      let l ← look fun s => s.launch? n
      match l with
      | none => pure ()
      | some l => if l.ready then grantSlot n l else pure ()

/-- RESIDENCY_ANSWER_POLL (R106, R458): on answer 1 the scheduler walks again, on answer 2 it refuses. -/
def answerPoll (part slot : Nat) : M Unit := do
  let p ← look fun s => s.part? part
  match p with
  | none => pure ()
  | some p =>
    match p.resq.find? fun r => r.slot = slot with
    | none => pure ()
    | some r =>
      if p.pstate ≠ 1 then pure ()
      else do
        let a := p.cfg.resq + 32 * slot
        mergeLine part (a / 64)
        let ans ← look fun s => s.le a 4
        if ans = 1 || ans = 2 then do
          upd fun s => s.updPart part fun p => { p with resq := p.resq.filter fun x => x ≠ r }
          upd fun s => s.updLaunch r.launch fun l => { l with waiting := none }
          if ans = 2 then refuseLaunch r.launch 0x17 r.va else pure ()
        else pure ()

/-! ## The end of a lease (R108, R362) -/

/-- Whether something of a launch remains: a record, a life, an operation, a launch of its own. -/
def State.launchBusy (s : State) (n : Nat) (l : Launch) : Bool :=
  ((s.part? l.part).map fun p =>
    (p.queue.any fun e => e.launch = n) || (p.pushq.any fun e => e.launch = n) ||
      (p.cmds.any fun c => c.launch = n) || p.resvs.any fun r => r.launch = n).getD false ||
    (s.lives.any fun e => e.2.launch = n) || (s.cores.any fun e => e.2.mq.any fun m => m.launch = n) ||
    s.launches.any fun e => e.2.parent = some n

/-- The checkpoint of a launch of a host that ends with STATE 2 (R469 step 4): every buffer with a dirty
page is published in one event, which the write of STATE 2 follows. -/
def checkpoint (n : Nat) (l : Launch) : M Unit := do
  let ds ← look fun s => (s.buffers l.part l.ctx).filter fun d => !(s.dirtyPairs l.part d).isEmpty
  if ds.isEmpty then pure ()
  else do
    let tp ← publishAt l.part l.ctx l.clk ds
    upd fun s => s.updLaunch n fun l => { l with clk := maxN l.clk tp }

/-- LEASE_END (R108, R362): the final STATE of a launch nothing of which remains. -/
def leaseEnd (n : Nat) : M Unit := do
  let l ← look fun s => s.launch? n
  match l with
  | none => pure ()
  | some l => do
    let busy ← look fun s => s.launchBusy n l
    if l.st ≠ .granted || busy then pure ()
    else do
      let ck ← look fun s => l.host && (((s.part? l.part).map fun p => s.ctxCkpt p l.ctx).getD false)
      match l.killed with
      | some a => if ck then rollbackContext l.part l.ctx else endLaunch n 3 (some a)
      | none => do
        if ck then checkpoint n l else pure ()
        endLaunch n 2 none

/-- LAUNCH_GRANT (R104). -/
def execLaunchGrant (launch : Nat) (s : State) : Host.Outcome State Fault Refusal :=
  event (launchGrant launch) s

/-- RESIDENCY_ANSWER_POLL (R458). -/
def execResidencyAnswerPoll (part slot : Nat) (s : State) : Host.Outcome State Fault Refusal :=
  event (answerPoll part slot) s

/-- LEASE_END (R362). -/
def execLeaseEnd (launch : Nat) (s : State) : Host.Outcome State Fault Refusal :=
  event (leaseEnd launch) s

end Sys2Proof.Machine
end

