-- ==== Sys2Proof/Machine/Task.lean ====
section
/-!
DEFINITION. The task instructions (OP 0xC0, R360, R364, R370, R373, R374, R379 to R381).
-/

namespace Sys2Proof.Machine

open Config

/-! ## launch -/

/-- The issuers of a form whose one operand stands in SA: once for a scalar, and each lane that takes part for a lane
or queue register or an immediate (R360, R370). -/
def srcIssuers (w : Who) (o : Opnd) : List Nat :=
  match o with
  | .s _ | .k _ | .spec _ => w.actors.take 1
  | _ => w.actors

/-- A run of bytes read on the generic path: the bytes, and whether uncorrectable data was met. -/
def genRun (w : Who) (va n : Nat) : M (List Byte × Bool) := do
  let r ← collectM (pieces va n) fun e => genRead w e.1 e.2 .near
  pure (r.flatMap fun e => e.1, r.any fun e => e.2)

/-- The leaf that a launch pins for its status record (R485): that of a private frame, of the tables, or a
pinned one. -/
def State.statusLeaf (s : State) (w : Who) (va : Nat) : Pin :=
  match s.twinOf w va with
  | some pa => ⟨va / 65536 * 65536, 65536, frameLeaf (pa / 65536 * 65536), noEntry⟩
  | none =>
    match s.pinAt w.part w.ctx va with
    | some p => p
    | none => ((s.launch? w.launch).bind fun l => l.pinOf va).getD ⟨va / 65536 * 65536, 65536, frameLeaf 0, noEntry⟩

/-- Whether a status record's page may not hold it (R485). -/
def State.statusPageBad (s : State) (w : Who) (va : Nat) : Bool :=
  match s.peekLeaf w va with
  | none => true
  | some e => !(leafClass e = 0 || leafClass e = 6) || leafS e || leafSH e

/-- The checks of R360 on the status records of the issuers. -/
def statusFault (s : State) (w : Who) (l : List Acc) : Option Trap :=
  failing w kALIGN 1 l (fun a => decide (a.ea % 16 ≠ 0)) <|>
    failing w kLEASE 1 l (fun a => !s.inLease w a.va 16 [rightW]) <|>
    failing w kALIGN 2 l fun a => s.statusPageBad w a.va

/-- `launch` (R360): every check for every issuer, the commit, the submissions. -/
def launchBody (w : Who) (f : Fields) : M Unit := do
  let a ← readEaA w f
  let l : List Acc := (srcIssuers w f.sa).map fun i => ⟨i, a i, a i⟩
  let t ← look fun s =>
    failing w kALIGN 1 l (fun x => decide (x.ea % 64 ≠ 0)) <|>
      failing w kLEASE 1 l fun x => !s.inLease w x.va 64 [rightR]
  check t
  let hs ← collectM l fun x => genRun w x.va 64
  let n (i : Nat) : Nat := fieldOf ((((l.zip hs).find? fun e => e.1.lane = i).map fun e => e.2.1).getD []) 7 1
  let t ← look fun s => failing w kLEASE 1 l fun x =>
    n x.lane ≠ 0 && decide (n x.lane ≤ 16) && !s.inLease w (x.va + 64) (24 * n x.lane) [rightR]
  check t
  let st : List Acc := (l.zip hs).map fun e => ⟨e.1.lane, fieldOf e.2.1 24 8, fieldOf e.2.1 24 8⟩
  let t ← look fun s => statusFault s w st
  check t
  let rs ← collectM l fun x => if n x.lane ≤ 16 then genRun w (x.va + 64) (24 * n x.lane) else pure ([], false)
  commitTask w
  each st fun x => walkReads w.part w.core w.ctx x.va
  let pts ← ptsOf w.core
  upd fun s => (l.zip (hs.zip rs)).foldl (fun s e =>
    let va := fieldOf e.2.1.1 24 8
    s.submit w.part w.ctx e.1.va (some w.launch) pts e.2.1.1 e.2.2.1 (s.statusLeaf w va)) s
  let bad := ((l.zip (hs.zip rs)).filter fun e => e.2.1.2 || e.2.2.2).map (·.1)
  let _ ← startOp w .engine [] [] (eccu w bad) pts []
  pure ()

/-! ## spawn -/

/-- The record that an issuer of `spawn` names; zeros where the address is none. -/
def State.spawnBytes (s : State) (w : Who) (a : Nat) : List Byte :=
  match s.laneSpad w.life a with
  | none => List.replicate 128 0
  | some g => s.spadBytes g a 128

/-- The checks of R370 for one issuer, in their order. -/
def spawnCheck (s : State) (w : Who) (a : Nat) : Option CmdFault :=
  let b := s.spawnBytes w a
  let r := TaskRec.ofBytes b
  let x (c : Nat) : Bool := s.inLease w c 1 [rightX]
  if spOff a % 128 ≠ 0 then some ⟨1, kALIGN, 1, a⟩
  else if spadBad (s.laneSpad w.life a) a 128 then some ⟨2, kLEASE, 3, a⟩
  else if recMalformed b true then some ⟨3, kALIGN, 2, a⟩
  else if r.code % 48 ≠ 0 then some ⟨4, kALIGN, 1, r.code⟩
  else if r.front % 48 ≠ 0 then some ⟨4, kALIGN, 1, r.front⟩
  else if r.jointo % 128 ≠ 0 then some ⟨4, kALIGN, 1, r.jointo⟩
  else if !x r.code then some ⟨5, kLEASE, 1, r.code⟩
  else if r.front ≠ 0 && !x r.front then some ⟨5, kLEASE, 1, r.front⟩
  else if r.jointo ≠ 0 && !s.inLease w r.jointo 128 [rightR, rightW] then some ⟨5, kLEASE, 1, r.jointo⟩
  else none

/-- `spawn` (R370): the checks, the commit, and the records pushed one after another; the gang goes on once each has
a place. -/
def spawnBody (w : Who) (f : Fields) : M Unit := do
  let a ← read1 w f.imm (srcRaw f.sa)
  let l := (srcIssuers w f.sa).map fun i => (i, (a i).toNat % 2 ^ 32)
  let t ← look fun s => firstFault w (l.map fun e => (e.1, spawnCheck s w e.2))
  check t
  let rs ← look fun s => l.map fun e => TaskRec.ofBytes (s.spawnBytes w e.2)
  commitTask w
  let pts ← ptsOf w.core
  let first ← look fun s => ((s.part? w.part).map (·.nextOrder)).getD 0
  upd fun s =>
    let slot := ((s.launch? w.launch).map (·.slot)).getD 0
    rs.foldl (fun s r =>
      let (r, s) := s.freshRec w.part w.ctx { r with slot := slot } pts
      s.pushRec w.part w.ctx w.launch r none []) s
  touchRows w l 128
  let _ ← startOp w (.spawn w.part ((List.range rs.length).map (first + ·))) [] [] none pts []
  pure ()

/-! ## phase, taskend, commit -/

/-- NFRONT of the issuer's phase record written (R374). -/
def setFront (w : Who) (a : Nat) : M Unit :=
  if w.level = .lane then upd fun s => s.updPhase w.life fun p => { p with nfront := a }
  else pure ()

/-- `phase` (R374): the participants arrive with their resume target. -/
def phaseBody (w : Who) (f : Fields) : M Unit := do
  let bins ← look fun s => ((s.teamOf w).map fun x => !x.bins.isEmpty).getD false
  if bins then stop .hold
  else do
    let a ← readTarget w f
    let front := a w.low
    checkTarget w (fun _ => front) fun _ => front % 2 ^ 56
    if front ≠ 0 then setFront w front else pure ()
    upd fun s => s.updGroup w.agent fun g =>
      (g.updLanes w.act fun _ l => { l with tgt := unitTarget w f.imm }).leave w.act .arrived

/-- A team that `taskend` halts (R373): its front context and sequencer programs end, its bins empty with
their lanes ended; its groups stop at their next clause boundaries. -/
def Team.taskEnded (x : Team) : Team :=
  let stopped (p : Prog) : Prog := { p with run := false, latch := none, rdv := none, sleep := none }
  let x := x.halted
  { x with front := stopped x.front, mseq := stopped x.mseq, cseq := stopped x.cseq, bins := [],
           ending := some .life }

/-- `taskend` (R373): the lanes of the issuing gang end at once. -/
def taskendBody (w : Who) (_ : Fields) : M Unit := upd fun s =>
  let s := if w.level = .lane then s.updTeam w.team Team.taskEnded else s
  s.endLanes w w.lanes

/-- `commit` (R364). -/
def commitBody (w : Who) (_ : Fields) : M Unit := commitTask w

/-! ## The register pool (R378 to R382) -/

/-- A malformed count (R379 to R381). -/
def countTrap (w : Who) : Trap := { kind := kALIGN, cause := 2, mask := w.failMask w.act }

/-- GRAIN at a request that is not met (R368, R419). -/
def grainTrap (s : State) (w : Who) (cause : Nat) : Trap :=
  { kind := kGRAIN, cause := cause, mask := w.failMask w.act, info := ((s.teamOf w).map (·.task.dom)).getD [] }

/-- Whether an issuer's task is a first phase that has not committed (R368). -/
def State.firstOpen (s : State) (w : Who) : Bool :=
  match s.teamOf w with
  | none => false
  | some x => decide (x.mode ≠ .committed) && !x.task.later

/-- What follows an `alloc` that is not met (R368). -/
def allocUnmet (w : Who) : M Unit := do
  let first ← look fun s => s.firstOpen w
  if first then stop .abort
  else do
    let t ← look fun s => grainTrap s w (if s.modeOf w = .committed then 2 else 3)
    trap t

/-- Whether a group's window can grow by `n` now (R379). -/
def State.canGrow (s : State) (w : Who) (n : Nat) : Bool :=
  w.level = .lane && decide ((s.groupOf w).need n ≤ s.sideFree w.core (w.g % 2)) &&
    ((s.core w.core).claimq (w.g % 2)).isEmpty

/-- The window of the issuer's group grown. -/
def growWindow (w : Who) (n : Nat) : M Unit := upd fun s =>
  (s.updGroup w.agent fun g => g.grow n).poolChanged w.core (w.g % 2)

/-- The count of a pool form, from the lowest participant (R379). -/
def readCount (w : Who) (f : Fields) : M Nat := do
  let a ← read1 w f.imm (srcRaw f.sa)
  pure ((a w.low).toNat % 2 ^ 32)

/-- The ALIGN check of a request for `n` registers (R379). -/
def checkGrow (w : Who) (n : Nat) : M Unit := do
  let win ← look fun s => (s.groupOf w).w
  if n = 0 || 512 < win + n then trap (countTrap w) else pure ()

/-- Free scratchpad banks of a core (R216). -/
def State.freeBanks (s : State) (core : Nat) : List Nat :=
  (List.range 48).filter fun b =>
    (s.core core).bankMode b = .scratch && !s.lives.any fun e => e.2.core = core && e.2.banks.contains b

/-- FREE VALUE: which `n` of a list are taken. -/
def pickSome (l : List Nat) (n : Nat) : M (List Nat) := do
  let i ← draw
  let k := freeNat i % maxN l.length 1
  pure ((l.drop k ++ l.take k).take n)

/-- Banks given to a life, zeroed (R216). -/
def State.giveBanks (s : State) (life core scratch : Nat) (bs : List Nat) : State :=
  (s.updCore core fun k => bs.foldl Core.zeroBank k).updLife life fun f =>
    { f with banks := bs, scratch := scratch }

/-- `alloc` with k = 1 (R379): scratchpad for the team. -/
def allocScratch (w : Who) (n : Nat) : M Unit :=
  if n = 0 || 1572864 < n then trap (countTrap w)
  else do
    let g ← look fun s => if w.level = .lane then s.life? w.life else none
    match g with
    | none => allocUnmet w
    | some g =>
      if !g.banks.isEmpty then (if n ≤ g.scratch then pure () else allocUnmet w)
      else do
        let free ← look fun s => s.freeBanks w.core
        let k := ceilDiv n 32768
        if free.length < k then allocUnmet w
        else do
          let bs ← pickSome free k
          upd fun s => s.giveBanks w.life w.core n bs

/-- `alloc` (R379). -/
def allocBody (w : Who) (f : Fields) : M Unit := do
  let n ← readCount w f
  if rawImm f.imm f.sb = 1 then allocScratch w n
  else do
    checkGrow w n
    let met ← look fun s => s.canGrow w n
    if met then growWindow w n else allocUnmet w

/-- `claim` (R380): met, abort, or parked at the next clause. -/
def claimBody (w : Who) (f : Fields) : M Unit := do
  let n ← readCount w f
  checkGrow w n
  let met ← look fun s => s.canGrow w n
  if met then growWindow w n
  else do
    let first ← look fun s => s.firstOpen w
    if first then stop .abort
    else upd fun s =>
      let s := s.updGroup w.agent fun g => { g with park := some n }
      if w.level = .lane then
        (s.updCore w.core fun k =>
          k.setClaimq (w.g % 2) (k.claimq (w.g % 2) ++ [(w.team, w.g)])).poolChanged w.core (w.g % 2)
      else s

/-- One more than the highest carried lane register of the issuer's kernel (R381). -/
def State.carriedTop (s : State) (w : Who) : Nat :=
  match (s.launch? w.launch).bind (·.kernel) with
  | none => 0
  | some k => ((List.range 512).filter fun i => k.vcarry.getLsbD i).foldl (fun m i => maxN m (i + 1)) 0

/-- A group whose window has shrunk (R381): the registers above it are lost; a tentative task keeps them
out of the pool until it commits. -/
def Group.shrink (g : Group) (n : Nat) (keep : Bool) : Group :=
  { g with w := g.w - n, alloc := if keep then g.alloc else regsOf (g.w - n),
           lanes := g.lanes.map fun l => { l with v := SMap.range l.v 0 (g.w - n) } }

/-- `release` (R381). -/
def releaseBody (w : Who) (f : Fields) : M Unit := do
  let n ← readCount w f
  let win ← look fun s => (s.groupOf w).w
  let top ← look fun s => s.carriedTop w
  if n = 0 || win < n + 1 || win < n + top then trap (countTrap w)
  else do
    let keep ← look fun s => decide (s.modeOf w = .tentative)
    upd fun s =>
      let s := s.updGroup w.agent fun g => g.shrink n keep
      if w.level = .lane then s.poolChanged w.core (w.g % 2) else s

/-- `launch` (R360). -/
def execLaunch (f : Fields) (s : State) : Host.Outcome State Fault Refusal :=
  issue (.launch f) (launchBody) s

/-- `spawn` (R370). -/
def execSpawn (f : Fields) (s : State) : Host.Outcome State Fault Refusal :=
  issue (.spawn f) (spawnBody) s

/-- `phase` (R374). -/
def execPhase (f : Fields) (s : State) : Host.Outcome State Fault Refusal :=
  issue (.phase f) (phaseBody) s

/-- `taskend` (R373). -/
def execTaskend (f : Fields) (s : State) : Host.Outcome State Fault Refusal :=
  issue (.taskend f) (taskendBody) s

/-- `commit` (R364). -/
def execCommit (f : Fields) (s : State) : Host.Outcome State Fault Refusal :=
  issue (.commit f) (commitBody) s

/-- `alloc` (R379). -/
def execAlloc (f : Fields) (s : State) : Host.Outcome State Fault Refusal :=
  issue (.alloc f) (allocBody) s

/-- `claim` (R380). -/
def execClaim (f : Fields) (s : State) : Host.Outcome State Fault Refusal :=
  issue (.claim f) (claimBody) s

/-- `release` (R381). -/
def execReleaseRegs (f : Fields) (s : State) : Host.Outcome State Fault Refusal :=
  issue (.releaseRegs f) (releaseBody) s

end Sys2Proof.Machine
end

