-- ==== Sys2Proof/Machine/Start.lean ====
section
/-!
DEFINITION. The course of tasks: scrubs and the frame pool (R119, R463), the choice and start of a record
(R356 to R359), arrivals and phases (R375, R376), the end of a task (R371, R372), the allowance (R367,
R368).
-/

namespace Sys2Proof.Machine

open Config

/-! ## Scrubs and the frame pool (R119, R463) -/

/-- A SCRUB of a frame (R463): bytes and tags zero, STATE 3, every copy dropped; a frame outside the partition's own
stacks is none of its own and stays as it is (R15). -/
def scrubFrame (part frame : Nat) : M Unit := do
  let own ← look fun s => s.own part frame 65536
  let held ← look fun s => if own then s.knownLines frame else []
  each held fun l => mergeLine part l
  upd fun s => if !own then s else
    let s := (s.zeroRange frame 65536).dropFrame part frame
    let inF (l : Nat) : Bool := frame / 64 ≤ l && l < frame / 64 + 1024
    let lines := SMap.map s.lines fun k l =>
      if inF k then { l with link := none, dirty := none, lastCore := none, lastMask := 0 } else l
    State.markDirty { s with
      lines := lines.filter fun e => decide (e.2 ≠ LineSt.init),
      upsets := s.upsets.filter fun u => match u with | .block l _ | .l2 l _ => !(inF l) | _ => true } part frame
  let _ ← appendWrite part 0 frame ⟨0, 0, 0, 3, true⟩
  pure ()

/-- Free frames of a partition's frame pool; a retired frame is in no pool (R119, R478). -/
def State.poolFrames (s : State) (part : Nat) : List Nat :=
  match s.part? part with
  | none => []
  | some p => ((List.range p.cfg.fpooln).map fun i => p.cfg.fpool + 65536 * i).filter fun f =>
      !p.poolTaken.contains f && !s.retired.contains f

/-- Frames taken from the pool and scrubbed. Which ones is a FREE VALUE. -/
def takeFrames (part n : Nat) : M (List Nat) := do
  let free ← look fun s => s.poolFrames part
  let l ← pickSome free n
  upd fun s => s.updPart part fun p => { p with poolTaken := l.foldl insertNat p.poolTaken }
  each l fun f => scrubFrame part f
  pure l

/-! ## Which record starts (R357, R358) -/

/-- Groups of a first phase (R358). -/
def groupsOf (k : Kernel) (t : TaskRec) : Nat :=
  if t.groups ≠ 0 then t.groups else minN 64 (2 * minN 32 (384 / maxN (ceilDiv k.regs 8) 1))

/-- Frame pages of a team of `g` groups: 16 KiB for each lane, and what its phase record takes (R117, R119, R377). -/
def pagesOf (k : Kernel) (g : Nat) : Nat := 8 * g + ceilDiv (64 + g * k.areaBytes) 65536

/-- Resident groups of a side of a core. -/
def State.sideCount (s : State) (core side : Nat) : Nat := (s.sideGroups core side).length

/-- Whether windows by group number fit a core beside what it holds (R239, R358). -/
def State.windowsFit (s : State) (core : Nat) (ws : List (Nat × Nat)) : Bool :=
  let k := s.core core
  decide ((s.teamsOn core).length < 4) && k.claimq0.isEmpty && k.claimq1.isEmpty &&
    [0, 1].all fun side =>
      let l := ws.filter fun e => e.1 % 2 = side
      decide ((l.map fun e => regsOf e.2).sum ≤ s.sideFree core side) &&
        decide (s.sideCount core side + l.length ≤ 32)

/-- The cores of a cluster whose lowest row and column is a core; none where the rectangle leaves the
twelfth (R358). -/
def rectangle (core clw clh : Nat) : Option (List Nat) :=
  if 8 < core % 8 + clw || 4 < core / 8 % 4 + clh then none
  else some ((List.range clh).flatMap fun r => (List.range clw).map fun c => core + 8 * r + c)

/-- Cluster numbers of a launch that are not live; the lowest (R359). -/
def State.freeCluster (s : State) (launch : Nat) : Option Nat :=
  let used := (s.lives.filter fun e => e.2.launch = launch && !e.2.ended).map fun e => e.2.cluster
  (List.range 2730).find? fun n => !used.contains n

/-- Whether a first phase fits (R358). -/
def State.firstFits (s : State) (part core : Nat) (e : QEnt) : Bool :=
  match (s.launch? e.launch).bind (·.kernel) with
  | none => false
  | some k =>
    match rectangle core k.clw k.clh with
    | none => false
    | some cs =>
      let g := groupsOf k e.task
      let ws := (List.range g).map fun i => (i, k.regs)
      (cs.all fun c => s.windowsFit c ws && decide (ceilDiv k.scratch 32768 ≤ (s.freeBanks c).length)) &&
        (s.freeCluster e.launch).isSome &&
        (!e.kept.isEmpty || decide (pagesOf k g * cs.length ≤ (s.poolFrames part).length))

/-- Whether a later phase fits (R358). -/
def State.laterFits (s : State) (core life : Nat) (e : QEnt) : Bool :=
  match s.life? life with
  | none => false
  | some f => (e.task.affin = 0 || e.task.affin = core + 1) &&
      s.windowsFit core (List.map (fun a => (a.1, a.2.w)) f.phase.areas)

/-- Saved teams of a cluster by `$teamid`, with their save slots as keys. -/
def State.savedTeams (s : State) (l : List Nat) : List (Nat × Saved) :=
  (List.range 12).filterMap fun i =>
    s.saved.find? fun e => l.contains e.1 && ((s.life? e.2.team.life).map fun f => decide (f.team = i)).getD false

/-- Free even rows for a FIFO of a depth in the FIFO-mode banks of a core, beside FIFOs placed before:
bank and base (R226, R237). -/
def placeFifo (k : Core) (taken : List (Nat × Nat × Nat)) (depth : Nat) : Option (Nat × Nat) :=
  ((List.range 48).filter fun b => k.bankMode b = .fifo).findSome? fun b =>
    ((List.range 256).map (2 * ·)).findSome? fun base =>
      if base + 2 * depth ≤ 512 && !(taken.any fun t => t.1 = b && overlaps t.2.1 t.2.2 base (2 * depth)) then
        some (b, base)
      else none

/-- Places for FIFOs of some depths, one after another. -/
def placeFifos (k : Core) (taken : List (Nat × Nat × Nat)) : List Nat → Option (List (Nat × Nat))
  | [] => some []
  | d :: rest =>
    match placeFifo k taken d with
    | none => none
    | some (b, base) => (placeFifos k ((b, base, 2 * d) :: taken) rest).map fun l => (b, base) :: l

/-- Rows that the FIFOs of a core take. -/
def Core.fifoRows (k : Core) : List (Nat × Nat × Nat) :=
  List.map (fun e => (e.2.bank, e.2.base, 2 * e.2.depth)) k.fifos

/-- Whether a saved team fits a core (R435). -/
def State.savedFits (s : State) (core : Nat) (v : Saved) : Bool :=
  let k := s.core core
  let ws := (v.team.groups.filter fun e => e.2.live).map fun e => (e.1, e.2.w)
  let nb := ((s.life? v.team.life).map fun f => f.banks.length).getD 0
  s.windowsFit core ws && decide (nb ≤ (s.freeBanks core).length) &&
    (v.fifos.all fun e => (SMap.get? k.fifos e.1).isNone) && (v.gongs.all fun e => (SMap.get? k.gongs e.1).isNone) &&
    (placeFifos k k.fifoRows (List.map (fun e => e.2.depth) v.fifos)).isSome

/-- The core that each team of a resume entry would take: its place in the cluster's rectangle, or the core
itself for a team that is alone. -/
def State.resumePlaces (s : State) (core : Nat) (e : QEnt) : Option (List (Nat × Nat × Saved)) :=
  let vs := s.savedTeams e.resume
  let team (v : Saved) : Nat := ((s.life? v.team.life).map (·.team)).getD 0
  if vs.length ≤ 1 then some (vs.map fun v => (core, v))
  else
    match (s.launch? e.launch).bind (·.kernel) with
    | none => none
    | some k => (rectangle core k.clw k.clh).map fun cs => vs.map fun v => (cs.getD (team v.2) core, v)

/-- Whether the cluster of a resume entry fits (R435). -/
def State.resumeFits (s : State) (core : Nat) (e : QEnt) : Bool :=
  match s.resumePlaces core e with
  | none => false
  | some l => !l.isEmpty && l.all fun x => s.savedFits x.1 x.2.2

/-- Whether an entry of the queues may be popped and fits a core. -/
def State.entryFits (s : State) (part core : Nat) (p : Part) (e : QEnt) : Bool :=
  !(p.ctxSt e.ctx).noPop && !(s.ctxSaved p e.ctx) && (s.launch? e.launch).isSome &&
    (if !e.resume.isEmpty then !(e.resume.any (p.ctxSt e.ctx).kept.contains) && s.resumeFits core e
     else
      match e.life with
      | none => s.firstFits part core e
      | some l => s.laterFits core l e)

/-- Effective priority of an entry (R357). -/
def QEnt.prio (e : QEnt) (now : Nat) : Nat := minN 7 (e.task.prio + (now - e.pushed) / 65536)

/-- The queue that an entry stands in: a priority, or 8 and a core (R357). -/
def QEnt.queue (e : QEnt) : Nat × Nat := if e.task.affin = 0 then (e.task.prio, 0) else (8, e.task.affin)

/-- The entries that an idle core examines (R358): the first 16 of each priority queue and of its own. -/
def Part.heads (p : Part) (core : Nat) : List Nat :=
  (((List.range 8).map fun i => (i, 0)) ++ [(8, core + 1)]).flatMap fun q =>
    List.map (fun e : QEnt => e.order) ((p.queue.filter fun e : QEnt => decide (e.queue = q)).take 16)

/-- The entry that a core pops: the first that fits, by effective priority and then by push order (R358). -/
def State.popChoice (s : State) (part core : Nat) : Option QEnt :=
  match s.part? part with
  | none => none
  | some p =>
    if p.pstate ≠ 1 || !(part ≤ core / 32 && core / 32 < part + p.size) then none
    else
      let hs := p.heads core
      let l := p.queue.filter fun e => hs.contains e.order
      ([7, 6, 5, 4, 3, 2, 1, 0].flatMap fun pr => l.filter fun e => e.prio s.cyc = pr).find? fun e =>
        s.entryFits part core p e

/-- An entry popped. -/
def State.popEntry (s : State) (part : Nat) (e : QEnt) : State :=
  (s.updPart part fun p => { p with queue := p.queue.filter fun x => x.order ≠ e.order }).refill part

/-! ## Starting a task (R359, R376) -/

/-- A front context or sequencer that starts at a clause, or that does not run. -/
def Prog.entry (a : Nat) : Prog :=
  if a = 0 then Prog.init else { Prog.init with run := true, pc := a % 2 ^ 56, base := a % 2 ^ 56 }

/-- A team at the start of a task. -/
def Team.start (life core : Nat) (t : TaskRec) (groups : SMap Group) (allow slice : Nat) : Team :=
  { life := life, core := core, task := t, mode := if t.direct then .direct else .tentative, gen := t.gen,
    groups := groups, front := Prog.entry t.front, mseq := Prog.init, cseq := Prog.init, bins := [], dq := [],
    dqBase := 0, allow := allow, allowOut := false, slice := slice, run := .running, fault := none,
    token := none, tent := [], tentTags := [], reads := [], staged := [], popped := [], tentLeaves := [],
    tentPairs := [], tentShared := [], tentBy := [], entry := [], entryGongs := [], ending := none }

/-- A group with its place in the age order of its side, from which its gangs take theirs (R383); no cycle has passed
it over yet. -/
def Group.aged (g : Group) (age now : Nat) : Group :=
  { g with age := age, quads := g.quads.map fun q => { q with age := age, lastCyc := now } }

/-- Groups of a task that starts on a core in the age order of their sides: after every group there, by `$groupid`
(R383). -/
def State.agedGroups (s : State) (core : Nat) (gs : SMap Group) : SMap Group :=
  SMap.map gs fun g y => y.aged (s.nextAge core (g % 2) + g) s.cyc

/-- A core whose constant and tile caches are empty, for a lane that ran on another core: no copy there may be older
than what it has read (R138). DESIGN CHOICE: every line goes (log 55). -/
def State.freshPaths (s : State) (old new : Nat) : State :=
  if old = new then s else s.updCore new fun k => { k with con := [], tile := [] }

/-- A group of a first phase (R359). -/
def firstGroup (k : Kernel) (t : TaskRec) (now : Nat) : Group :=
  let g := Group.start (t.code % 2 ^ 56) k.regs now (BitVec.allOnes 32)
  let g := if k.scarry.getLsbD 0 then g.setScalar 0 (w32 t.frame) else g
  if k.scarry.getLsbD 1 then g.setScalar 1 (w32 (t.frame / 2 ^ 32)) else g

/-- A group of a later phase from its area (R376). -/
def laterGroup (a : Area) (now : Nat) : Group :=
  let g := Group.start 0 a.w now a.mask
  { g with
    sreg := a.s
    lanes := (List.range 32).map fun i =>
      if a.mask.getLsbD i then
        let t := a.targets.getD i 0
        { g.lane i with pc := t, base := t,
                        v := a.v.foldl (fun m e => SMap.putD 0 m e.1 (e.2.getD i 0)) [] }
      else g.lane i
    quads := g.quads.map fun q => { q with bound := true } }

/-- The team of a first phase on one core: its life, banks, frames and groups; a task that starts again has its frames
(R119). -/
def startFirst (part : Nat) (e : QEnt) (k : Kernel) (cluster team life core : Nat) : M Unit := do
  let g := groupsOf k e.task
  let kept := e.kept.getD team []
  let frames ← if kept.isEmpty then takeFrames part (pagesOf k g) else pure kept
  let free ← look fun s => s.freeBanks core
  let bs ← pickSome free (ceilDiv k.scratch 32768)
  raisePts core e.task.ts
  upd fun s =>
    let (t, s) := s.fresh
    let task := { e.task with cluster := cluster, team := 0 }
    let f : Life :=
      { part := part, ctx := e.ctx, launch := e.launch, cluster := cluster, team := team, core := core, banks := [],
        scratch := 0, cap := [], frames := frames, ngroups := g,
        phase := ⟨0, 0, BitVec.ofNat 64 (2 ^ g - 1), 0, 0, decide (task.front ≠ 0), false, []⟩, ended := false,
        seat := s.freeSeat core }
    let s := { s with lives := SMap.put s.lives life f }.updPhase life id
    let s := s.giveBanks life core k.scratch bs
    let slice := ((s.part? part).map (·.cfg.tslice)).getD tslice
    let gs := s.agedGroups core ((List.range g).map fun i => (i, firstGroup k task s.cyc))
    { s with teams := SMap.put s.teams t (Team.start life core task gs k.allow slice) }

/-- `n` fresh serial numbers, one after another. -/
def takeSerials : Nat → M (List Nat)
  | 0 => pure []
  | n + 1 => do
    let a ← takeSerial
    let r ← takeSerials n
    pure (a :: r)

/-- A first phase started on its core or rectangle. -/
def startFirsts (part core : Nat) (e : QEnt) : M Unit := do
  let l ← look fun s => s.launch? e.launch
  match l.bind (·.kernel) with
  | none => pure ()
  | some k =>
    match rectangle core k.clw k.clh with
    | none => pure ()
    | some cs => do
      let n ← look fun s => (s.freeCluster e.launch).getD 0
      let ids ← takeSerials cs.length
      each ((List.range cs.length).zip (cs.zip ids)) fun x => startFirst part e k n x.1 x.2.2 x.2.1

/-- A later phase started (R376). -/
def startLater (core life : Nat) (e : QEnt) : M Unit := do
  raisePts core e.task.ts
  upd fun s =>
    match s.life? life with
    | none => s
    | some f =>
      let (t, s) := s.fresh
      let s := s.freshPaths f.core core
      let gs := s.agedGroups core (List.map (fun a => (a.1, laterGroup a.2 s.cyc)) f.phase.areas)
      let gongs := (s.core core).gongs.filter fun e => e.2.holder = life
      let allow := (((s.launch? f.launch).bind (·.kernel)).map (·.allow)).getD 0
      let slice := ((s.part? f.part).map (·.cfg.tslice)).getD tslice
      let live := BitVec.ofNat 64 (maskOf (List.map (·.1) gs))
      let seat := s.freeSeat core
      let s := (s.updLife life fun f => { f with core := core, seat := seat }).updPhase life fun p =>
        { p with arrived := 0, live := live, frontIn := decide (e.task.front ≠ 0), frontDone := false, areas := [] }
      let x := { Team.start life core e.task gs allow slice with entry := f.phase.areas, entryGongs := gongs }
      { s with teams := SMap.put s.teams t x }

/-- TASK_START (R358, R359): a core pops the first record that fits and starts its team. -/
def taskStart (part core : Nat) : M Unit := do
  let e ← look fun s => s.popChoice part core
  match e with
  | none => pure ()
  | some e =>
    if !e.resume.isEmpty then pure ()
    else do
      upd fun s => s.popEntry part e
      match e.life with
      | none => startFirsts part core e
      | some l => startLater core l e

/-! ## Faults recorded after issue (R417) -/

/-- The oldest fault recorded after issue of a group whose lanes have all stopped for good, or of a program
that does not run, with the agent. -/
def Team.lateOf (x : Team) (t : Nat) : Option (Agent × FaultRec) :=
  let idle (p : Prog) : Option FaultRec := if p.run then none else p.late.head?
  match x.groups.findSome? fun e =>
      if e.2.live && !(e.2.idle || (e.2.noPath && e.2.anyArrived)) then none
      else e.2.late.head?.map fun r => (Agent.lane t e.1 0, r) with
  | some a => some a
  | none =>
    match idle x.front, idle x.mseq, idle x.cseq with
    | some r, _, _ => some (.front t, r)
    | none, some r, _ => some (.seqr t false, r)
    | none, none, some r => some (.seqr t true, r)
    | none, none, none => none

/-- The oldest late fault of a group or program leaves it. -/
def State.dropLate (s : State) (a : Agent) : State :=
  match a with
  | .lane .. | .handler .. => s.updGroup a fun g => { g with late := g.late.drop 1 }
  | _ => s.updProg a fun p => { p with late := p.late.drop 1 }

/-- A late fault of an agent that reaches no clause boundary any more raised at once (R417): whether there
was one. -/
def raiseLate (t : Nat) : M Bool := do
  let x ← look fun s => s.team? t
  match x.bind fun x => x.lateOf t with
  | none => pure false
  | some (a, r) => do
    upd fun s => ((s.dropLate a).recordFault t a r).noteStop t
    pure true

/-! ## Arrivals and phases (R375, R376) -/

/-- The carry set of a group's arrived lanes, its window and targets (R375). -/
def areaOf (k : Kernel) (g : Group) : Area :=
  let here := (List.range 32).filter fun i => (g.lane i).st = .arrived
  let regs := (List.range g.w).filter fun n => k.vcarry.getLsbD n
  { w := g.w, mask := laneMask here, targets := (List.range 32).map fun i => if here.contains i then (g.lane i).tgt else 0,
    s := g.sreg.filter fun e => k.scarry.getLsbD e.1,
    v := regs.map fun n => (n, (List.range 32).map fun i => if here.contains i then (g.lane i).reg n else 0) }

/-- Whether a team's task has run out of agents: every group has arrived or ended, no bin holds a lane, and
the front context is over (R372, R376). -/
def Team.tasksOver (x : Team) : Bool := x.groupsOver && x.frontOver

/-- What the last arrival or end of a task does (R376): the commit, and whether a phase completes or the
life ends. -/
def finishTask (t : Nat) : M Unit := do
  let x ← look fun s => s.team? t
  match x with
  | none => pure ()
  | some x =>
    if !x.tasksOver || x.fault.isSome || x.ending.isSome then pure ()
    else do
      commitTeam t
      let pts ← ptsOf x.core
      let arrived : Bool := x.groups.any fun e => e.2.hasArrived
      upd fun s =>
        let s := s.updTeam t fun x => { x with ending := some (if arrived then .phase else .life) }
        s.updPhase x.life fun p => { p with tsmax := maxN p.tsmax pts, frontDone := p.frontIn }

/-- GROUP_ARRIVAL (R375): a group with an arrived lane, none running or recorded, and free flags writes its
area; the last arrival completes the phase. -/
def groupArrival (t g : Nat) : M Unit := do
  let x ← look fun s => s.team? t
  match x with
  | none => pure ()
  | some x =>
    match SMap.get? x.groups g with
    | none => pure ()
    | some y =>
      if !y.live || !y.noPath || !y.anyArrived || !y.flags.isEmpty || !y.late.isEmpty || x.ending.isSome then pure ()
      else do
        let k ← look fun s => ((s.life? x.life).bind fun f => s.launch? f.launch).bind (·.kernel)
        match k with
        | none => pure ()
        | some k => do
          let pts ← ptsOf x.core
          upd fun s =>
            let s := (s.updPhase x.life fun p =>
              { p with arrived := p.arrived ||| BitVec.ofNat 64 (2 ^ g), tsmax := maxN p.tsmax pts }).putArea x.life g k
                (areaOf k y)
            let s := s.updGroup (.lane t g 0) fun y => { y with hasArrived := true, live := false }
            (s.updTeam t Team.trimDq).poolChanged x.core (g % 2)
          finishTask t

/-! ## The end of a task (R371, R372) -/

/-- The decrement of a join record at the end of a life (R371), and the push of the record that
reaches 0. -/
def joinEnd (f : Life) (life core gen : Nat) (t : TaskRec) : M Unit := do
  let l ← look fun s => s.launch? f.launch
  match l with
  | none => pure ()
  | some l =>
    if t.jointo = 0 then pure ()
    else do
      let pts ← ptsOf core
      let fail : M Unit := upd fun s => s.updLaunch f.launch fun l =>
        { l with killed := some (l.killed.getD t.jointo) }
      let b ← schedRead f.part f.ctx pts t.jointo 128
      match b with
      | none => fail
      | some (b, bad, _) =>
        if bad then fail
        else if fieldOf b 92 4 = 0 then pure ()
        else do
          let w : Who := { engineWho f.part f.ctx f.launch ⟨life, gen, core, 0, 0⟩ with level := .lane }
          let (old, bad) ← genAtomic w (t.jointo + 92) .n32 .fadd 4294967295 0
          if bad then fail
          else if old ≠ 1 then pure ()
          else
            let b := b.take 92 ++ leBytesOf 4 0 ++ b.drop 96
            let r := TaskRec.ofBytes b
            if recMalformed b true || !recAligned r || !recLeased l.ranges r then fail
            else do
              let pts ← ptsOf core
              upd fun s =>
                let (r, s) := s.freshRec f.part f.ctx { r with slot := l.slot } (maxN r.ts pts)
                s.pushRec f.part f.ctx f.launch r none []

/-- Whether a life keeps its core between phases: it holds scratchpad, a gong or a FIFO, or has a cluster
(R376). -/
def State.bound (s : State) (life : Nat) (f : Life) : Bool :=
  let k := s.core f.core
  !f.banks.isEmpty || (k.gongs.any fun e => e.2.holder = life) || (k.fifos.any fun e => e.2.owner = life) ||
    ((((s.launch? f.launch).bind (·.kernel)).map fun k => decide (1 < k.clw * k.clh)).getD false)

/-- The record of the next phase pushed (R376). -/
def State.pushPhase (s : State) (x : Team) (f : Life) : State :=
  let r := { x.task with code := 0, front := f.phase.nfront, later := true, direct := true,
                         ts := f.phase.tsmax, team := f.team,
                         affin := if s.bound x.life f then f.core + 1 else 0 }
  let s := s.updPhase x.life fun p => { p with arrived := 0, nfront := 0, tsmax := 0, phn := p.phn + 1 }
  s.pushRec f.part f.ctx f.launch r (some x.life) []

/-- Every lane of a team that `taskend` has stopped ended (R373). -/
def State.endGroups (s : State) (t : Nat) : State :=
  match s.team? t with
  | none => s
  | some x =>
    let s := s.updTeam t fun x =>
      { x with bins := [], groups := SMap.map x.groups fun _ g => g.leave (List.range 32) .ended }
    (x.groups.filter fun e => e.2.live).foldl (fun s e => s.endGroup t e.1) s

/-- Whether an operation of a task is outstanding (R372 step 2). -/
def State.opsOf (s : State) (life gen : Nat) : Bool :=
  s.ops.any fun e => e.2.owner.life = life && e.2.owner.gen = gen

/-- TASK_END (R372): the commit; once every operation has completed, the next phase or the end of the
life. -/
def taskEnd (t : Nat) : M Unit := do
  let x ← look fun s => s.team? t
  match x with
  | none => pure ()
  | some x =>
    if x.fault.isSome then pure ()
    else do
      let late ← raiseLate t
      if late then pure ()
      else if x.ending = some .life && !x.groupsOver then
        (if x.quiet then do
          upd fun s => s.endGroups t
          commitTeam t
         else pure ())
      else do
        finishTask t
        let x ← look fun s => (s.team? t).getD x
        let f ← look fun s => s.life? x.life
        let busy ← look fun s => s.opsOf x.life x.gen
        match x.ending, f with
        | some k, some f =>
          if busy then pure ()
          else if x.mode ≠ .committed then commitTeam t
          else
            match k with
            | .phase => upd fun s => (s.pushPhase x f).removeTeam t
            | .life => do
              joinEnd f x.life x.core x.gen x.task
              upd fun s => (s.removeTeam t).endLife x.life
        | _, _ => pure ()

/-! ## The allowance (R367, R368) -/

/-- A team that pre-emption is requested of (R433). -/
def Team.request (x : Team) (now : Nat) : Team :=
  match x.run with
  | .running => { x with run := .preempting now }
  | _ => x

/-- Resident teams of a team's cluster, by place. -/
def State.mates (s : State) (t : Nat) : List Nat :=
  match (s.team? t).bind fun x => s.life? x.life with
  | none => []
  | some f =>
    (s.teams.filter fun e =>
      match s.life? e.2.life with
      | none => false
      | some g => g.launch = f.launch && g.cluster = f.cluster).map (·.1)

/-- `n` free save slots of a context, lowest first; fewer where there are not so many (R435, R438). -/
def State.saveSlots (s : State) (part ctx n : Nat) : List Nat :=
  match s.part? part with
  | none => []
  | some p =>
    let used := (s.saved.filter fun e =>
      match s.life? e.2.team.life with | none => false | some f => f.part = part && f.ctx = ctx).map fun e => e.2.slot
    let top := minN (s.ctxField p ctx 100 4) (used.length + n)
    ((List.range top).filter fun i => !used.contains i).take n

/-- Whether a task is a first phase that has not committed: it is pushed again and not saved (R435). -/
def Team.reborn (x : Team) : Bool := x.mode ≠ .committed && !x.task.later

/-- Teams of some whose task has committed, which a pre-emption saves; the others are pushed again (R435). -/
def State.toSave (s : State) (ms : List Nat) : List Nat :=
  ms.filter fun m => ((s.team? m).map fun x => decide (x.mode = .committed)).getD false

/-- Whether the cluster of a team can be pre-empted: it is pushed again, or there are slots for it (R435). -/
def State.canSave (s : State) (t : Nat) : Bool :=
  let ms := s.mates t
  (ms.any fun m => ((s.team? m).map Team.reborn).getD false) ||
    (match (s.team? t).bind fun x => s.life? x.life with
     | none => false
     | some f => decide ((s.toSave ms).length ≤ (s.saveSlots f.part f.ctx (s.toSave ms).length).length))

/-- PRE-EMPTION REQUESTED of a team and of its cluster (R434, R435); where no slot is free its timer starts
again. -/
def State.requestSave (s : State) (t : Nat) : State :=
  if s.canSave t then (s.mates t).foldl (fun s m => s.updTeam m fun x => x.request s.cyc) s
  else
    let slice := (((s.team? t).bind fun x => s.life? x.life).bind fun f => (s.part? f.part).map (·.cfg.tslice)).getD tslice
    s.updTeam t fun x => { x with slice := slice }

/-- The place fields of an abort that no instruction caused. -/
def noPlace : FaultRec :=
  { kind := kGRAIN, cause := 1, precise := true, src := 0, unit := 0, mask := 0, iaddr := 0, addr := 0, info := [],
    newp := 0, lanes := 0, next := 0, nbase := 0, atStart := false }

/-- ALLOWANCE_EXPIRY (R368): a first phase that has not committed aborts and splits; any other task is
pre-empted. -/
def allowanceExpiry (t : Nat) : M Unit := upd fun s =>
  match s.team? t with
  | none => s
  | some x =>
    if x.allow ≠ 0 || x.allowOut || x.fault.isSome || x.ending.isSome then s
    else if x.mode ≠ .committed && !x.task.later then s.abortSplit t noPlace
    else (s.updTeam t fun x => { x with allowOut := true }).requestSave t

/-- SCRATCH_BANK_RELEASE (R216): banks of ended lives that no command of their cluster touches. -/
def bankRelease : M Unit := upd State.dropEnded

/-- TASK_START (R358). -/
def execTaskStart (part core : Nat) (s : State) : Host.Outcome State Fault Refusal :=
  event (taskStart part core) s

/-- ALLOWANCE_EXPIRY (R368). -/
def execAllowanceExpiry (team : Nat) (s : State) : Host.Outcome State Fault Refusal :=
  event (allowanceExpiry team) s

/-- GROUP_ARRIVAL (R375). -/
def execGroupArrival (team g : Nat) (s : State) : Host.Outcome State Fault Refusal :=
  teamEvent team (groupArrival team g) s

/-- TASK_END (R372). -/
def execTaskEnd (team : Nat) (s : State) : Host.Outcome State Fault Refusal :=
  teamEvent team (taskEnd team) s

/-- SCRATCH_BANK_RELEASE (R216). -/
def execScratchBankRelease (_core : Nat) (s : State) : Host.Outcome State Fault Refusal :=
  event bankRelease s

end Sys2Proof.Machine
end

