-- ==== Sys2Proof/Machine/Clause.lean ====
section
/-!
DEFINITION. Clauses and paths: the start of a clause (R31 to R41, R330, R335, R416, R417, R434), the
boundary of a quad (R328 to R331), bins (R333, R334), holds (R40, R330, R344) and the age order (R383).
-/

namespace Sys2Proof.Machine

open Config

/-! ## Who starts a clause -/

/-- PC and clause of the path that a quad would issue next. -/
def Group.place (g : Group) (q : Nat) : Option (Nat × Nat) :=
  ((g.quadLanes q).head?).map fun i => ((g.lane i).pc, (g.lane i).base)

/-- Whether a quad stands before a clause or inside one without issuing. -/
def Group.waits (g : Group) (q : Nat) : Bool :=
  let x := g.quad q
  x.latch.isNone && !x.bound && (x.cur ≠ 0 || x.solo.isSome)

/-- The quads that would start with a quad (R330, R331, R41): at a clause start those whose paths stand
there; inside a clause those of the same gang at the same slot; a quad in solo mode alone. -/
def Group.starters (g : Group) (q : Nat) : List Nat :=
  let x := g.quad q
  let at0 := g.place q
  if x.solo.isSome then [q]
  else (List.range 8).filter fun k =>
    k = q ||
      (g.waits k && (g.quad k).solo.isNone && decide (g.place k = at0) &&
        (match at0 with
         | some (pc, base) => pc = base || decide ((g.quad k).gang = x.gang)
         | none => false))

/-- The least number of a list. -/
def leastOf (l : List Nat) : Nat := l.foldl minN (l.head?.getD 0)

/-- Whether a group is fully reconverged with a gang of some quads (R332). -/
def fullyConverged (x : Team) (g : Group) (qs : List Nat) : Bool :=
  let held := qs.flatMap g.quadLanes
  x.bins.isEmpty && ((List.range 32).all fun i => (g.lane i).st = .ended || held.contains i) &&
    (List.range 8).all fun q => (g.quad q).recs.isEmpty && (g.quad q).solo.isNone

/-- A header that nothing has been read for. -/
def noHeader : Header := ⟨1, 0, none, none, none, 0, false, 0⟩

/-! ## The header (R30, R31, R33, R335, R477) -/

/-- A fault at a clause start (R419): the gang stands there, and its whole clause is still to come. -/
def startTrap (w : Who) (kind cause addr : Nat) : FaultRec :=
  let m := if w.front then 0 else laneMask w.lanes
  { kind := kind, cause := cause, precise := true, src := w.src, unit := 0, mask := m, iaddr := w.latch.start,
    addr := addr, info := [], newp := 0, lanes := m, next := w.latch.start, nbase := w.latch.start, atStart := true }

/-- The lines of the bytes [a, a+n), first and last of each by virtual address. -/
def lineStarts (a n : Nat) : List Nat := (List.range ((a % 64 + n + 63) / 64)).map fun i => a / 64 * 64 + 64 * i

/-- Whether a line of a clause cannot be corrected (R477): its address. Bytes at or above SETTLED are zero whatever the
line holds (R125). -/
def badCode (w : Who) (a n : Nat) : M (Option Nat) := do
  let l ← collectM (lineStarts a n) fun v => do
    let pl ← placeOf w v
    let c := leafClass pl.leaf
    let page : Bool := c = 3 || c = 4 || c = 5
    let line ← look fun s => if page then s.servedLine w.part w.core (pl.pa / 64) else pl.pa / 64
    meetLine line
    let o := pl.pa % 65536 + (maxN v a - v)
    let bad ← look fun s => s.isPoison line &&
      (!page || decide (o < (s.frameRec w.part (pl.pa / 65536 * 65536)).settled))
    pure (v, bad)
  pure ((l.find? fun e => e.2).map (·.1))

/-- Whether an issuer may start a clause of a header: a sequencer program none with PARKQ valid (R352). -/
def Who.headerAllowed (w : Who) (h : Header) : Bool :=
  match w.agent with
  | .seqr _ _ => h.parkq.isNone
  | _ => true

/-- The header of the clause that an issuer stands at, or the fault of its fetch (R31, R33, R335, R477). -/
def readHeader (w : Who) : M (Except FaultRec Header) := do
  let a := w.latch.start
  let out : FaultRec := startTrap w kLEASE 2 a
  let bs ← fetchBytes w a
  match bs with
  | none => pure (.error out)
  | some bs => do
    let bad ← badCode w a 12
    match bad with
    | some v => pure (.error (startTrap w kECCU 0 v))
    | none =>
      match (decodeHeader (BitVec.ofNat 96 (leOf bs))).filter w.headerAllowed with
      | none => pure (.error (startTrap w kILLEGAL 0 0))
      | some h => do
        let n := 12 * (1 + h.count.toNat)
        let ok ← look fun s => s.inLease w a n [rightX]
        if !ok then pure (.error out)
        else do
          let bad ← badCode w a n
          match bad with
          | some v => pure (.error (startTrap w kECCU 0 v))
          | none => pure (.ok h)

/-- Number of L forms in the slots of a clause before a slot (R36, R41). -/
def longBefore (w : Who) (slot : Nat) : M Nat := do
  let l ← collectM (List.range (slot - 1)) fun i => do
    let bs ← fetchBytes w (w.latch.start + 12 * (i + 1))
    pure (match bs with
      | none => false
      | some bs =>
        match decodeBytes bs with
        | .ok j => ((form j).map (·.long)).getD false
        | .error _ => false)
  pure (l.filter id).length

/-! ## Holds -/

/-- Whether PARKQ holds a clause back (R40): its entry is valid and readable, and its FIFO holds nothing. -/
def State.parkHolds (s : State) (w : Who) (h : Header) : Bool :=
  match h.parkq with
  | none => false
  | some n =>
    match s.capOf w n.toNat with
    | none => false
    | some c =>
      match s.fifoOf w c with
      | none => false
      | some (_, _, q) => c.r && q.slots.isEmpty

/-- Whether another gang of a group that nothing holds, no WAIT either, stands at a lower PC (R330). -/
def Group.lowerGang (g : Group) (qs : List Nat) (pc : Nat) : Bool :=
  (List.range 8).any fun q =>
    let x := g.quad q
    !qs.contains q && (x.cur ≠ 0 || x.solo.isSome) && x.sleep.isNone && x.parkSince.isNone && x.recSince.isNone &&
      x.await.isNone && waitFree g.flag x.wait &&
      (match g.place q with
       | none => false
       | some (p, _) => decide (p < pc))

/-- The earliest of the cycles at which a hold of some quads began: a quad that joins a held gang begins no hold
of its own (R40, R330). -/
def earliest (l : List (Option Nat)) : Option Nat :=
  match l.filterMap id with
  | [] => none
  | a :: t => some (t.foldl minN a)

/-- Whether a hold that began at a cycle still lasts. -/
def holdLasts (since : Option Nat) (now limit : Nat) : Bool :=
  match since with
  | none => true
  | some t => decide (now < t + limit)

/-! ## Late faults at a clause boundary (R417, R201) -/

/-- The first fault recorded after issue that waits for an issuer. -/
def State.firstLate (s : State) (w : Who) : Option FaultRec :=
  if w.front then (s.progOf w).late.head? else (s.groupOf w).late.head?

/-! ## CLAUSE_START -/

/-- A team or handler group that lets its agents start clauses: it is not halted (R416). -/
def State.mayStart (s : State) (a : Agent) : Bool :=
  match a with
  | .handler c _ => ((s.core c).handler.bind (·.halt)).isNone
  | .lane t _ _ | .front t | .seqr t _ =>
    match s.team? t with
    | none => false
    | some x => x.run ≠ .halting && x.fault.isNone && x.ending ≠ some .life

/-- Whether pre-emption has been requested of an issuer's team. -/
def State.preempting (s : State) (w : Who) : Bool :=
  match s.teamOf w with
  | none => false
  | some x => match x.run with | .preempting _ => true | _ => false

/-- What stands between an issuer and its clause once the header is known: the latch it starts with, or
what holds it. WAIT is tested once: not again after a hold of PARKQ or of RECONV, which begin when it has
passed (R38, R40). -/
def startWith (w : Who) (h : Header) (slot : Nat) : M Unit := do
  let now ← look fun s => s.cyc
  let g ← look fun s => s.groupOf w
  let p ← look fun s => s.progOf w
  let parkAt := if w.front then p.parkSince else earliest (w.quads.map fun q => (g.quad q).parkSince)
  let recAt := if w.front then none else earliest (w.quads.map fun q => (g.quad q).recSince)
  let free ← look fun s => parkAt.isSome || recAt.isSome || waitFree (s.flag w) h.wait
  if !free then upd fun s =>
    if w.front then s
    else s.updGroup w.agent fun g => g.updQuads w.quads fun q => { q with wait := h.wait }
  else do
    let parks ← look fun s => slot = 1 && recAt.isNone && s.parkHolds w h
    if parks && holdLasts parkAt now parkLimit then
      upd fun s =>
        if w.front then s.updProg w.agent fun p => { p with parkSince := some (p.parkSince.getD now) }
        else s.updGroup w.agent fun g => g.updQuads w.quads fun q => { q with parkSince := some (parkAt.getD now), wait := 0 }
    else if !w.front && slot = 1 && h.reconv && g.lowerGang w.quads w.latch.start &&
        holdLasts recAt now reconvLimit then
      upd fun s => s.updGroup w.agent fun g => g.updQuads w.quads fun q =>
        { q with recSince := some (recAt.getD now), parkSince := none, wait := 0 }
    else do
      let n ← if slot ≤ 1 then pure 0 else longBefore w slot
      let l : Latch := { w.latch with hdr := h, slot := slot, lcnt := n }
      upd fun s =>
        if w.front then s.updProg w.agent fun p => { p with latch := some l, parkSince := none }
        else s.updGroup w.agent fun g => g.updQuads w.quads fun q =>
          { q with latch := some l, gang := l.gang, parkSince := none, recSince := none, wait := 0,
                   age := g.oldest w.quads }

/-- Whether an address is an instruction slot of a clause. -/
def inClause (start : Nat) (h : Header) (pc : Nat) : Bool :=
  decide (start < pc) && decide (pc ≤ start + 12 * h.count.toNat) && decide ((pc - start) % 12 = 0)

/-- Whether an issuer stands at a pre-emption point that a request asks for: the start of a RECONV clause, its group
fully reconverged (R332, R434). -/
def State.atReconv (s : State) (w : Who) (h : Header) : Bool :=
  s.preempting w && h.reconv &&
    match s.teamOf w with
    | none => false
    | some x =>
      match SMap.get? x.groups w.g with
      | none => false
      | some g => fullyConverged x g w.quads

/-- Whether `sleepto` or `claim` holds a gang, which then issues nothing but may stand at a pre-emption point all the
same (R344, R380). -/
def State.rests (s : State) (w : Who) : Bool :=
  let g := s.groupOf w
  !w.front && (g.park.isSome || w.quads.any fun k => (g.quad k).sleep.isSome)

/-- A gang that stands at a pre-emption point stops there (R434). -/
def standAtPoint (w : Who) (h : Header) : M Bool := do
  let point ← look fun s => s.atReconv w h
  if point then upd fun s => s.updGroup w.agent fun g => { g with atPoint := true } else pure ()
  pure point

/-- A gang that `sleepto` or `claim` holds at a clause start: it may stand at a pre-emption point (R344, R434). -/
def restAtPoint (w : Who) (fresh : Bool) : M Unit := do
  if !fresh then pure ()
  else do
    let h ← readHeader w
    match h with
    | .error _ => pure ()
    | .ok h => do
      let _ ← standAtPoint w h
      pure ()

/-- An issuer at a clause start or at a slot inside its clause: late faults first, then the header, the pre-emption
point, and the holds. DESIGN CHOICE: a handler that has moved it to an address that is no slot of its clause breaks the
"must" of R426, and ILLEGAL is raised at the clause start (log 53). `w` stands in a provisional latch that `s` does not
hold. -/
def startClause (w : Who) (pc : Nat) : M Unit := do
  let slot := maxN ((pc - w.latch.start) / 12) 1
  let fresh : Bool := pc = w.latch.start
  let rests ← look fun s => s.rests w
  if rests then restAtPoint w fresh
  else do
  if fresh then upd fun s => s.dueLate w else pure ()
  let late ← look fun s => if fresh then s.firstLate w else none
  match late with
  | some r =>
    upd fun s =>
      let s := s.dropLate w.agent
      match w.level with
      | .lane => (s.recordFault w.team w.agent r).noteStop w.team
      | _ => s.escalate w.core r
  | none => do
    let pre ← look fun s => s.preempting w
    if w.front && fresh && pre then pure ()
    else do
      let h ← readHeader w
      match h with
      | .error r => upd fun s => s.raise w r
      | .ok h => do
        if !fresh && !(inClause w.latch.start h pc) then upd fun s => s.raise w (startTrap w kILLEGAL 0 0)
        else do
        let point ← if fresh then standAtPoint w h else pure false
        if point then pure () else startWith w h slot

/-- The issuer that a gang about to start would be: the module as it would be with a provisional latch,
asked who issues; and its PC. One that `sleepto` or `claim` holds comes to its clause start only where pre-emption is
requested (R434). -/
def State.starter (s : State) (a : Agent) : Option (Who × Nat) :=
  match a with
  | .lane _ _ q | .handler _ q =>
    match s.group? a with
    | none => none
    | some g =>
      let qs := g.starters q
      let rests : Bool := g.park.isSome || qs.any fun k => (g.quad k).sleep.isSome
      if !g.waits q || g.atPoint || qs.any fun k => (g.quad k).await.isSome then none
      else
        match g.place q with
        | none => none
        | some (pc, base) =>
          let l : Latch := ⟨leastOf qs, base, noHeader, 0, 0⟩
          (((s.updGroup a fun g => g.updQuads qs fun x => { x with latch := some l }).who? a).filter fun w =>
            !rests || s.preempting w).map fun w => (w, pc)
  | .front _ | .seqr _ _ =>
    match s.prog? a with
    | none => none
    | some p =>
      if !p.run || p.latch.isSome || p.sleep.isSome then none
      else
        ((s.updProg a fun p => { p with latch := some ⟨0, p.base, noHeader, 0, 0⟩ }).who? a).map fun w => (w, p.pc)

/-! ## Paths at a clause boundary (R327 to R331) -/

/-- A path at a boundary: its lanes, where it stands, when it last ran, whether it was recorded before. -/
structure Path where
  mask : BitVec 4
  pc : Nat
  base : Nat
  since : Nat
  old : Bool
  deriving DecidableEq, Repr

/-- A path put among paths, merged with one that stands at the same place (R328 step 2). -/
def mergePath (l : List Path) (p : Path) : List Path :=
  match l with
  | [] => [p]
  | x :: t =>
    if x.pc = p.pc && x.base = p.base then
      { x with mask := x.mask ||| p.mask, since := minN x.since p.since, old := x.old || p.old } :: t
    else x :: mergePath t p

/-- The paths of a quad at a boundary (R328 steps 1 and 2): recorded ones, and its other live lanes by
their PCs. -/
def Group.paths (g : Group) (q now : Nat) : List Path :=
  let x := g.quad q
  let taken := x.recs.foldl (fun m r => m ||| r.mask) (0 : BitVec 4)
  let spot (i : Nat) : Nat × Nat := ((g.lane (4 * q + i)).pc, (g.lane (4 * q + i)).base)
  let live := BitVec.ofNat 4 (maskOf ((List.range 4).filter fun i => (g.lane (4 * q + i)).st = .live))
  let old := x.recs.filterMap fun r =>
    let m := r.mask &&& live
    ((List.range 4).find? fun i => m.getLsbD i).map fun i => (⟨m, (spot i).1, (spot i).2, r.since, true⟩ : Path)
  let new := ((List.range 4).filter fun i => !taken.getLsbD i && (g.lane (4 * q + i)).st = .live).map fun i =>
    (⟨BitVec.ofNat 4 (2 ^ i), (spot i).1, (spot i).2, now, false⟩ : Path)
  (old ++ new).foldl mergePath []

/-- The path with the lowest PC. -/
def lowestPath (l : List Path) : Option Path :=
  l.foldl (fun b p => match b with
    | none => some p
    | some x => if p.pc < x.pc then some p else b) none

/-- The recorded path that has waited longest, the lowest PC first (R328 step 3). -/
def longestPath (l : List Path) : Option Path :=
  l.foldl (fun b p => match b with
    | none => some p
    | some x => if p.since < x.since || (p.since = x.since && p.pc < x.pc) then some p else b) none

/-- The current path that a boundary chooses (R328 step 3). -/
def choosePath (timer : Nat) (force : Bool) (l : List Path) : Option Path :=
  let old := l.filter (·.old)
  if (64 ≤ timer || force) && !old.isEmpty then longestPath old else lowestPath l

/-- A quad with its paths settled: one current, the others recorded (R328 steps 3 and 5). -/
def Quad.settle (x : Quad) (l : List Path) : Quad :=
  match choosePath x.timer x.force l with
  | none => { x with cur := 0, recs := [], bound := false, force := false, solo := none }
  | some c =>
    let rest := l.filter fun p => p.mask ≠ c.mask
    { x with cur := c.mask, recs := rest.map fun p => ⟨p.mask, p.since⟩, bound := false, force := false, solo := none,
             timer := if c.mask = x.cur then x.timer else 0 }

/-- A quad in solo mode with its next lane (R331). -/
def Quad.toSolo (x : Quad) (i : Nat) : Quad :=
  { x with cur := 0, recs := [], bound := false, force := false, solo := some i, timer := 0 }

/-- The lane that follows in solo mode (R331): the next live one, ascending, wrapping. -/
def Group.soloNext (g : Group) (q i : Nat) : Option Nat :=
  ((List.range 4).map fun k => (i + 1 + k) % 4).find? fun k => (g.lane (4 * q + k)).st = .live

/-- The path that a boundary cannot keep (R329): the one beyond the current path and the two remaining paths
with the lowest PCs; a quad has at most four. -/
def overPaths (timer : Nat) (force : Bool) (l : List Path) : List Path :=
  match choosePath timer force l with
  | none => []
  | some c =>
    let rest := l.filter fun p => p.mask ≠ c.mask
    let keep (r : List Path) : List Path := match lowestPath r with | none => [] | some p => r.filter fun x => x.mask ≠ p.mask
    keep (keep rest)

/-- Lanes of a path. -/
def Path.lanes (p : Path) (q : Nat) : List Nat := ((List.range 4).filter fun i => p.mask.getLsbD i).map fun i => 4 * q + i

/-- The lanes of a path filed with all their registers, where a bin can take each (R329, R333). -/
def State.filePath (s : State) (a : Agent) (q : Nat) (p : Path) : State :=
  match a with
  | .lane t gi _ =>
    (p.lanes q).foldl (fun s i =>
      match s.team? t with
      | none => s
      | some x =>
        match SMap.get? x.groups gi with
        | none => s
        | some g =>
          match x.fileLane gi i p.pc g.w s.cyc with
          | none => s
          | some y => s.updTeam t fun _ => y) s
  | _ => s

/-- A quad that arrives at a clause start where a gang of its group has issued nothing joins it (R330). -/
def Group.joinGang (g : Group) (q : Nat) : Group :=
  let x := g.quad q
  if x.solo.isSome || x.cur = 0 || x.latch.isSome then g
  else
    match g.place q with
    | none => g
    | some (pc, base) =>
      if pc ≠ base then g
      else
        match (List.range 8).findSome? fun k =>
          let y := g.quad k
          match y.latch with
          | none => none
          | some l => if k ≠ q && l.start = pc && l.slot = 1 && y.solo.isNone && y.sleep.isNone && y.await.isNone then
              some l else none with
        | none => g
        | some l =>
          let gang := q :: (List.range 8).filter fun k => (g.quad k).latch.map (·.gang) = some l.gang
          (g.updQuad q fun x => { x with latch := some l, gang := l.gang }).updQuads gang fun x =>
            { x with age := g.oldest gang }

/-- THE BOUNDARY OF ONE QUAD (R328 to R331). -/
def State.boundary (s : State) (a : Agent) (q : Nat) : State :=
  match s.group? a with
  | none => s
  | some g =>
    let x := g.quad q
    if !x.bound || x.latch.isSome then s
    else
      let l := g.paths q s.cyc
      match x.solo with
      | some i =>
        if l.length ≤ 3 then
          s.updGroup a fun g => (g.updQuad q fun x => { (Quad.settle { x with timer := 0 } l) with timer := 0 }).joinGang q
        else
          s.updGroup a fun g => match g.soloNext q i with
            | none => g.updQuad q fun x => x.settle []
            | some k => g.updQuad q fun x => x.toSolo k
      | none =>
        let s := (overPaths x.timer x.force l).foldl (fun s p => s.filePath a q p) s
        s.updGroup a fun g =>
          let left := g.paths q s.cyc
          if left.length ≤ 3 then (g.updQuad q fun x => x.settle left).joinGang q
          else
            let i := ((lowestPath left).bind fun p => (List.range 4).find? fun i => p.mask.getLsbD i).getD 0
            g.updQuad q fun x => x.toSolo i

/-- CLAUSE_BOUNDARY (R328). -/
def clauseBoundary (t g q : Nat) : M Unit := upd fun s => s.boundary (.lane t g q) q

/-- The quads of an agent's group that stand at a boundary settle their paths (R328, R330). -/
def State.pathsSettled (s : State) (a : Agent) : State :=
  match a with
  | .handler c _ => (List.range 8).foldl (fun s q => s.boundary (.handler c q) q) s
  | .lane t g _ => (List.range 8).foldl (fun s q => s.boundary (.lane t g q) q) s
  | _ => s

/-- CLAUSE_START (R38): a gang or program that stands before a clause, or inside one without issuing, starts
as far as its holds allow. The paths of its group's quads settle first, so that quads which agree form one gang
(R330). -/
def clauseStart (a : Agent) : M Unit := do
  upd fun s => s.pathsSettled a
  let ok ← look fun s => s.mayStart a
  let w ← look fun s => s.starter a
  match (if ok then w else none) with
  | none => pure ()
  | some (w, pc) => startClause w pc

/-- A hold of the two that time ends: the cycle it began, of a quad or a program. -/
def State.holdSince (s : State) (a : Agent) (park : Bool) : Option Nat :=
  match s.group? a, s.prog? a with
  | some g, _ => let q := g.quad (agentQuad a); if park then q.parkSince else q.recSince
  | none, some p => if park then p.parkSince else none
  | none, none => none

/-- PARKQ_TIMEOUT and RECONV_HOLD_TIMEOUT (R40, R330): the clause starts once the hold has lasted its
time. -/
def holdTimeout (a : Agent) (park : Bool) (limit : Nat) : M Unit := do
  let t ← look fun s => s.holdSince a park
  let now ← look fun s => s.cyc
  match t with
  | none => pure ()
  | some t => if now < t + limit then pure () else clauseStart a

/-! ## sleepto (R344) -/

/-- A deadline that has been reached is forgotten. -/
def awake (now : Nat) (d : Option Nat) : Option Nat := d.filter fun t => decide (now < t)

/-- SLEEPTO_WAKE (R344): the gangs of a group, or the program, whose deadline `$cyc` has reached go on. -/
def sleeptoWake (a : Agent) : M Unit := upd fun s =>
  if !s.mayStart a then s
  else
    match a with
    | .lane .. | .handler .. => s.updGroup a fun g =>
      { g with quads := g.quads.map fun q => { q with sleep := awake s.cyc q.sleep } }
    | _ => s.updProg a fun p => { p with sleep := awake s.cyc p.sleep }

/-! ## Bins (R334) -/

/-- The group slot that a bin is drawn into: the lowest ended group whose side has room, one that ended in an
earlier phase of the life among them (R334). -/
def State.drawSlot (s : State) (x : Team) (b : Bin) : Option Nat :=
  let k := s.core x.core
  let ended (g : Nat) : Bool :=
    match SMap.get? x.groups g with
    | none => decide (g < ((s.life? x.life).map (·.ngroups)).getD 0)
    | some y => !y.live && !y.hasArrived
  (List.range 64).find? fun g =>
    ended g && decide (s.sideCount x.core (g % 2) < 32) &&
      decide (regsOf b.w ≤ s.sideFree x.core (g % 2)) && (k.claimq (g % 2)).isEmpty

/-- The group that a bin becomes (R334). -/
def Bin.group (b : Bin) (age pos : Nat) : Group :=
  let n := b.lanes.length
  let g := Group.start b.key b.w age (BitVec.ofNat 32 (2 ^ n - 1))
  { g with
    dqPos := pos
    lanes := (List.range 32).map fun i =>
      match b.lanes[i]? with
      | none => g.lane i
      | some f => { g.lane i with v := f.v, p := f.p } }

/-- A group's operations that are still outstanding when its slot is taken by a drawn group: they write no
register of it and lower no flag (R334). -/
def State.disown (s : State) (life gen g : Nat) : State :=
  { s with ops := SMap.map s.ops fun _ o =>
      if o.owner.life = life && o.owner.gen = gen && o.owner.src = g then
        { o with dests := [], vals := [], flag := none }
      else o }

/-- The old position of a drawn lane given up: no lane of its group is filed there any more, and the group ends
where none is left (R326, R334). -/
def State.vacate (s : State) (t : Nat) (f : Filed) : State :=
  (s.updGroup (.lane t f.group 0) fun y => y.updLane f.lane fun l => { l with st := .ended }).lanesGone t f.group

/-- A bin drawn into a group slot (R334). -/
def State.drawBin (s : State) (t bin g : Nat) (b : Bin) : State :=
  match s.team? t with
  | none => s
  | some x =>
    let s := s.disown x.life x.gen g
    let age := s.nextAge x.core (g % 2)
    let s := s.updTeam t fun x =>
      { x with bins := SMap.del x.bins bin, groups := SMap.put x.groups g (b.group age (x.dqBase + x.dq.length)) }
    b.lanes.foldl (fun s f => s.vacate t f) s

/-- BIN_DRAW (R334): a full or aged bin is drawn where a group slot is free. -/
def binDraw (t bin : Nat) : M Unit := upd fun s =>
  match s.team? t with
  | none => s
  | some x =>
    match SMap.get? x.bins bin with
    | none => s
    | some b =>
      if x.fault.isSome || (b.lanes.length < 32 && decide (s.cyc < b.since + binAge)) then s
      else
        match s.drawSlot x b with
        | none => s
        | some g => s.drawBin t bin g b

/-- FREE VALUES: what a lane that returns to its old group finds in the registers that it did not carry. -/
def drawRegs (lo hi : Nat) (m : SMap Word) : M (SMap Word) := fun s =>
  .ok ((List.range (hi - lo)).foldl (fun m i => SMap.putD 0 m (lo + i) (w32 (freeNat (s.free + i)))) m,
    { s with free := s.free + (hi - lo) })

/-- Whether a filed lane can go back to its old group: one that has arrived meanwhile takes its window again, where its
side has the registers (R334, R375; log 55). -/
def State.canReturn (s : State) (x : Team) (g : Nat) (y : Group) : Bool :=
  y.live || (decide (regsOf y.w ≤ s.sideFree x.core (g % 2)) && decide (s.sideCount x.core (g % 2) < 32))

/-- A filed lane back at its old position, as a new path of its quad (R334); whether it had to stay in its bin.
DESIGN CHOICE: it stays where its group has arrived and cannot take its window again (log 55). -/
def returnLane (t : Nat) (b : Bin) (f : Filed) : M Bool := do
  let g ← look fun s => (s.team? t).bind fun x => (s.group? (.lane t f.group 0)).filter fun y => s.canReturn x f.group y
  match g with
  | none => pure true
  | some g => do
    let v ← drawRegs b.n g.w f.v
    let r ← draw
    upd fun s => s.updGroup (.lane t f.group 0) fun g =>
      let g := g.updLane f.lane fun l =>
        { l with st := .live, pc := b.key, base := b.key, v := v, p := f.p, rsd := freeNat r % 65536 }
      g.updQuad (f.lane / 4) fun q =>
        let inside : Bool := match g.place (f.lane / 4) with | none => false | some (pc, base) => decide (pc ≠ base)
        if q.latch.isSome || (inside && q.cur ≠ 0) then q else { q with bound := true }
    upd fun s => s.updGroup (.lane t f.group 0) fun g => { g with live := true }
    pure false

/-- BIN_AGE_EXPIRY (R334): an aged bin is drawn, or its lanes return to their old groups. -/
def binAgeExpiry (t bin : Nat) : M Unit := do
  let x ← look fun s => s.team? t
  let now ← look fun s => s.cyc
  match x with
  | none => pure ()
  | some x =>
    match SMap.get? x.bins bin with
    | none => pure ()
    | some b =>
      if x.fault.isSome || decide (now < b.since + binAge) then pure ()
      else do
        let slot ← look fun s => s.drawSlot x b
        match slot with
        | some g => upd fun s => s.drawBin t bin g b
        | none => do
          upd fun s => s.updTeam t fun x => { x with bins := SMap.del x.bins bin }
          let stay ← collectM b.lanes fun f => do
            let no ← returnLane t b f
            pure (if no then [f] else [])
          if stay.flatten.isEmpty then pure ()
          else upd fun s => s.updTeam t fun x => { x with bins := SMap.put x.bins bin { b with lanes := stay.flatten } }

/-! ## Age (R383) -/

/-- Whether nothing holds a gang's next instruction (R384): it stands in a clause, and neither `sleepto`, an
answer that is due, a park, a pending register nor a full flag holds it. -/
def State.unheld (s : State) (w : Who) : Bool :=
  s.mayIssue w &&
    (match fetch w s with
     | .instr i _ =>
       (match form i, fields i with
        | some fm, some f => let w := s.issuer i w f; !w.takesPart || !(s.held w fm f)
        | _, _ => true)
     | _ => true)

/-- Gangs of a side of a core that stand in a clause, with its YIELDPOL. -/
def State.sideGangs (s : State) (core side : Nat) : List (Agent × Nat) :=
  (s.sideGroups core side).flatMap fun e =>
    (List.range 8).filterMap fun q => (e.2.2.quad q).latch.map fun l => (.lane e.1 e.2.1 q, l.hdr.yieldpol.toNat)

/-- Whether a gang is ready (R384); in a clause with YIELDPOL 2 it is only where no other gang of its side is. -/
def State.ready (s : State) (w : Who) : Bool :=
  s.unheld w && (w.latch.hdr.yieldpol.toNat ≠ 2 ||
    !((s.sideGangs w.core (w.g % 2)).any fun e => e.2 ≠ 2 && ((s.who? e.1).map s.unheld).getD false))

/-- GANG_AGE_PROMOTION (R383): a gang that was ready and unpicked for 1,024 cycles becomes the oldest. DESIGN
CHOICE: the cycles count from its last instruction, and it is ready now (log 45). -/
def agePromotion (a : Agent) : M Unit := upd fun s =>
  match s.group? a, s.who? a with
  | some g, some w =>
    let q := agentQuad a
    if s.cyc < (g.quad q).lastCyc + 1024 || !s.ready w then s
    else (s.agedSide w.core (w.g % 2)).updGroup a fun g => g.updQuads (g.gangOf q) fun x => { x with age := 0 }
  | _, _ => s

/-- CLAUSE_START (R38). -/
def execClauseStart (a : Agent) (s : State) : Host.Outcome State Fault Refusal :=
  event (clauseStart a) s

/-- PARKQ_TIMEOUT (R40). -/
def execParkqTimeout (a : Agent) (s : State) : Host.Outcome State Fault Refusal :=
  event (holdTimeout a true parkLimit) s

/-- CLAUSE_BOUNDARY (R328). -/
def execClauseBoundary (team g q : Nat) (s : State) : Host.Outcome State Fault Refusal :=
  event (clauseBoundary team g q) s

/-- RECONV_HOLD_TIMEOUT (R330). -/
def execReconvHoldTimeout (a : Agent) (s : State) : Host.Outcome State Fault Refusal :=
  event (holdTimeout a false reconvLimit) s

/-- BIN_DRAW (R334). -/
def execBinDraw (team bin : Nat) (s : State) : Host.Outcome State Fault Refusal :=
  event (binDraw team bin) s

/-- BIN_AGE_EXPIRY (R334). -/
def execBinAgeExpiry (team bin : Nat) (s : State) : Host.Outcome State Fault Refusal :=
  event (binAgeExpiry team bin) s

/-- SLEEPTO_WAKE (R344). -/
def execSleeptoWake (a : Agent) (s : State) : Host.Outcome State Fault Refusal :=
  event (sleeptoWake a) s

/-- GANG_AGE_PROMOTION (R383). -/
def execGangAgePromotion (a : Agent) (s : State) : Host.Outcome State Fault Refusal :=
  event (agePromotion a) s

end Sys2Proof.Machine
end

