-- ==== Sys2Proof/Machine/Integer.lean ====
section
/-!
DEFINITION. Integer arithmetic, logic, shifts and bit fields (OP 0x10 to 0x12, R246 to R250).
-/

namespace Sys2Proof.Machine

/-! ## Values (R246) -/

/-- val: a pattern read under a TYPE. -/
def valOf (t : Ty) (x : DWord) : Int := intOf t.signed (tyBits t) x.toNat

/-- lo: the low bits of an integer at the TYPE's width. -/
def loOf (t : Ty) (y : Int) : DWord := w64 (lowBits (tyBits t) y)

/-- fit: limited to the TYPE's range under `.sat`, wrapped otherwise. -/
def fitOf (t : Ty) (sat : Bool) (y : Int) : DWord :=
  if sat then loOf t (clampInt (tyRange t).1 (tyRange t).2 y) else loOf t y

/-- Bits [2w−1:w] of an exact result. -/
def highOf (t : Ty) (y : Int) : DWord := loOf t (Int.fdiv y ((2 ^ tyBits t : Nat) : Int))

/-- A pattern cut to the TYPE's width. -/
def cut (t : Ty) (x : DWord) : Nat := x.toNat % 2 ^ tyBits t

/-! ## Shapes of forms -/

/-- A form of one source at the TYPE's width. -/
def unary (op : Ty → DWord → DWord) (w : Who) (f : Fields) : M Unit := do
  let a ← read1 w f.imm (srcTyped f.ty f.sa)
  writeTyped w f.ty f.dst fun i => op f.ty (a i)

/-- A form of two sources at the TYPE's width. -/
def binary (op : Ty → Bool → DWord → DWord → DWord) (w : Who) (f : Fields) : M Unit := do
  let (a, b) ← read2 w f.imm (srcTyped f.ty f.sa) (srcTyped f.ty f.sb)
  writeTyped w f.ty f.dst fun i => op f.ty (f.mod.getLsbD 0) (a i) (b i)

/-- A form of three sources at the TYPE's width. -/
def ternary (op : Ty → Bool → DWord → DWord → DWord → DWord) (w : Who) (f : Fields) : M Unit := do
  let (a, b, c) ← read3 w f.imm (srcTyped f.ty f.sa) (srcTyped f.ty f.sb)
    (srcTyped f.ty ((f.third).getD (.v 0)))
  writeTyped w f.ty f.dst fun i => op f.ty (f.mod.getLsbD 0) (a i) (b i) (c i)

/-- A shift: the count is a 32-bit operand (R244). -/
def shift (op : Ty → DWord → Nat → DWord) (w : Who) (f : Fields) : M Unit := do
  let (a, c) ← read2 w f.imm (srcTyped f.ty f.sa) (srcRaw f.sb)
  writeTyped w f.ty f.dst fun i => op f.ty (a i) ((c i).setWidth 32).toNat

/-- A count of bits: the result is 32 bits whatever the TYPE (R250). -/
def counting (op : Ty → DWord → Nat) (w : Who) (f : Fields) : M Unit := do
  let a ← read1 w f.imm (srcTyped f.ty f.sa)
  writeWord w f.dst fun i => w32 (op f.ty (a i))

/-! ## Results -/

/-- Set bits among the low `n` bits. -/
def popCount (x : Nat) : Nat → Nat
  | 0 => 0
  | n + 1 => (if bitN x n then 1 else 0) + popCount x n

/-- Zero bits above the highest set one among the low `n` bits. -/
def leadingZeros (x : Nat) : Nat → Nat
  | 0 => 0
  | n + 1 => if bitN x n then 0 else 1 + leadingZeros x n

/-- Zero bits below the lowest set one, from bit `i`, at most `n`. -/
def trailingZeros (x i : Nat) : Nat → Nat
  | 0 => 0
  | n + 1 => if bitN x i then 0 else 1 + trailingZeros x (i + 1) n

/-- The low `n` bits in reverse order. -/
def reverseBits (x : Nat) : Nat → Nat
  | 0 => 0
  | n + 1 => x % 2 * 2 ^ n + reverseBits (x / 2) n

/-- Shift left, zero from the width on (R248). -/
def shlV (t : Ty) (a : DWord) (c : Nat) : DWord :=
  if tyBits t ≤ c then 0 else w64 (cut t a * 2 ^ c % 2 ^ tyBits t)

/-- Logical shift right (R248). -/
def shrV (t : Ty) (a : DWord) (c : Nat) : DWord := if tyBits t ≤ c then 0 else w64 (cut t a / 2 ^ c)

/-- Arithmetic shift right (R248). -/
def sarV (t : Ty) (a : DWord) (c : Nat) : DWord :=
  loOf t (Int.fdiv (valOf t a) ((2 ^ minN c (tyBits t) : Nat) : Int))

/-- Rotation left by the count modulo the width (R248). -/
def rolV (t : Ty) (a : DWord) (c : Nat) : DWord :=
  let n := tyBits t
  let k := c % n
  w64 ((cut t a * 2 ^ k + cut t a / 2 ^ (n - k)) % 2 ^ n)

/-- `bfx`: a field sign- or zero-extended; bits above the value are its sign or zero (R249). -/
def bfxV (t : Ty) (a b c : DWord) : DWord :=
  let n := tyBits t
  let pos := b.toNat % 256
  let len := minN (c.toNat % 256) n
  let field := lowBits len (Int.fdiv (valOf t a) ((2 ^ pos : Nat) : Int))
  if len = 0 then 0 else loOf t (intOf t.signed len field)

/-- `bfi`: low bits of b inserted at a position (R249). -/
def bfiV (t : Ty) (a b c : DWord) : DWord :=
  let n := tyBits t
  let pos := c.toNat % 256
  let len := minN (c.toNat / 256 % 256) n
  let m := (2 ^ len - 1) * 2 ^ pos % 2 ^ n
  let x := cut t b % 2 ^ len * 2 ^ pos % 2 ^ n
  if n ≤ pos then w64 (cut t a) else w64 ((cut t a).xor ((cut t a).land m) + x)

/-- One byte of `bperm` (R250). -/
def bpermByte (a n : Nat) : Nat :=
  let x := a / 2 ^ (8 * (n % 4)) % 256
  if n / 8 = 1 then 0 else if n / 4 % 2 = 0 then x else if 128 ≤ x then 255 else 0

/-- `bperm` (R250). -/
def bpermV (a b : Nat) : Nat :=
  (List.range 4).foldl (fun r i => r + bpermByte a (b / 2 ^ (4 * i) % 16) * 2 ^ (8 * i)) 0

/-! ## Effects -/

/-- `addc`: the carry goes in and out through p13 (R247); in the front thread, which has no predicate,
the carry in is a free value (log 13). -/
def addcBody (w : Who) (f : Fields) : M Unit := do
  let (a, b) ← read2 w f.imm (srcTyped f.ty f.sa) (srcTyped f.ty f.sb)
  let wild ← if w.front then drawBool else pure false
  let cin ← look fun s => fun i => if w.front then wild else ((s.groupOf w).lane i).pred 13
  let src : Nat → Nat := match f.dst with | .s _ => fun _ => w.low | _ => id
  let sum (i : Nat) : Nat := cut f.ty (a (src i)) + cut f.ty (b (src i)) + (if cin (src i) then 1 else 0)
  if w.front then pure ()
  else upd fun s => s.updGroup w.agent fun g =>
    g.updLanes w.act fun i l => l.setPred 13 (2 ^ tyBits f.ty ≤ sum i)
  writeTyped w f.ty f.dst fun i => w64 (sum i % 2 ^ tyBits f.ty)

/-- `bfx` (R249). -/
def bfxBody (w : Who) (f : Fields) : M Unit := do
  let (a, b, c) ← read3 w f.imm (srcTyped f.ty f.sa) (srcRaw f.sb) (srcRaw (f.third.getD (.v 0)))
  writeTyped w f.ty f.dst fun i => bfxV f.ty (a i) (b i) (c i)

/-- `bfi` (R249). -/
def bfiBody (w : Who) (f : Fields) : M Unit := do
  let (a, b, c) ← read3 w f.imm (srcTyped f.ty f.sa) (srcTyped f.ty f.sb) (srcRaw (f.third.getD (.v 0)))
  writeTyped w f.ty f.dst fun i => bfiV f.ty (a i) (b i) (c i)

/-- `bperm` (R250). -/
def bpermBody (w : Who) (f : Fields) : M Unit := do
  let (a, b) ← read2 w f.imm (srcRaw f.sa) (srcRaw f.sb)
  writeWord w f.dst fun i => w32 (bpermV ((a i).toNat % 2 ^ 32) ((b i).toNat % 2 ^ 32))

/-! ## Meanings -/

/-- Integer add (R246). -/
def execAdd (f : Fields) (s : State) : Host.Outcome State Fault Refusal :=
  issue (.add f) (binary fun t sat a b => fitOf t sat (valOf t a + valOf t b)) s

/-- Integer subtract (R246). -/
def execSub (f : Fields) (s : State) : Host.Outcome State Fault Refusal :=
  issue (.sub f) (binary fun t sat a b => fitOf t sat (valOf t a - valOf t b)) s

/-- Add with carry (R247). -/
def execAddc (f : Fields) (s : State) : Host.Outcome State Fault Refusal :=
  issue (.addc f) (addcBody) s

/-- Low half of the product (R246). -/
def execMul (f : Fields) (s : State) : Host.Outcome State Fault Refusal :=
  issue (.mul f) (binary fun t _ a b => loOf t (valOf t a * valOf t b)) s

/-- High half of the product (R246). -/
def execMulhi (f : Fields) (s : State) : Host.Outcome State Fault Refusal :=
  issue (.mulhi f) (binary fun t _ a b => highOf t (valOf t a * valOf t b)) s

/-- Multiply-add (R246). -/
def execMad (f : Fields) (s : State) : Host.Outcome State Fault Refusal :=
  issue (.mad f) (ternary fun t sat a b c => fitOf t sat (valOf t a * valOf t b + valOf t c)) s

/-- High half of the multiply-add (R246). -/
def execMadhi (f : Fields) (s : State) : Host.Outcome State Fault Refusal :=
  issue (.madhi f) (ternary fun t _ a b c => highOf t (valOf t a * valOf t b + valOf t c)) s

/-- The lesser (R246). -/
def execMin (f : Fields) (s : State) : Host.Outcome State Fault Refusal :=
  issue (.min f) (binary fun t _ a b => if valOf t a ≤ valOf t b then a else b) s

/-- The greater (R246). -/
def execMax (f : Fields) (s : State) : Host.Outcome State Fault Refusal :=
  issue (.max f) (binary fun t _ a b => if valOf t a ≤ valOf t b then b else a) s

/-- Absolute value (R246). -/
def execAbs (f : Fields) (s : State) : Host.Outcome State Fault Refusal :=
  issue (.abs f) (fun w f => unary (fun t a => fitOf t (f.mod.getLsbD 0) ((valOf t a).natAbs : Int)) w f) s

/-- Negation (R246). -/
def execNeg (f : Fields) (s : State) : Host.Outcome State Fault Refusal :=
  issue (.neg f) (fun w f => unary (fun t a => fitOf t (f.mod.getLsbD 0) (-valOf t a)) w f) s

/-- And (R248). -/
def execAndb (f : Fields) (s : State) : Host.Outcome State Fault Refusal :=
  issue (.andb f) (binary fun _ _ a b => a &&& b) s

/-- Or (R248). -/
def execOrb (f : Fields) (s : State) : Host.Outcome State Fault Refusal :=
  issue (.orb f) (binary fun _ _ a b => a ||| b) s

/-- Exclusive or (R248). -/
def execXorb (f : Fields) (s : State) : Host.Outcome State Fault Refusal :=
  issue (.xorb f) (binary fun _ _ a b => a ^^^ b) s

/-- Not (R248). -/
def execNotb (f : Fields) (s : State) : Host.Outcome State Fault Refusal :=
  issue (.notb f) (unary fun t a => w64 (cut t (~~~a))) s

/-- And not (R248). -/
def execAndn (f : Fields) (s : State) : Host.Outcome State Fault Refusal :=
  issue (.andn f) (binary fun _ _ a b => a &&& ~~~b) s

/-- Shift left (R248). -/
def execShl (f : Fields) (s : State) : Host.Outcome State Fault Refusal :=
  issue (.shl f) (shift shlV) s

/-- Logical shift right (R248). -/
def execShr (f : Fields) (s : State) : Host.Outcome State Fault Refusal :=
  issue (.shr f) (shift shrV) s

/-- Arithmetic shift right (R248). -/
def execSar (f : Fields) (s : State) : Host.Outcome State Fault Refusal :=
  issue (.sar f) (shift sarV) s

/-- Rotate left (R248). -/
def execRol (f : Fields) (s : State) : Host.Outcome State Fault Refusal :=
  issue (.rol f) (shift rolV) s

/-- Bit-field extract (R249). -/
def execBfx (f : Fields) (s : State) : Host.Outcome State Fault Refusal :=
  issue (.bfx f) (bfxBody) s

/-- Bit-field insert (R249). -/
def execBfi (f : Fields) (s : State) : Host.Outcome State Fault Refusal :=
  issue (.bfi f) (bfiBody) s

/-- Set bits (R250). -/
def execPopc (f : Fields) (s : State) : Host.Outcome State Fault Refusal :=
  issue (.popc f) (counting fun t a => popCount (cut t a) (tyBits t)) s

/-- Leading zeros (R250). -/
def execClz (f : Fields) (s : State) : Host.Outcome State Fault Refusal :=
  issue (.clz f) (counting fun t a => leadingZeros (cut t a) (tyBits t)) s

/-- Trailing zeros (R250). -/
def execCtz (f : Fields) (s : State) : Host.Outcome State Fault Refusal :=
  issue (.ctz f) (counting fun t a => trailingZeros (cut t a) 0 (tyBits t)) s

/-- Bit reversal (R250). -/
def execBrev (f : Fields) (s : State) : Host.Outcome State Fault Refusal :=
  issue (.brev f) (unary fun t a => w64 (reverseBits (cut t a) (tyBits t))) s

/-- Byte permute (R250). -/
def execBperm (f : Fields) (s : State) : Host.Outcome State Fault Refusal :=
  issue (.bperm f) (bpermBody) s

end Sys2Proof.Machine
end

