-- ==== Sys2Proof/Machine/FloatOps.lean ====
section
/-!
DEFINITION. Floating-point and transcendental forms (OP 0x30, 0x40, R285 to R294).
-/

namespace Sys2Proof.Machine

/-! ## Shapes of forms (R285) -/

/-- An operation on one element performed on a TYPE's value: twice for h2, on its low bits otherwise. -/
def elementwise (t : Ty) (op : Fmt → Nat → Nat) (x : Nat) : Nat :=
  match t with
  | .h2 => op .f16 (x % 65536) + 65536 * op .f16 (x / 65536 % 65536)
  | t => match tyFmt t with | none => 0 | some f => op f (x % 2 ^ tyBits t)

/-- The elements of several operands of an h2 value, or the operands of a scalar one. -/
def elementwise3 (t : Ty) (op : Fmt → Nat → Nat → Nat → Nat) (x y z : Nat) : Nat :=
  match t with
  | .h2 => op .f16 (x % 65536) (y % 65536) (z % 65536) +
      65536 * op .f16 (x / 65536 % 65536) (y / 65536 % 65536) (z / 65536 % 65536)
  | t => match tyFmt t with
    | none => 0
    | some f => op f (x % 2 ^ tyBits t) (y % 2 ^ tyBits t) (z % 2 ^ tyBits t)

/-- A floating-point form of one source; `op` takes MOD[1:0]. -/
def funary (op : Nat → Fmt → Nat → Nat) : Who → Fields → M Unit := fun w f =>
  unary (fun t a => w64 (elementwise t (op (f.mod.toNat % 4)) a.toNat)) w f

/-- A floating-point form of two sources. -/
def fbinary (op : Nat → Fmt → Nat → Nat → Nat) : Who → Fields → M Unit := fun w f =>
  binary (fun t _ a b =>
    w64 (elementwise3 t (fun g x y _ => op (f.mod.toNat % 4) g x y) a.toNat b.toNat 0)) w f

/-- A floating-point form of three sources. -/
def fternary (op : Nat → Fmt → Nat → Nat → Nat → Nat) : Who → Fields → M Unit := fun w f =>
  ternary (fun t _ a b c =>
    w64 (elementwise3 t (op (f.mod.toNat % 4)) a.toNat b.toNat c.toNat)) w f

/-- `fsetp`: for h2 the result of element 0 plus twice that of element 1 (R289). -/
def fsetpBody (w : Who) (f : Fields) : M Unit := do
  let (a, b) ← read2 w f.imm (srcTyped f.ty f.sa) (srcTyped f.ty f.sb)
  let rel (g : Fmt) (x y : Nat) : Nat :=
    if fcmpHolds f.mod.toNat (g.decode x) (g.decode y) then 1 else 0
  writeWord w f.dst fun i =>
    let x := (a i).toNat
    let y := (b i).toNat
    match f.ty with
    | .h2 => w32 (rel .f16 (x % 65536) (y % 65536) +
        2 * rel .f16 (x / 65536 % 65536) (y / 65536 % 65536))
    | t => match tyFmt t with | none => 0 | some g => w32 (rel g x y)

/-- `fclass` (R290). -/
def fclassBody (w : Who) (f : Fields) : M Unit := do
  let a ← read1 w f.imm (srcTyped f.ty f.sa)
  writeWord w f.dst fun i => w32 (elementwise f.ty fclassBits (a i).toNat)

/-- The sign bit of a value inverted (R287). -/
def fnegBits (g : Fmt) (x : Nat) : Nat := x.xor (2 ^ g.magBits)

/-- `fscale`: the exponent is a 32-bit operand read as i32 (R291). -/
def fscaleBody (w : Who) (f : Fields) : M Unit := do
  let (a, n) ← read2 w f.imm (srcTyped f.ty f.sa) (srcRaw f.sb)
  writeTyped w f.ty f.dst fun i =>
    w64 (elementwise f.ty (fun g x => fscaleBits g (f.mod.toNat % 4) x ((n i).setWidth 32).toInt)
      (a i).toNat)

/-- `fdot2`: the third source and the result are f32 (R292). -/
def fdot2Body (w : Who) (f : Fields) : M Unit := do
  let (a, b, c) ← read3 w f.imm (srcTyped f.ty f.sa) (srcTyped f.ty f.sb) (srcRaw (f.third.getD (.v 0)))
  let g : Fmt := if f.ty = .bf16 then .bf16 else .f16
  writeWord w f.dst fun i =>
    w32 (fdot2Bits g (f.mod.toNat % 4) (a i).toNat (b i).toNat ((c i).toNat % 2 ^ 32))

/-! ## Meanings -/

/-- Add (R287). -/
def execFadd (f : Fields) (s : State) : Host.Outcome State Fault Refusal :=
  issue (.fadd f) (fbinary fun m g x y => faddBits g m x y) s

/-- Subtract (R287). -/
def execFsub (f : Fields) (s : State) : Host.Outcome State Fault Refusal :=
  issue (.fsub f) (fbinary fun m g x y => fsubBits g m x y) s

/-- Multiply (R287). -/
def execFmul (f : Fields) (s : State) : Host.Outcome State Fault Refusal :=
  issue (.fmul f) (fbinary fun m g x y => fmulBits g m x y) s

/-- Fused multiply-add (R287). -/
def execFfma (f : Fields) (s : State) : Host.Outcome State Fault Refusal :=
  issue (.ffma f) (fternary fun m g x y z => ffmaBits g m x y z) s

/-- Minimum (R288). -/
def execFmin (f : Fields) (s : State) : Host.Outcome State Fault Refusal :=
  issue (.fmin f) (fbinary fun _ g x y => fminmax g false x y) s

/-- Maximum (R288). -/
def execFmax (f : Fields) (s : State) : Host.Outcome State Fault Refusal :=
  issue (.fmax f) (fbinary fun _ g x y => fminmax g true x y) s

/-- Sign inverted (R287). -/
def execFneg (f : Fields) (s : State) : Host.Outcome State Fault Refusal :=
  issue (.fneg f) (funary fun _ g x => fnegBits g x) s

/-- Comparison (R289). -/
def execFsetp (f : Fields) (s : State) : Host.Outcome State Fault Refusal :=
  issue (.fsetp f) (fsetpBody) s

/-- Class mask (R290). -/
def execFclass (f : Fields) (s : State) : Host.Outcome State Fault Refusal :=
  issue (.fclass f) (fclassBody) s

/-- Round to integral (R291). -/
def execFrnd (f : Fields) (s : State) : Host.Outcome State Fault Refusal :=
  issue (.frnd f) (funary fun m g x => frndBits g m x) s

/-- Scale by a power of two (R291). -/
def execFscale (f : Fields) (s : State) : Host.Outcome State Fault Refusal :=
  issue (.fscale f) (fscaleBody) s

/-- Two-element dot product (R292). -/
def execFdot2 (f : Fields) (s : State) : Host.Outcome State Fault Refusal :=
  issue (.fdot2 f) (fdot2Body) s

/-- Reciprocal (R293, R294). -/
def execFrcp (f : Fields) (s : State) : Host.Outcome State Fault Refusal :=
  issue (.frcp f) (funary fun _ g x => Transc.rcp.apply g x) s

/-- Reciprocal square root (R293, R294). -/
def execFrsq (f : Fields) (s : State) : Host.Outcome State Fault Refusal :=
  issue (.frsq f) (funary fun _ g x => Transc.rsq.apply g x) s

/-- Square root (R293, R294). -/
def execFsqrt (f : Fields) (s : State) : Host.Outcome State Fault Refusal :=
  issue (.fsqrt f) (funary fun m g x => fsqrtBits g m x) s

/-- Base-2 exponential (R293, R294). -/
def execFexp2 (f : Fields) (s : State) : Host.Outcome State Fault Refusal :=
  issue (.fexp2 f) (funary fun _ g x => Transc.exp2.apply g x) s

/-- Base-2 logarithm (R293, R294). -/
def execFlog2 (f : Fields) (s : State) : Host.Outcome State Fault Refusal :=
  issue (.flog2 f) (funary fun _ g x => Transc.log2.apply g x) s

/-- Sine (R293, R294). -/
def execFsin (f : Fields) (s : State) : Host.Outcome State Fault Refusal :=
  issue (.fsin f) (funary fun _ g x => Transc.sin.apply g x) s

/-- Cosine (R293, R294). -/
def execFcos (f : Fields) (s : State) : Host.Outcome State Fault Refusal :=
  issue (.fcos f) (funary fun _ g x => Transc.cos.apply g x) s

/-- Hyperbolic tangent (R293, R294). -/
def execFtanh (f : Fields) (s : State) : Host.Outcome State Fault Refusal :=
  issue (.ftanh f) (funary fun _ g x => Transc.tanh.apply g x) s

end Sys2Proof.Machine
end

