-- ==== Sys2Proof/Machine/Convert.lean ====
section
/-!
DEFINITION. Conversions and blocks in lane registers (OP 0x50, 0x51, R273 to R279).
-/

namespace Sys2Proof.Machine

/-- `cvt` from a type (R273): h2 to f32 fills a pair, f32 to h2 reads one. -/
def cvtBody (src : Ty) (w : Who) (f : Fields) : M Unit := do
  let sat : Bool := f.mod.getLsbD 2
  if src = .h2 then do
    let a ← read1 w f.imm (srcTyped src f.sa)
    writeDst w f.dst true false fun i =>
      let x := (a i).toNat
      w64 (convert .f16 .f32 0 sat (x % 65536) +
        2 ^ 32 * convert .f16 .f32 0 sat (x / 65536 % 65536))
  else if f.ty = .h2 then do
    let a ← read1 w f.imm (srcPair f.sa)
    writeDst w f.dst false false fun i =>
      let x := (a i).toNat
      w64 (convert .f32 .f16 (f.mod.toNat % 4) sat (x % 2 ^ 32) +
        65536 * convert .f32 .f16 (f.mod.toNat % 4) sat (x / 2 ^ 32))
  else do
    let a ← read1 w f.imm (srcTyped src f.sa)
    writeTyped w f.ty f.dst fun i => place f.ty (convert src f.ty (f.mod.toNat % 4) sat (a i).toNat)

/-- The code that the widening form of `cvt8` reads, which is not a value of its TYPE: an immediate is raw
(R21, R275). -/
def cvt8Code (f : Fields) (a : DWord) : Nat :=
  match f.sa with
  | .immL | .immS _ => (rawImm f.imm f.sa).toNat % 256
  | _ => a.toNat % 256

/-- `cvt8` (R275). -/
def cvt8Body (w : Who) (f : Fields) : M Unit := do
  let (a, c) ← read2 w f.imm (srcTyped f.ty f.sa) (srcRaw f.sb)
  let g := (tyFmt f.ty).getD .f32
  writeWord w f.dst fun i =>
    let ctl := (c i).toNat
    match Fmt.b8 (ctl % 256) with
    | none => 0
    | some b =>
      if bitN ctl 8 then
        w32 (g.round (f.mod.toNat % 4) (f.mod.getLsbD 2) (b.decode (cvt8Code f (a i))))
      else w32 (b.round (f.mod.toNat % 4) (f.mod.getLsbD 2) (g.decode ((a i).toNat % 2 ^ tyBits f.ty)))

/-- Element `k` of a lane's share of a wide block that starts at a register (R276). -/
def wideElem (t : Ty) (l : Lane) (n k : Nat) : Nat :=
  if t = .f32 then (l.reg (n + k)).toNat
  else (l.reg (n + k / 2)).toNat / 2 ^ (16 * (k % 2)) % 65536

/-- Index of a lane register operand. -/
def laneIndex : Opnd → Nat
  | .v n => n.toNat
  | _ => 0

/-- ⌊log2⌋ of a nonzero finite magnitude. -/
def FVal.log2 : FVal → Option Int
  | .fin _ m e => if m = 0 then none else some (Nat.log2 m + e)
  | _ => none

/-- The scale byte that AUTO chooses (R276): from the largest finite magnitude. -/
def autoScale (e : Elem) (xs : List FVal) : Nat :=
  match xs.filterMap FVal.log2 with
  | [] => 127
  | x :: t =>
    let m := t.foldl (fun a b => if a < b then b else a) x
    (clampInt 0 254 (127 + m - e.emax)).toNat

/-- The bytes of a lane's share, elements from the lowest bits up. -/
def packElems (width : Nat) (l : List Nat) : Nat :=
  (List.range l.length).foldl (fun r k => r + l.getD k 0 % 2 ^ width * 2 ^ (width * k)) 0

/-- `bpack` (R276). -/
def bpackBody (w : Who) (f : Fields) : M Unit := do
  let c ← read1 w f.imm (srcRaw f.sb)
  let ctl := (c w.low).toNat
  let code := ctl % 256
  let g := (tyFmt f.ty).getD .f32
  match elemOf code with
  | none => writeWord w f.dst fun _ => 0
  | some e => do
    let n := 16 / e.width
    let grp ← look fun s => s.groupOf w
    let share (i : Nat) : List FVal :=
      (List.range n).map fun k => g.decode (wideElem f.ty (grp.lane i) (laneIndex f.sa) k)
    let s := if bitN ctl 16 then autoScale e (w.act.flatMap share) else ctl / 256 % 256
    let s' := if s = 255 then 127 else s
    writeWord w f.dst fun i =>
      let codes := (share i).map fun x =>
        e.encode (f.mod.toNat % 4) (f.mod.getLsbD 2) (x.scale (127 - (s' : Int)))
      w32 (s * 2 ^ 24 + code * 2 ^ 16 + packElems e.width codes)

/-- `bunpack` (R278): only the registers and halves that the format needs are written. -/
def bunpackBody (w : Who) (f : Fields) : M Unit := do
  let (a, c) ← read2 w f.imm (srcRaw f.sa) (srcRaw f.sb)
  let g := (tyFmt f.ty).getD .f32
  let d := laneIndex f.dst
  upd fun s => s.updGroup w.agent fun grp => grp.updLanes w.act fun i l =>
    let tag := (c i).toNat % 65536
    let e := if tag / 256 = 255 then none else elemOf (tag % 256)
    let n := match elemOf (tag % 256) with | none => 4 | some e => 16 / e.width
    (List.range n).foldl (fun l k =>
      let x := match e with
        | none => g.nanCode
        | some e => g.round 0 false
            ((e.decode ((a i).toNat % 65536 / 2 ^ (e.width * k) % 2 ^ e.width)).scale
              (((tag / 256 : Nat) : Int) - 127))
      if f.ty = .f32 then l.setReg (d + k) (w32 x)
      else
        let old := (l.reg (d + k / 2)).toNat
        l.setReg (d + k / 2)
          (w32 (if k % 2 = 0 then old / 65536 * 65536 + x else old % 65536 + 65536 * x))) l

/-- `bscale`: the scale byte adjusted, limited to 0 to 254; 255 stays (R279). -/
def bscaleBody (w : Who) (f : Fields) : M Unit := do
  let (a, b) ← read2 w f.imm (srcRaw f.sa) (srcRaw f.sb)
  writeWord w f.dst fun i =>
    let t := (a i).toNat % 65536
    let s := t / 256
    let s := if s = 255 then s else (clampInt 0 254 ((s : Int) + ((b i).setWidth 32).toInt)).toNat
    w32 (s * 256 + t % 256)

/-! ## Meanings -/

/-- Scalar conversion (R273). -/
def execCvt (src : Ty) (f : Fields) (s : State) : Host.Outcome State Fault Refusal :=
  issue (.cvt src f) (cvtBody src) s

/-- Conversion to or from binary8 (R275). -/
def execCvt8 (f : Fields) (s : State) : Host.Outcome State Fault Refusal :=
  issue (.cvt8 f) (cvt8Body) s

/-- A block built from wide values (R276). -/
def execBpack (f : Fields) (s : State) : Host.Outcome State Fault Refusal :=
  issue (.bpack f) (bpackBody) s

/-- A block expanded (R278). -/
def execBunpack (f : Fields) (s : State) : Host.Outcome State Fault Refusal :=
  issue (.bunpack f) (bunpackBody) s

/-- The scale of a tag adjusted (R279). -/
def execBscale (f : Fields) (s : State) : Host.Outcome State Fault Refusal :=
  issue (.bscale f) (bscaleBody) s

end Sys2Proof.Machine
end

