-- ==== Sys2Proof/Machine/Move.lean ====
section
/-!
DEFINITION. Select, compare, predicates, moves and addresses (OP 0x20, 0x21, R251 to R258).
-/

namespace Sys2Proof.Machine

/-- `sel`: a where the 32-bit selector is not zero, else b (R251). -/
def selBody (w : Who) (f : Fields) : M Unit := do
  let (a, b, c) ← read3 w f.imm (srcTyped f.ty f.sa) (srcTyped f.ty f.sb) (srcRaw (f.third.getD (.v 0)))
  writeTyped w f.ty f.dst fun i => if (c i).setWidth 32 = 0#32 then b i else a i

/-- icmp relations 0 to 5 of MOD (R46, R252). -/
def icmpHolds (rel : Nat) (a b : Int) : Bool :=
  match rel with
  | 0 => a = b
  | 1 => a ≠ b
  | 2 => decide (a < b)
  | 3 => decide (a ≤ b)
  | 4 => decide (b < a)
  | _ => decide (b ≤ a)

/-- The word of a truth value. -/
def boolWord (b : Bool) : Word := if b then 1 else 0

/-- `setp` (R252). -/
def setpBody (w : Who) (f : Fields) : M Unit := do
  let (a, b) ← read2 w f.imm (srcTyped f.ty f.sa) (srcTyped f.ty f.sb)
  writeWord w f.dst fun i => boolWord (icmpHolds f.mod.toNat (valOf f.ty (a i)) (valOf f.ty (b i)))

/-- A predicate form of two operands (R253). -/
def predicateBody (op : Bool → Bool → Bool) (w : Who) (f : Fields) : M Unit := do
  let (a, b) ← read2 w f.imm (srcRaw f.sa) (srcRaw f.sb)
  writeWord w f.dst fun i => boolWord (op (a i ≠ 0) (b i ≠ 0))

/-- `pnot` (R253). -/
def pnotBody (w : Who) (f : Fields) : M Unit := do
  let a ← read1 w f.imm (srcRaw f.sa)
  writeWord w f.dst fun i => boolWord (decide (a i = 0))

/-- `movi`: one half of a 64-bit destination; the other half keeps its value (R255). -/
def moviBody (w : Who) (f : Fields) : M Unit :=
  let hi : Bool := f.mod.getLsbD 0
  let k : Nat := if hi then 1 else 0
  upd fun s => (dstRefs w f.dst).foldl (fun s r =>
    match r.2 with
    | .v i n => s.putReg w (.v i (n + k)) false (f.imm.setWidth 64)
    | .s n => s.putReg w (.s (n + k)) false (f.imm.setWidth 64)
    | .k n =>
      let x := (s.progOf w).kreg n
      s.putReg w (.k n) true (if hi then f.imm ++ x.setWidth 32 else x.extractLsb' 32 32 ++ f.imm)
    | .p _ _ | .q _ _ => s) s

/-- `lea`: the effective address, a window address turned into the executing lane's twin or handler
frame address (R256, R423). -/
def leaBody (w : Who) (f : Fields) : M Unit := do
  let e ← readEa w f
  let t ← look fun s => fun i =>
    if !w.front && inWindow (e i) then s.windowTarget w i (e i - Config.privBase) else e i
  writeDst w f.dst true false fun i => w64 (t i)

/-- `srd`: the special register of a computed index; an index that R20 does not list reads 0 (R257). DESIGN CHOICE: where
only some lanes compute 266 the queue is popped once, and p14 is written in those lanes alone; in every active lane for a
scalar DST (log 56). -/
def srdBody (w : Who) (f : Fields) : M Unit := do
  let i ← read1 w f.imm (srcRaw f.sa)
  let src : Nat → Nat := match f.dst with | .s _ => fun _ => w.low | _ => id
  let idx (l : Nat) : Nat := (i (src l)).toNat % 2 ^ 32
  let users := (match f.dst with | .s _ => [w.low] | _ => w.act).filter fun l => idx l = 266
  let (d, g) ← if users.isEmpty then pure ((fun _ => (0 : DWord)), (fun _ => false)) else popDecision w
  let before ← look fun s => alsoPopped s w f.sa
  if users.isEmpty then pure ()
  else upd fun s => s.updGroup w.agent fun x =>
    x.updLanes (if f.dst.cls false = .s then w.act else users) fun l y => y.setPred 14 (g l && before l)
  let wild ← draw
  let v ← look fun s => fun l =>
    match Sreg.ofIndex (idx l) with
    | none => (0 : Word)
    | some .dq => (d l).setWidth 32
    | some r => (s.special w (src l) r).getD (w32 (Config.freeNat (wild + l)))
  writeWord w f.dst v

/-- `swr`: the index from which the gang's next instruction starts (R258). -/
def swrBody (w : Who) (f : Fields) : M Unit := do
  let a ← read1 w f.imm (srcRaw f.sa)
  upd fun s => s.updGroup w.agent fun g =>
    { g with pix := ((a w.low).setWidth 32).toNat, pixBy := some w.latch.gang }

/-! ## Meanings -/

/-- Select (R251). -/
def execSel (f : Fields) (s : State) : Host.Outcome State Fault Refusal :=
  issue (.sel f) (selBody) s

/-- Integer comparison (R252). -/
def execSetp (f : Fields) (s : State) : Host.Outcome State Fault Refusal :=
  issue (.setp f) (setpBody) s

/-- Predicate and (R253). -/
def execPand (f : Fields) (s : State) : Host.Outcome State Fault Refusal :=
  issue (.pand f) (predicateBody fun a b => a && b) s

/-- Predicate or (R253). -/
def execPor (f : Fields) (s : State) : Host.Outcome State Fault Refusal :=
  issue (.por f) (predicateBody fun a b => a || b) s

/-- Predicate exclusive or (R253). -/
def execPxor (f : Fields) (s : State) : Host.Outcome State Fault Refusal :=
  issue (.pxor f) (predicateBody fun a b => a.xor b) s

/-- Predicate not (R253). -/
def execPnot (f : Fields) (s : State) : Host.Outcome State Fault Refusal :=
  issue (.pnot f) (pnotBody) s

/-- Move (R254). -/
def execMov (f : Fields) (s : State) : Host.Outcome State Fault Refusal :=
  issue (.mov f) (unary fun _ a => a) s

/-- Move of a constant half (R255). -/
def execMovi (f : Fields) (s : State) : Host.Outcome State Fault Refusal :=
  issue (.movi f) (moviBody) s

/-- Effective address (R256). -/
def execLea (f : Fields) (s : State) : Host.Outcome State Fault Refusal :=
  issue (.lea f) (leaBody) s

/-- Special register by index (R257). -/
def execSrd (f : Fields) (s : State) : Host.Outcome State Fault Refusal :=
  issue (.srd f) (srdBody) s

/-- Starting progress index (R258). -/
def execSwr (f : Fields) (s : State) : Host.Outcome State Fault Refusal :=
  issue (.swr f) (swrBody) s

end Sys2Proof.Machine
end

