-- ==== Sys2Proof/Machine/Exchange.lean ====
section
/-!
DEFINITION. Lane exchange (OP 0x60, R297 to R301).
-/

namespace Sys2Proof.Machine

/-- The lane whose value `shfl` takes, where it exists (R298). -/
def shflSource (mode i k : Nat) : Option Nat :=
  match mode with
  | 0 => some (k % 32)
  | 1 => if i < k then none else some (i - k)
  | 2 => if 31 < i + k then none else some (i + k)
  | _ => some (i.xor (k % 32))

/-- `shfl` (R298). -/
def shflBody (w : Who) (f : Fields) : M Unit := do
  let (a, b) ← read2 w f.imm (srcTyped f.ty f.sa) (srcRaw f.sb)
  writeTyped w f.ty f.dst fun i =>
    match shflSource f.mod.toNat i ((b i).toNat % 2 ^ 32) with
    | none => a i
    | some j => if w.act.contains j then a j else a i

/-- `vote` (R299). -/
def voteBody (w : Who) (f : Fields) : M Unit := do
  let a ← read1 w f.imm (srcRaw f.sa)
  let t (i : Nat) : Bool := (a i).setWidth 32 ≠ 0#32
  let r : Bool := match f.mod.toNat with
    | 0 => w.act.all t
    | 1 => w.act.any t
    | _ => w.act.all t || !w.act.any t
  writeWord w f.dst fun _ => boolWord r

/-- `ballot` (R299). -/
def ballotBody (w : Who) (f : Fields) : M Unit := do
  let a ← read1 w f.imm (srcRaw f.sa)
  writeWord w f.dst fun _ => laneMask (w.act.filter fun i => (a i).setWidth 32 ≠ 0#32)

/-- The fixed tree of `redadd.f32`: neighbours added level by level (R300). -/
def treeSum : Nat → List Nat → Nat
  | 0, l => l.getD 0 0
  | k + 1, l => treeSum k ((List.range (l.length / 2)).map fun i =>
      faddBits .f32 0 (l.getD (2 * i) 0) (l.getD (2 * i + 1) 0))

/-- Minus zero at f32. -/
def negZero : Nat := 0x80000000

/-- `redadd` (R300). -/
def redaddBody (w : Who) (f : Fields) : M Unit := do
  let a ← read1 w f.imm (srcTyped f.ty f.sa)
  let r : DWord :=
    if f.ty = .f32 then
      w64 (treeSum 5 ((List.range 32).map fun i => if w.act.contains i then (a i).toNat else negZero))
    else loOf f.ty ((w.act.map fun i => valOf f.ty (a i)).foldl (· + ·) 0)
  writeTyped w f.ty f.dst fun _ => r

/-- The greater or the lesser of two values of an integer TYPE or f32 (R288, R300). -/
def extremum (t : Ty) (wantMax : Bool) (a b : DWord) : DWord :=
  if t = .f32 then w64 (fminmax .f32 wantMax a.toNat b.toNat)
  else if decide (valOf t a ≤ valOf t b) = wantMax then b else a

/-- `redmax` (R300): a set made only of NaNs gives the canonical NaN. -/
def redmaxBody (w : Who) (f : Fields) : M Unit := do
  let a ← read1 w f.imm (srcTyped f.ty f.sa)
  let r : DWord := match w.act with
    | [] => 0
    | i :: t =>
      let x := t.foldl (fun m j => extremum f.ty true m (a j)) (a i)
      if f.ty = .f32 && Fmt.f32.decode x.toNat = .nan then w64 Fmt.f32.nanCode else x
  writeTyped w f.ty f.dst fun _ => r

/-- combine of `scan` by MOD[2:1] (R301). -/
def scanCombine (op : Nat) (t : Ty) (a b : DWord) : DWord :=
  match op with
  | 0 => if t = .f32 then w64 (faddBits .f32 0 a.toNat b.toNat) else loOf t (valOf t a + valOf t b)
  | 1 => extremum t true a b
  | _ => extremum t false a b

/-- The identity of `scan` (R301). -/
def scanIdentity (op : Nat) (t : Ty) : DWord :=
  match op with
  | 0 => 0
  | 1 => if t = .f32 then 0xFF800000 else loOf t (tyRange t).1
  | _ => if t = .f32 then 0x7F800000 else loOf t (tyRange t).2

/-- The result of each lane in ascending order, from an accumulator (R301). -/
def scanFrom (op : Nat) (excl : Bool) (t : Ty) (a : Nat → DWord) :
    Option DWord → List Nat → SMap DWord
  | _, [] => []
  | acc, i :: l =>
    let next := match acc with | none => a i | some x => scanCombine op t x (a i)
    (i, if excl then acc.getD (scanIdentity op t) else next) :: scanFrom op excl t a (some next) l

/-- `scan` (R301); a scalar destination takes the highest lane's result (R297). -/
def scanBody (w : Who) (f : Fields) : M Unit := do
  let a ← read1 w f.imm (srcTyped f.ty f.sa)
  let r := scanFrom (f.mod.toNat / 2) (f.mod.getLsbD 0) f.ty a none w.act
  let last := w.act.getLast?.getD 0
  writeTyped w f.ty f.dst fun i =>
    match f.dst with
    | .s _ => SMap.getD 0 r last
    | _ => SMap.getD 0 r i

/-! ## Meanings -/

/-- Lane shuffle (R298). -/
def execShfl (f : Fields) (s : State) : Host.Outcome State Fault Refusal :=
  issue (.shfl f) (shflBody) s

/-- Vote (R299). -/
def execVote (f : Fields) (s : State) : Host.Outcome State Fault Refusal :=
  issue (.vote f) (voteBody) s

/-- Mask of true lanes (R299). -/
def execBallot (f : Fields) (s : State) : Host.Outcome State Fault Refusal :=
  issue (.ballot f) (ballotBody) s

/-- Sum over lanes (R300). -/
def execRedadd (f : Fields) (s : State) : Host.Outcome State Fault Refusal :=
  issue (.redadd f) (redaddBody) s

/-- Maximum over lanes (R300). -/
def execRedmax (f : Fields) (s : State) : Host.Outcome State Fault Refusal :=
  issue (.redmax f) (redmaxBody) s

/-- Running operation over lanes (R301). -/
def execScan (f : Fields) (s : State) : Host.Outcome State Fault Refusal :=
  issue (.scan f) (scanBody) s

end Sys2Proof.Machine
end

