-- ==== Sys2Proof/Machine/Memory.lean ====
section
/-!
DEFINITION. Loads, stores and atomics of lanes and the front thread (OP 0x80, 0x81, R137 to R160).
-/

namespace Sys2Proof.Machine

open Config

/-- A `ld`, `ldc` or `ldt` with its path's read (R144). -/
def loadBody (window : Bool) (read : Who → Nat → Nat → Cache → M (List Byte × Bool)) (w : Who) (f : Fields) :
    M Unit := do
  let ea ← readEa w f
  let n := f.ty.bytes
  let l ← look fun s => s.accs w window ea (accessLanes w f.dst)
  let t ← look fun s => accessFault s w n n [rightR] false l
  check t
  let got ← collectM l fun a => read w a.va n f.cache
  let pairs := l.zip got
  let vals (i : Nat) : DWord :=
    match pairs.find? fun e => e.1.lane = i with
    | none => 0
    | some e => loadValue f.ty e.2.1
  let pts ← ptsOf w.core
  let _ ← startOp w .load ((destRefs w f.dst f.ty.wide).map (·.2)) (landings w f.dst f.ty.wide f.ty.signed vals)
    (eccu w ((pairs.filter fun e => e.2.2).map (·.1))) pts []
  pure ()

/-- `st` (R146). -/
def storeBody (w : Who) (f : Fields) : M Unit := do
  let front : Bool := match f.sb with | .k _ => true | _ => false
  let (a, b, c) ← read3 w f.imm (srcPair f.sa) ⟨f.sb, front, none⟩ ⟨f.dst, f.ty.wide, none⟩
  let ea (i : Nat) : Nat := (a i + (if front then b i else ((b i).setWidth 32).signExtend 64)).toNat
  let n := f.ty.bytes
  let l ← look fun s => s.accs w true ea w.actors
  let t ← look fun s => accessFault s w n n [rightW] true l
  check t
  leaveDirect w
  let bad ← collectM l fun a => genWrite (w.only a.lane) a.va (leBytesOf n (c a.lane).toNat)
  let pts ← ptsOf w.core
  let _ ← startOp w .store [] [] (eccu w (((l.zip bad).filter fun e => e.2).map (·.1))) pts []
  pure ()

/-- `atom` (R150): a commit point; the old values return. -/
def atomBody (op : AOp) (w : Who) (f : Fields) : M Unit := do
  let (a, c, e) ← read3 w f.imm (srcPair f.sa) (srcTyped f.ty f.sb)
    (if op = .cas then srcTyped f.ty (f.third.getD (.v 0)) else srcRaw (.v 0))
  let n := f.ty.bytes
  let l ← look fun s => s.accs w true (fun i => (a i).toNat) (accessLanes w f.dst)
  let t ← look fun s => accessFault s w n n [rightR, rightW] true l
  check t
  commitTask w
  let got ← collectM l fun x =>
    genAtomic w x.va f.ty op (c x.lane).toNat (e x.lane).toNat
  let pairs := l.zip got
  let vals (i : Nat) : DWord :=
    match pairs.find? fun e => e.1.lane = i with
    | none => 0
    | some e => w64 e.2.1
  let pts ← ptsOf w.core
  let _ ← startOp w .atomic ((destRefs w f.dst f.ty.wide).map (·.2)) (landings w f.dst f.ty.wide f.ty.signed vals)
    (eccu w ((pairs.filter fun e => e.2.2).map (·.1))) pts []
  pure ()

/-- An issuer as whose prefetch a core reads: no task takes the line for a read of its own (R153, R182). -/
def Who.quiet (w : Who) : Who := { w with team := 0 }

/-- A line of an in-lease prefetch fetched as a read of it would be (R149, R153): nothing on class 2, 6 or 7 or
where the address has no translation. -/
def prefetchLine (w : Who) (va : Nat) (cache : Cache) : M Unit := do
  let c ← look fun s => ((s.peekLeaf w va).map leafClass).getD 7
  if c = 2 || c = 6 || c = 7 then pure ()
  else do
    let p ← tryPlace w va
    match p with
    | none => pure ()
    | some p => do
      let pl := { p with pa := p.pa / 64 * 64 }
      let r ← look fun s => s.frameRec w.part (pl.pa / 65536 * 65536)
      if cache = .nowhere || (c = 3 && decide (r.settled ≤ pl.pa % 65536)) then pure ()
      else do
        let _ ← if c = 3 || c = 4 || c = 5 then settledRead w.quiet pl 64 (Cache.keeps cache)
          else plainRead w.quiet va pl 64 (Cache.keeps cache)
        pure ()

/-- `pref` (R153). -/
def prefBody (w : Who) (f : Fields) : M Unit := do
  let ea ← readEa w f
  let l := w.actors.map ea
  let ok ← look fun s => l.filter fun a => s.inLease w a 1 [rightR]
  dropped w.part ((l.filter fun a => !ok.contains a).map (· / 65536))
  each ((ok.map fun a => a / 64 * 64).foldl insertNat []) fun a => prefetchLine w a f.cache

/-- INL1 of the line of a place (R154): held tentative, in L1, or privatised by this core's L1 (R171). `held` is the
line where a tentative store to the address stands, which differs from its own in checkpoint mode (R469). DESIGN
CHOICE: a copy counts as valid while it is present, its lease ended or not, and nothing replaces one (log 55). -/
def State.inL1 (s : State) (w : Who) (pl : Place) (held : Nat) : Bool :=
  let line := pl.pa / 64
  let key := if leafClass pl.leaf = 6 then key6 w.part line else line
  let tent : Bool := ((s.teamOf w).map fun x => x.tentLines.contains held).getD false
  tent || (s.line key).holders.any (fun h => h.core = w.core) ||
    match SMap.get? (s.core w.core).l1 key with
    | none => false
    | some x => match x.stable with | none => true | some n => decide (n = w.launch)

/-- What `probe` reports of the line at an address (R154); `inl1` was sampled at issue, and `held` is as there. -/
def probeValue (s : State) (w : Who) (a : Acc) (pl : Place) (held : Nat) (inl1 : Bool) : Nat :=
  let e := pl.leaf
  let c := leafClass e
  let line := pl.pa / 64
  let k := s.core w.core
  let rs := s.rangesOf w
  let bit (b : Bool) (i : Nat) : Nat := if b then 2 ^ i else 0
  let link := (s.tag line).toNat
  let frame := pl.pa / 65536 * 65536
  let tent : Bool := ((s.teamOf w).map fun x => x.tentLines.contains held).getD false
  c * 2 ^ 29 + bit (leafT e) 28 + bit (leafS e) 27 + bit (leafSH e) 26 + bit (rs.any fun r => r.has a.va [rightW]) 25 +
    bit (rs.any fun r => r.has a.va [rightX]) 24 + bit (rs.any fun r => r.has a.va [rightS]) 23 +
    (if c = 7 then 0
     else
      bit inl1 22 + bit (SMap.get? k.con line).isSome 21 + bit (SMap.get? k.tile line).isSome 20 +
        bit (s.replicaOf w.part w.core frame).isSome 19) +
    bit (c = 2 && decide (link ≠ 0)) 18 +
    bit tent 17 +
    (if c = 2 then link
     else if c = 3 || c = 4 || c = 5 then (s.frameRec w.part frame).settled / 64 else 0)

/-- What a computation would answer, for a report: nothing is set and nothing moves (R154). -/
def peek {α : Type} (m : M α) : M α := fun s =>
  match m s with
  | .ok (p, _) => .ok (p, s)
  | .error e => .error e

/-- `probe` (R154). -/
def probeBody (w : Who) (f : Fields) : M Unit := do
  let ea ← readEa w f
  let l ← look fun s => s.accs w true ea (accessLanes w f.dst)
  let t ← look fun s => accessFault s w 1 1 [rightR] false l
  check t
  let six ← look fun s => l.any fun a => s.classAt w a = 6
  if six then fenceHold w else pure ()
  let got ← collectM l fun a => do
    let pl ← peek (placeOf w a.va)
    let (st, _) ← peek (storePlace w a.va true)
    let c := leafClass pl.leaf
    let inl1 ← look fun s => s.inL1 w pl (st.pa / 64)
    if c = 6 || c = 7 then pure () else mergeLine w.part (pl.pa / 64)
    let v ← look fun s => probeValue s w a pl (st.pa / 64) inl1
    pure (a.lane, v)
  let vals (i : Nat) : DWord := w64 (((got.find? fun e => e.1 = i).map (·.2)).getD 0)
  let pts ← ptsOf w.core
  let _ ← startOp w .load ((destRefs w f.dst false).map (·.2)) (landings w f.dst false false vals) none pts []
  pure ()

/-- `cwb` (R155): the lines of class 6 that its completion writes back. DEDUCED: the access of a lane on class 6 is
a demand access of R96, which sets the leaf's A bit (log 45). -/
def cwbBody (w : Who) (f : Fields) : M Unit := do
  let ea ← readEa w f
  let l ← look fun s => s.accs w false ea w.actors
  let t ← look fun s =>
    failing w kLEASE 1 l (fun a => !s.inLease w a.va 1 [rightW]) <|>
      failing w kLEASE 1 l (fun a => s.classAt w a = 4 || s.classAt w a = 5)
  check t
  let six ← look fun s => l.filter fun a => s.classAt w a = 6
  if six.isEmpty then pure () else fenceHold w
  let lines ← collectM six fun a => do
    let pl ← placeOf w a.va
    pure (pl.pa / 64)
  let pts ← ptsOf w.core
  let _ ← startOp w (.cwb lines) [] [] none pts []
  pure ()

/-- `pathfence` (R156): its effect is that of its completion. -/
def pathfenceBody (w : Who) (f : Fields) : M Unit := do
  let pts ← ptsOf w.core
  let _ ← startOp w (.fence f.mod) [] [] none pts []
  pure ()

/-- `ld` (R144). -/
def execLd (f : Fields) (s : State) : Host.Outcome State Fault Refusal :=
  issue (.ld f) (loadBody true genRead) s

/-- `st` (R146). -/
def execSt (f : Fields) (s : State) : Host.Outcome State Fault Refusal :=
  issue (.st f) (storeBody) s

/-- `ldc` (R144). -/
def execLdc (f : Fields) (s : State) : Host.Outcome State Fault Refusal :=
  issue (.ldc f) (loadBody false fun w va n c => pathRead w false va n c) s

/-- `ldt` (R144). -/
def execLdt (f : Fields) (s : State) : Host.Outcome State Fault Refusal :=
  issue (.ldt f) (loadBody false fun w va n c => pathRead w true va n c) s

/-- `pref` (R153). -/
def execPref (f : Fields) (s : State) : Host.Outcome State Fault Refusal :=
  issue (.pref f) (prefBody) s

/-- `pathfence` (R156). -/
def execPathfence (f : Fields) (s : State) : Host.Outcome State Fault Refusal :=
  issue (.pathfence f) (pathfenceBody) s

/-- `probe` (R154). -/
def execProbe (f : Fields) (s : State) : Host.Outcome State Fault Refusal :=
  issue (.probe f) (probeBody) s

/-- `cwb` (R155). -/
def execCwb (f : Fields) (s : State) : Host.Outcome State Fault Refusal :=
  issue (.cwb f) (cwbBody) s

/-- `atom` (R150). -/
def execAtom (op : AOp) (f : Fields) (s : State) : Host.Outcome State Fault Refusal :=
  issue (.atom op f) (atomBody op) s

end Sys2Proof.Machine
end

