-- ==== Sys2Proof/Machine/Flow.lean ====
section
/-!
DEFINITION. What happens of the device's own accord beside programs: completions (R37, R144 to R158),
deliveries between cores (R233), prefetches (R112, R347), rebase sweeps (R169) and the clocks (R162, R331,
R354, R367, R433).
-/

namespace Sys2Proof.Machine

open Config

/-! ## Completions -/

/-- An operation of a kind completed: what a test selects, with nothing left to wait for. -/
def completeIf (id : Nat) (sel : OpKind → Bool) : M Unit := upd fun s =>
  match SMap.get? s.ops id with
  | none => s
  | some op => if sel op.kind && op.waits.isEmpty then s.finishOp id else s

/-- LOAD_RETURN (R144). -/
def loadReturn (id : Nat) : M Unit := completeIf id fun k => k = .load

/-- STORE_COMPLETION (R158); an operation of an engine form that waits for no command completes so too, and a
`spawn` once each of its records is in its queue (R370). -/
def storeCompletion (id : Nat) : M Unit := do
  let waits ← look fun s => ((SMap.get? s.ops id).map fun o => match o.kind with
    | .spawn part orders => s.pushWaits part orders
    | _ => false).getD false
  if waits then pure ()
  else completeIf id fun k => k = .store || k = .engine || match k with | .spawn _ _ | .appended _ => true | _ => false

/-- ATOMIC_RETURN (R150), and each transaction of a `bcas` (R402). -/
def atomicReturn (id : Nat) : M Unit := do
  let op ← look fun s => SMap.get? s.ops id
  match op with
  | none => pure ()
  | some op => do
    let part ← look fun s => (s.partOfCore op.owner.core).getD 0
    match op.kind with
    | .bcas ctx ty ecc todo => bcasEvent part id op ctx ty ecc todo
    | _ => completeIf id fun k => k = .atomic

/-- PATHFENCE_COMPLETION (R156): the core's constant and tile copies are gone, the dirty class 6 lines
written back. -/
def pathfenceCompletion (id : Nat) : M Unit := do
  let op ← look fun s => SMap.get? s.ops id
  match op with
  | none => pure ()
  | some op =>
    match op.kind with
    | .fence paths => do
      let c := op.owner.core
      let part ← look fun s => (s.partOfCore c).getD 0
      upd fun s => s.updCore c fun k =>
        { k with con := if paths.getLsbD 0 then [] else k.con, tile := if paths.getLsbD 1 then [] else k.tile }
      if paths.getLsbD 2 then hostFence part c else pure ()
      upd fun s => s.finishOp id
    | _ => pure ()

/-- CWB_COMPLETION (R155): the host-line cache holds every line in M or E. -/
def cwbCompletion (id : Nat) : M Unit := do
  let op ← look fun s => SMap.get? s.ops id
  match op with
  | none => pure ()
  | some op =>
    match op.kind with
    | .cwb lines => do
      let part ← look fun s => (s.partOfCore op.owner.core).getD 0
      each lines fun l => do
        cleanLine6 part l
        let _ ← hlcOwn part l
        pure ()
      upd fun s => s.finishOp id
    | _ => pure ()

/-! ## Queues between cores (R233) -/

/-- The pushes of a core that may arrive next: the oldest through each capability entry (R233), where its FIFO
has no room that only a tentative pop has made (R234). -/
def State.oldestPushes (s : State) (core : Nat) : List (Nat × Push) :=
  let l := (s.core core).inflight
  ((List.range l.length).zip l).filter fun e =>
    !((l.take e.1).any fun x => x.entry.life = e.2.entry.life && x.entry.cap = e.2.entry.cap) &&
      match SMap.get? (s.core core).fifos e.2.fifo with
      | none => true
      | some q => q.owner ≠ e.2.life || s.fifoRoom core e.2.fifo

/-- QUEUE_DELIVERY (R233): one of them, which one is a FREE VALUE, arrives; where its FIFO is gone it is
discarded. -/
def queueDelivery (core : Nat) : M Unit := do
  let n ← draw
  upd fun s =>
    let k := s.core core
    let l := s.oldestPushes core
    match l[freeNat n % maxN l.length 1]? with
    | none => s
    | some (i, x) =>
      let s := s.updCore core fun k => { k with inflight := k.inflight.take i ++ k.inflight.drop (i + 1) }
      match SMap.get? k.fifos x.fifo with
      | none => s
      | some q => if q.owner = x.life then s.deliver core x.fifo x.entry else s

/-! ## Prefetches (R112, R347) -/

/-- The issuer that the device prefetches for: a team at lane level. -/
def State.teamWho (s : State) (t : Nat) : Option Who :=
  match s.team? t with
  | none => none
  | some x =>
    match s.life? x.life with
    | none => none
    | some f => some { engineWho f.part f.ctx f.launch ⟨x.life, x.gen, x.core, 0, 0⟩ with
        agent := .lane t 0 0, level := .lane, team := t }

/-- HARDWARE_PREFETCH (R112): a line of a team's read range fetched into one of its core's caches; outside
the lease it is dropped and counted. -/
def hardwarePrefetch (core t va : Nat) : M Unit := do
  let w ← look fun s => s.teamWho t
  match w with
  | none => pure ()
  | some w =>
    if w.core ≠ core then pure ()
    else do
      let a := va % 2 ^ 56
      let ok ← look fun s => s.inLease w a 1 [rightR]
      if !ok then dropped w.part [a / 65536]
      else do
        let n ← draw
        let c ← look fun s => ((s.peekLeaf w a).map leafClass).getD 0
        let p ← if freeNat n % 3 ≠ 0 && c = 0 then tryPlace w a else pure none
        match freeNat n % 3, p with
        | 0, _ => prefetchLine w a .near
        | _, none => pure ()
        | k, some pl => do
            meetLine (pl.pa / 64)
            let bad ← look fun s => s.isPoison (pl.pa / 64)
            if bad then pure ()
            else do
              let _ ← pathLine w.part core (pl.pa / 64) (k = 2) true true
              pure ()

/-- SPECULATIVE_FETCH (R347): a fetch block ahead of a front context that runs, or a dropped one. -/
def speculativeFetch (t va : Nat) : M Unit := do
  let w ← look fun s => if ((s.team? t).map fun x => x.front.run).getD false then s.teamWho t else none
  match w with
  | none => pure ()
  | some w => do
    let b := va % 2 ^ 56 / 48 * 48
    let ok ← look fun s => s.inLease w b 48 [rightX]
    if ok then fetchBlock w 0 b
    else dropped w.part [b / 65536, (b + 47) / 65536]

/-! ## Rebase sweeps (R169) -/

/-- REBASE_SWEEP_COMPLETE (R169): every line of the slice stands against its current base. -/
def sweepComplete (n : Nat) : M Unit := upd fun s =>
  let sl := s.slice n
  if !sl.sweep then s
  else
    match s.partOfTwelfth (twelfthOfSlice n) with
    | none => s
    | some j =>
      let size := ((s.part? j).map (·.size)).getD 1
      let lines := SMap.map s.lines fun k l => if homedAt j size n k then l.conv sl else l
      { s with lines := lines }.updSlice n fun x => { x with sweep := false }

/-! ## Clocks -/

/-- Quads of a core in solo mode (R331). -/
def State.soloQuads (s : State) (c : Nat) : Nat :=
  let n (g : Group) : Nat := (g.quads.filter fun q => q.solo.isSome).length
  ((s.teamsOn c).flatMap fun e => List.map (fun g : Nat × Group => n g.2) e.2.groups).sum +
    (((s.core c).handler.map fun h => n h.group).getD 0)

/-- Whether a group has a gang that nothing but its fetch can hold (R354, R384). -/
def Group.fetches (g : Group) : Bool :=
  g.live && g.park.isNone && g.quads.any fun q =>
    (q.cur ≠ 0 || q.solo.isSome) && q.sleep.isNone && q.await.isNone && q.wait = 0 && q.parkSince.isNone && q.recSince.isNone

/-- The picks that a side of a core leaves empty for fetch in some cycles, and the counter of the three that takes them:
the level where the block of the oldest gang held for it lies. FREE VALUES where the side has a gang that may be held so:
how many, at most 2 a cycle, and which level (R354). -/
def State.lostPicks (s : State) (c side cycles : Nat) : Nat × Nat :=
  if (s.sideGroups c side).any fun e => e.2.2.fetches then
    (freeNat (s.free + 4 * c + 2 * side) % 3, freeNat (s.free + 4 * c + 2 * side + 1) % (2 * cycles + 1))
  else (0, 0)

/-- A core after some cycles: its logical clock, its count of solo quads, and its counts of picks lost to
fetch, those of a side in one of the three (R162, R331, R354). -/
def State.tickCore (s : State) (c cycles : Nat) : Core :=
  let k := s.core c
  let a := s.lostPicks c 0 cycles
  let b := s.lostPicks c 1 cycles
  let lost (i : Nat) : Nat := (if a.1 = i then a.2 else 0) + (if b.1 = i then b.2 else 0)
  { k with pts := k.pts + ((s.cyc + cycles) / 4 - s.cyc / 4), solocyc := k.solocyc + w64 (cycles * s.soloQuads c),
           ifstall0 := k.ifstall0 + w64 (lost 0), ifstall1 := k.ifstall1 + w64 (lost 1),
           ifstall2 := k.ifstall2 + w64 (lost 2) }

/-- A team after some cycles: its slice does not run while it is stopped for a fault (R433), its allowance
runs while it is resident (R367). -/
def Team.tick (x : Team) (cycles : Nat) : Team :=
  { x with slice := if x.fault.isSome then x.slice else x.slice - cycles, allow := x.allow - cycles }

/-- Reference cycles of a microsecond (R433). -/
def cyclesPerUs : Nat := 1200

/-- The module some reference cycles later: every clock of every partition's cores (R162). -/
def State.tick (s : State) (cycles : Nat) : State :=
  let here := (List.range 384).filterMap fun c =>
    if (s.partOfCore c).isSome then some (c, s.tickCore c cycles) else (SMap.get? s.cores c).map fun k => (c, k)
  { s with
    cyc := s.cyc + cycles
    rtc := s.rtc + ((s.cyc + cycles) / cyclesPerUs - s.cyc / cyclesPerUs)
    cores := here ++ s.cores.filter fun e => 384 ≤ e.1
    teams := SMap.map s.teams fun _ x => x.tick cycles
    free := s.free + 4 * 384 }

/-- Whether an error lies where nothing but a drop or the freeze follows from it (R475, R481). -/
def Upset.quiet : Upset → Bool
  | .copy _ _ | .code _ _ | .shared _ _ | .leaf _ _ | .hub => true
  | .block _ _ | .l2 _ _ | .row _ _ _ | .reg _ _ | .record _ _ | .dir _ => false

/-- What follows from an error in a clean copy or a translation, which is dropped and reported as corrected
(R475, R479), and in hub state, which freezes the module (R481). -/
def State.dropCopy (s : State) : Upset → State
  | .copy c line => (s.updCore c fun k =>
      { k with l1 := SMap.drop k.l1 fun l => l == line, con := SMap.drop k.con fun l => l == line,
               tile := SMap.drop k.tile fun l => l == line }).errRec (s.partOfCore c) 1 5 (64 * line) c none
  | .code c line => (s.updCore c fun k =>
      { k with l0i0 := k.l0i0.filter fun x => x != line, l0i1 := k.l0i1.filter fun x => x != line,
               l1i := k.l1i.filter fun x => x != line }).errRec (s.partOfCore c) 1 5 (64 * line) c none
  | .shared j line => (((s.partOfTwelfth j).map fun p => s.updPart p fun x =>
      { x with codeLines := SMap.modify x.codeLines j fun l => l.filter fun y => y != line }).getD s).errRec
        (s.partOfTwelfth j) 1 2 (64 * line) (j / 2) none
  | .leaf c va => (s.updCore c fun k =>
      { k with tlb := k.tlb.filter fun e => !(decide (e.va ≤ va ∧ va < e.va + e.size)) }).errRec
        (s.partOfCore c) 1 5 0 c none
  | .hub => s.freezeBy 3
  | _ => s

/-- The errors in clean copies, translations and hub state are met. -/
def State.meetQuiet (s : State) : State :=
  (s.upsets.filter Upset.quiet).foldl State.dropCopy { s with upsets := s.upsets.filter fun u => !u.quiet }

/-- A DIRECTORY ENTRY IN ERROR (R475): its lines are merged (R173), then the entry is dropped. -/
def dropEntry (line : Nat) : M Unit := do
  upd fun s => { s with upsets := s.upsets.filter fun u => u != .dir line }
  let part ← look fun s => s.partOfLine line
  match part with
  | none => pure ()
  | some j =>
    let h ← homeOf j line
    let size ← look fun s => ((s.part? j).map (·.size)).getD 1
    let fine ← look fun s => (s.slice h).lineEnts.any fun e => e.1 = line
    let reg ← look fun s => (s.slice h).regions.find? fun x => x.tag = regionOf line
    if fine then do
      gatherLine j line
      upd fun s => s.updSlice h fun sl => (sl.dropLine line).lessRegion (regionOf line)
    else do
      let ls ← look fun s => s.heldLines j size h (regionOf line)
      each ls fun l =>
        match reg with
        | none => gatherLine j l
        | some reg => probeLine j size l reg
      upd fun s => s.updSlice h fun sl =>
        { sl with regions := sl.regions.filter fun x => x.tag ≠ regionOf line,
                  lineEnts := sl.lineEnts.filter fun e => regionOf e.1 ≠ regionOf line }
    upd fun s => s.errRec (some j) 1 5 0 (16 * h) none

/-- The line whose directory entry is in error. -/
def Upset.dirLine : Upset → Option Nat
  | .dir l => some l
  | .block _ _ | .l2 _ _ | .row _ _ _ | .reg _ _ | .record _ _ | .copy _ _ | .code _ _ | .shared _ _ | .leaf _ _
  | .hub => none

/-- The errors in directory entries are met, unless a sweep of a slice holds the merge (R169). -/
def meetDirectory : M Unit := fun s =>
  match each (s.upsets.filterMap Upset.dirLine) dropEntry s with
  | .ok r => .ok r
  | .error _ => .ok ((), s)

/-- LOAD_RETURN (R144). -/
def execLoadReturn (op : Nat) (s : State) : Host.Outcome State Fault Refusal := event (loadReturn op) s

/-- STORE_COMPLETION (R158). -/
def execStoreCompletion (op : Nat) (s : State) : Host.Outcome State Fault Refusal := event (storeCompletion op) s

/-- ATOMIC_RETURN (R150). -/
def execAtomicReturn (op : Nat) (s : State) : Host.Outcome State Fault Refusal := event (atomicReturn op) s

/-- PATHFENCE_COMPLETION (R156). -/
def execPathfenceCompletion (op : Nat) (s : State) : Host.Outcome State Fault Refusal :=
  event (pathfenceCompletion op) s

/-- CWB_COMPLETION (R155). -/
def execCwbCompletion (op : Nat) (s : State) : Host.Outcome State Fault Refusal := event (cwbCompletion op) s

/-- QUEUE_DELIVERY (R233). -/
def execQueueDelivery (core : Nat) (s : State) : Host.Outcome State Fault Refusal := event (queueDelivery core) s

/-- HARDWARE_PREFETCH (R112). -/
def execHardwarePrefetch (core team va : Nat) (s : State) : Host.Outcome State Fault Refusal :=
  event (hardwarePrefetch core team va) s

/-- SPECULATIVE_FETCH (R347). -/
def execSpeculativeFetch (team va : Nat) (s : State) : Host.Outcome State Fault Refusal :=
  event (speculativeFetch team va) s

/-- REBASE_SWEEP_COMPLETE (R169). -/
def execRebaseSweepComplete (slice : Nat) (s : State) : Host.Outcome State Fault Refusal :=
  event (sweepComplete slice) s

/-- PTS_TICK (R162). -/
def execPtsTick (cycles : Nat) (s : State) : Host.Outcome State Fault Refusal :=
  event (do upd fun s => (s.tick cycles).meetQuiet; meetDirectory) s

end Sys2Proof.Machine
end

