-- ==== Sys2Proof/Machine/Matrix.lean ====
section
/-!
DEFINITION. The matrix engine (OP 0xB1, 0xB2, R314 to R325): operands, block dot products, the checks at
issue, the queue, and the engine's row events.
-/

namespace Sys2Proof.Machine

open Config

/-! ## Operands (R315, R316) -/

/-- Pitches of a descriptor's second register (R316). -/
def rowPitch (d : Word) : Nat := (d.extractLsb' 0 16).toNat
def tilePitch (d : Word) : Nat := (d.extractLsb' 16 16).toNat

/-- Addresses of the blocks of a scratchpad operand, in the order of (kb, i) (R316). -/
def spBlocks (addr desc : Word) (k : Nat) : List Nat :=
  (List.range k).flatMap fun kb => (List.range 16).map fun i =>
    moveAddr true addr.toNat ((i * rowPitch desc + 64 * tilePitch desc * kb : Nat) : Int)

/-- Addresses that a scratchpad operand is read at: an RP of 0 reads one block for all 16 values of i (R316). -/
def spReads (addr desc : Word) (k : Nat) : List Nat :=
  if rowPitch desc ≠ 0 then spBlocks addr desc k
  else (List.range k).map fun kb => moveAddr true addr.toNat ((64 * tilePitch desc * kb : Nat) : Int)

/-- Addresses of the rows of an accumulator (R316). -/
def accRows (acc : Word) : List Nat := (List.range 16).map fun i => moveAddr true acc.toNat ((64 * i : Nat) : Int)

/-- The blocks of a register operand (R315): every lane of the group, the tag in lane 0. -/
def regBlocks (g : Group) (base k : Nat) : List Block :=
  (List.range (16 * k)).map fun p =>
    let word (i : Nat) : Word := (g.lane i).reg (base + p)
    ⟨(List.range 32).flatMap fun i => leBytesOf 2 (word i).toNat, (word 0).extractLsb' 16 16, false⟩

/-- A matrix operand of a form: lane registers, or a descriptor in a pair. -/
def matSrc (s : State) (w : Who) (o : Opnd) (k : Nat) (x : DWord) : MatSrc :=
  match o with
  | .v n => .regs n.toNat (regBlocks (s.groupOf w) n.toNat k)
  | _ => .sp (x.setWidth 32) (x.extractLsb' 32 32)

/-! ## Block dot products (R318) -/

/-- Format byte of a tag. -/
def tagFmt (t : BitVec 16) : Nat := (t.extractLsb' 0 8).toNat
/-- Scale byte of a tag. -/
def tagScale (t : BitVec 16) : Nat := (t.extractLsb' 8 8).toNat

/-- Elements of a block of a format byte; 0 for a byte that R268 does not list with elements. -/
def elemCount (code : Nat) : Nat := match elemOf code with | none => 0 | some e => 512 / e.width

/-- The elements of a block. -/
def Block.elems (b : Block) (e : Elem) : List FVal :=
  let x := leOf b.bytes
  (List.range (512 / e.width)).map fun k => e.decode (x / 2 ^ (e.width * k) % 2 ^ e.width)

/-- The dot product of two blocks (R318), whose formats pass. -/
def blockDot (x y : Block) : FVal :=
  if tagFmt x.tag = 255 || tagFmt y.tag = 255 || tagScale x.tag = 255 || tagScale y.tag = 255 || x.poison ||
      y.poison then .nan
  else
    match elemOf (tagFmt x.tag), elemOf (tagFmt y.tag) with
    | some e, some f =>
      match sumV 0 (((x.elems e).zip (y.elems f)).map fun p => p.1.mul p.2) with
      | .fin n m k =>
        if m = 0 then .fin false 0 0 else .fin n m (k + ((tagScale x.tag + tagScale y.tag : Nat) : Int) - 254)
      | v => v
    | _, _ => .nan

/-- What a block's format fails with against the blocks of the other operand in its K-step (R318): its
cause. -/
def formatCause (b : Block) (other : List Block) : Option Nat :=
  let n := elemCount (tagFmt b.tag)
  if tagFmt b.tag = 255 then none
  else if n = 0 then some 1
  else if other.any fun o => elemCount (tagFmt o.tag) ≠ 0 && elemCount (tagFmt o.tag) ≠ n then some 2
  else none

/-- The first failing block of one operand against the other, in the order of (kb, i): number and cause. -/
def formatSide (a b : List Block) : Option (Nat × Nat) :=
  (List.range a.length).findSome? fun p =>
    (a[p]?).bind fun x => (formatCause x ((b.drop (p / 16 * 16)).take 16)).map fun c => (p, c)

/-- The first failing block of a command, A before B: whether of A, number, cause (R318). -/
def formatFail (a b : List Block) : Option (Bool × Nat × Nat) :=
  match formatSide a b with
  | some (p, c) => some (true, p, c)
  | none => (formatSide b a).map fun e => (false, e.1, e.2)

/-! ## Arithmetic of the rows (R317, R322, R323) -/

/-- tof32 and addf32 (R317). -/
def accAdd (sat : Bool) (c : Nat) (v : FVal) : Nat :=
  let p := Fmt.f32.round 0 sat v
  Fmt.f32.round 0 sat (sumV 0 [Fmt.f32.decode c, Fmt.f32.decode p])

/-- Elements of an accumulator row; of a poisoned row every one is a NaN (R488). -/
def accElems (b : Block) : List Nat :=
  (List.range 16).map fun j => if b.poison then 0x7FC00000 else leOf ((b.bytes.drop (4 * j)).take 4)

/-- Bytes of an accumulator row. -/
def accBytes (l : List Nat) : List Byte := l.flatMap fun x => leBytesOf 4 x

/-- Row `i` of an `mma` (R317). -/
def mmaRow (k : Nat) (sat : Bool) (a b : List Block) (i : Nat) (row : List Nat) : List Nat :=
  (List.range 16).map fun j =>
    (List.range k).foldl (fun c kb =>
      match a[16 * kb + i]?, b[16 * kb + j]? with
      | some x, some y => accAdd sat c (blockDot x y)
      | _, _ => c) (row.getD j 0)

/-- The tag that `mcvt` gives (R323). -/
def mcvtTag (ty : Ty) (c : Word) : BitVec 16 :=
  match ty with
  | .b8 => c.extractLsb' 8 8 ++ c.extractLsb' 0 8
  | .bf16 => 0x7F60
  | .f16 => 0x7F61
  | _ => 0

/-- An element converted by `mcvt` (R323). -/
def mcvtElem (ty : Ty) (mod : BitVec 3) (c : Word) (x : Nat) : Nat :=
  let v := Fmt.f32.decode x
  let mode := mod.toNat % 4
  let sat := mod.getLsbD 2
  match ty with
  | .b8 =>
    match Fmt.b8 (c.extractLsb' 0 8).toNat with
    | none => 0
    | some f => f.round mode sat (v.scale (127 - ((c.extractLsb' 8 8).toNat : Int)))
  | t => ((tyFmt t).getD .f32).round mode sat v

/-! ## Checks and acceptance (R314, R321, R324) -/

/-- K of a form (R315). -/
def kSteps (k4 : Bool) : Nat := if k4 then 4 else 1

/-- ALIGN of a scratchpad descriptor (R316). -/
def descFault : MatSrc → Option CmdFault
  | .regs _ _ => none
  | .sp a d => if a.toNat % 64 ≠ 0 || rowPitch d % 64 ≠ 0 then some ⟨1, kALIGN, 1, a.toNat⟩ else none

/-- Scratchpad bytes that an operand reads. -/
def MatSrc.rows (k : Nat) : MatSrc → List Nat
  | .regs _ _ => []
  | .sp a d => spReads a d k

/-- Blocks read of an operand as its blocks (i, kb): the one that an RP of 0 reads stands for all 16 values of i. -/
def MatSrc.spread (l : List Block) : MatSrc → List Block
  | .regs _ _ => []
  | .sp _ d => if rowPitch d ≠ 0 then l else l.flatMap fun b => List.replicate 16 b

/-- Captured blocks of an operand. -/
def MatSrc.known : MatSrc → List Block
  | .regs _ b => b
  | .sp _ _ => []

/-- The scratchpad fault of rows of `n` bytes (R218). -/
def rowsFault (s : State) (w : Who) (n : Nat) (l : List Nat) : Option CmdFault :=
  l.findSome? fun a => if spadBad (s.laneSpad w.life a) a n then some ⟨2, kLEASE, 3, a⟩ else none

/-- Whether an `mcvt` writes memory (R323). -/
def mcvtMem (c : Word) : Bool := c.getLsbD 16

/-- Scratchpad address of destination row `i` of an `mcvt`. -/
def mcvtRow (dest : DWord) (i : Nat) : Nat :=
  moveAddr true (dest.extractLsb' 0 32).toNat ((i * (dest.extractLsb' 32 16).toNat : Nat) : Int)

/-- The checks of a matrix command at issue, but for FORMAT. -/
def matFault (s : State) (w : Who) (fm : MatForm) (acc : Word) : Option CmdFault :=
  let accAl : Option CmdFault := if acc.toNat % 64 ≠ 0 then some ⟨1, kALIGN, 1, acc.toNat⟩ else none
  let accSp := rowsFault s w 64 (accRows acc)
  match fm with
  | .mma k4 _ a b =>
    let k := kSteps k4
    descFault a <|> descFault b <|> accAl <|> rowsFault s w 64 (a.rows k) <|> rowsFault s w 64 (b.rows k) <|> accSp
  | .mzero | .mscale _ => accAl <|> accSp
  | .mcvt ty _ c d =>
    let n := ty.bytes
    let form : Option CmdFault :=
      if ty = .b8 && (Fmt.b8 (c.extractLsb' 0 8).toNat).isNone then some ⟨1, kALIGN, 2, acc.toNat⟩ else none
    if mcvtMem c then
      let run := (d.toNat, 256 * n)
      form <|> (if d.toNat % (16 * n) ≠ 0 then some ⟨1, kALIGN, 1, d.toNat⟩ else none) <|> accAl <|> accSp <|>
        runFault s w false [rightW] run <|> pageFault s w (runPages run)
    else
      let rp := (d.extractLsb' 32 16).toNat
      let a := (d.extractLsb' 0 32).toNat
      form <|> (if spOff a % n ≠ 0 || rp < 16 * n || rp % n ≠ 0 then some ⟨1, kALIGN, 1, a⟩ else none) <|>
        accAl <|> accSp <|> rowsFault s w (16 * n) ((List.range 16).map (mcvtRow d))

/-- FORMAT of the register blocks of a command at issue (R318). -/
def matFormat (w : Who) (fm : MatForm) : Option Trap :=
  match fm with
  | .mma _ _ a b =>
    (formatFail a.known b.known).map fun e =>
      let base := match (if e.1 then a else b) with | .regs n _ => n | .sp _ _ => 0
      { kind := kFORMAT, cause := e.2.2, mask := w.failMask w.act, unit := base + e.2.1 }
  | _ => none

/-- A MATRIX COMMAND ACCEPTED after its checks (R314, R317); the gang is held where the queue is full. -/
def acceptMat (w : Who) (fm : MatForm) (acc : Word) : M Wait := do
  let t ← look fun s => gangFault w (matFault s w fm acc)
  check t
  check (matFormat w fm)
  let n ← look fun s => (s.core w.core).mq.length
  if maxMat ≤ n then stop .hold else pure ()
  match fm with
  | .mcvt _ _ c _ => if mcvtMem c then leaveDirect w else pure ()
  | _ => pure ()
  let id ← takeSerial
  let pts ← ptsOf w.core
  let tent ← look fun s => decide (s.modeOf w = .tentative)
  upd fun s => s.updCore w.core fun k =>
    { k with mq := k.mq ++ [⟨id, w.owner, w.launch, fm, acc, [], 0, [], false, tent, pts⟩] }
  pure (.mat w.core id)

/-- A matrix form issued: its command accepted, its flag bound. -/
def matIssue (w : Who) (fm : MatForm) (acc : Word) : M Unit := do
  let x ← acceptMat w fm acc
  let pts ← ptsOf w.core
  let _ ← startOp w .engine [] [] none pts [x]
  pure ()

/-- `mma` (R317). -/
def mmaBody (w : Who) (f : Fields) : M Unit := do
  let k4 := f.mod.getLsbD 0
  let (d, a, b) ← read3 w f.imm (srcRaw f.dst) (srcPair f.sa) (srcPair f.sb)
  let (x, y) ← look fun s =>
    (matSrc s w f.sa (kSteps k4) (a w.low), matSrc s w f.sb (kSteps k4) (b w.low))
  matIssue w (.mma k4 (f.mod.getLsbD 1) x y) ((d w.low).setWidth 32)

/-- `mzero` (R322). -/
def mzeroBody (w : Who) (f : Fields) : M Unit := do
  let d ← read1 w f.imm (srcRaw f.dst)
  matIssue w .mzero ((d w.low).setWidth 32)

/-- `mscale` (R322). -/
def mscaleBody (w : Who) (f : Fields) : M Unit := do
  let (d, n) ← read2 w f.imm (srcRaw f.dst) (srcRaw f.sa)
  matIssue w (.mscale ((n w.low).setWidth 32)) ((d w.low).setWidth 32)

/-- `mcvt` (R323). -/
def mcvtBody (w : Who) (f : Fields) : M Unit := do
  let (d, a, c) ← read3 w f.imm (srcPair f.dst) (srcRaw f.sa) (srcRaw f.sb)
  matIssue w (.mcvt f.ty f.mod ((c w.low).setWidth 32) (d w.low)) ((a w.low).setWidth 32)

/-! ## The engine -/

/-- The command that the engine of a core runs: the first accepted one (R314). -/
def State.matHead (s : State) (core : Nat) : Option MCmd := (s.core core).mq.head?

/-- The command at the head of a core's queue changed. -/
def setHead (core : Nat) (f : MCmd → MCmd) : M Unit :=
  upd fun s => s.updCore core fun k =>
    { k with mq := match k.mq with | [] => [] | c :: t => f c :: t }

/-- Addresses of the scratchpad blocks that a command reads, A before B. -/
def MCmd.blockAddrs (c : MCmd) : List Nat :=
  match c.form with
  | .mma k4 _ a b => a.rows (kSteps k4) ++ b.rows (kSteps k4)
  | _ => []

/-- The operands of a command whose blocks are all read. -/
def MCmd.operands (c : MCmd) : List Block × List Block :=
  match c.form with
  | .mma k4 _ a b =>
    let n := (a.rows (kSteps k4)).length
    (a.known ++ a.spread (c.blocks.take n), b.known ++ b.spread (c.blocks.drop n))
  | _ => ([], [])

/-- FORMAT of a command whose blocks are all read, recorded after issue (R318, R419). -/
def MCmd.format (c : MCmd) : Option Trap :=
  match c.form with
  | .mma k4 _ a b =>
    (formatFail c.operands.1 c.operands.2).map fun e =>
      match (if e.1 then a else b) with
      | .regs n _ => { kind := kFORMAT, cause := e.2.2, unit := n + e.2.1 }
      | .sp x d => { kind := kFORMAT, cause := e.2.2, addr := (spBlocks x d (kSteps k4)).getD e.2.1 0 }
  | _ => none

/-- ECCU of a matrix command at an address. -/
def matEccu (core : Nat) (c : MCmd) (addr : Nat) : M Unit :=
  upd fun s => s.lateOn (.mat core c.id) { kind := kECCU, addr := addr }

/-- A scratchpad row read for a command; an error met there that cannot be corrected gives ECCU after issue (R475). -/
def MCmd.row (core : Nat) (c : MCmd) (a : Nat) : M Block := do
  let g ← look fun s => s.cmdSpad c.owner.life a
  match g with
  | none => pure ⟨List.replicate 64 0, 0, true⟩
  | some g => do
    let bad ← meetRow g a
    if bad then matEccu core c (a / 64 * 64) else pure ()
    readRow g a

/-- One destination row of an `mcvt` written in scratchpad (R323). -/
def mcvtSpad (core : Nat) (c : MCmd) (a : Nat) (tag : BitVec 16) (bs : List Byte) : M Unit := do
  let g ← look fun s => s.cmdSpad c.owner.life a
  match g with
  | none => pure ()
  | some g => each (pieces (spOff a) bs.length) fun e => do
    let x := a - spOff a + e.1
    let no ← rowWrite g [(x, (bs.drop (e.1 - spOff a)).take e.2)] (some tag) false
    if no then matEccu core c (x / 64 * 64) else pure ()

/-- One row of a command done (R317, R320, R322, R323). -/
def matRow (part core : Nat) (c : MCmd) : M Unit := do
  let i := c.rows
  let a := (accRows c.acc).getD i 0
  let row ← c.row core a
  let put (l : List Nat) : M Unit := do
    let g ← look fun s => s.cmdSpad c.owner.life a
    match g with
    | none => pure ()
    | some g => upd fun s => s.setRow g (a / 64 * 64) (accBytes l)
    setHead core fun c => { c with rows := i + 1 }
  match c.form with
  | .mma k4 sat _ _ => put (mmaRow (kSteps k4) sat c.operands.1 c.operands.2 i (accElems row))
  | .mzero => put (List.replicate 16 0)
  | .mscale n => put ((accElems row).map fun x => fscaleBits .f32 0 x n.toInt)
  | .mcvt ty mod ctl dest => do
    let n := ty.bytes
    let bs := (accElems row).flatMap fun x => leBytesOf n (mcvtElem ty mod ctl x)
    let tag := mcvtTag ty ctl
    if mcvtMem ctl then do
      let d := dest.toNat + 16 * n * i
      let out := c.out ++ bs
      let full : Bool := i = 15 || (d + 16 * n) % 64 = 0
      let w := engineWho part 0 c.launch c.owner
      let ctx ← look fun s => ((s.launch? c.launch).map (·.ctx)).getD 0
      let w := { w with ctx := ctx }
      let held ← look fun s => full && !c.tentative && s.shadowHeld w c.id d
      if held then pure ()
      else if full then do
        let va := d + 16 * n - out.length
        let clk ← landOrStage w (.mat core c.id) c.owner c.tentative c.clk ⟨va / 64 * 64, [(va, out)], some tag, false, 0, 0⟩
        setHead core fun c => { c with rows := i + 1, out := [], clk := clk }
      else setHead core fun c => { c with rows := i + 1, out := out }
    else do
      mcvtSpad core c (mcvtRow dest i) tag bs
      setHead core fun c => { c with rows := i + 1 }

/-- MATRIX_COMMAND_EXECUTE (R317, R320): the engine reads the next operand block, or does the next row. -/
def matExecute (core : Nat) : M Unit := do
  let c ← look fun s => s.matHead core
  let part ← look fun s => s.partOfCore core
  match c, part with
  | some c, some part =>
    if c.failed || 16 ≤ c.rows then pure ()
    else
      match c.blockAddrs[c.blocks.length]? with
      | some a => do
        let b ← c.row core a
        setHead core fun c => { c with blocks := c.blocks ++ [b] }
        let c' : MCmd := { c with blocks := c.blocks ++ [b] }
        if c'.blocks.length = c'.blockAddrs.length then
          match c'.format with
          | none => pure ()
          | some t => do
            upd fun s => s.lateOn (.mat core c.id) t
            setHead core fun c => { c with failed := true }
        else pure ()
      | none => matRow part core c
  | _, _ => pure ()

/-- MATRIX_COMMAND_COMPLETION (R317, R318): the last row is written, or nothing is. -/
def matComplete (core : Nat) : M Unit := do
  let c ← look fun s => s.matHead core
  match c with
  | none => pure ()
  | some c =>
    if c.failed || 16 ≤ c.rows then
      upd fun s => (s.updCore core fun k => { k with mq := k.mq.drop 1 }).waitOver (.mat core c.id) c.clk
    else pure ()

/-- `mma.rr` (R317). -/
def execMmaRr (f : Fields) (s : State) : Host.Outcome State Fault Refusal :=
  issue (.mmaRr f) (mmaBody) s

/-- `mma.rs` (R317). -/
def execMmaRs (f : Fields) (s : State) : Host.Outcome State Fault Refusal :=
  issue (.mmaRs f) (mmaBody) s

/-- `mma.sr` (R317). -/
def execMmaSr (f : Fields) (s : State) : Host.Outcome State Fault Refusal :=
  issue (.mmaSr f) (mmaBody) s

/-- `mma.ss` (R317). -/
def execMmaSs (f : Fields) (s : State) : Host.Outcome State Fault Refusal :=
  issue (.mmaSs f) (mmaBody) s

/-- `mzero` (R322). -/
def execMzero (f : Fields) (s : State) : Host.Outcome State Fault Refusal :=
  issue (.mzero f) (mzeroBody) s

/-- `mscale` (R322). -/
def execMscale (f : Fields) (s : State) : Host.Outcome State Fault Refusal :=
  issue (.mscale f) (mscaleBody) s

/-- `mcvt` (R323). -/
def execMcvt (f : Fields) (s : State) : Host.Outcome State Fault Refusal :=
  issue (.mcvt f) (mcvtBody) s

/-- MATRIX_COMMAND_EXECUTE (R317). -/
def execMatrixCommandExecute (core : Nat) (s : State) : Host.Outcome State Fault Refusal :=
  event (matExecute core) s

/-- MATRIX_COMMAND_COMPLETION (R317). -/
def execMatrixCommandCompletion (core : Nat) (s : State) : Host.Outcome State Fault Refusal :=
  event (matComplete core) s

end Sys2Proof.Machine
end

