-- ==== Sys2Proof/Machine/Gong.lean ====
section
/-!
DEFINITION. Gongs (OP 0xB0, R304 to R313): sets, records, signs, and the command that the last sign issues.
-/

namespace Sys2Proof.Machine

open Config

/-- Number of the gong that an operand names. -/
def gongIndex : Opnd → Nat
  | .g n => n.toNat
  | _ => 0

/-- CHANNEL at a gong (R311). -/
def gongTrap (w : Who) (n cause : Nat) : Trap :=
  { kind := kCHANNEL, cause := cause, unit := n, mask := w.failMask w.act }

/-- A gong of a core. -/
def State.gong? (s : State) (core n : Nat) : Option Gong := SMap.get? (s.core core).gongs n

/-- A gong of a core written. -/
def State.setGong (s : State) (core n : Nat) (g : Gong) : State :=
  s.updCore core fun k => { k with gongs := SMap.put k.gongs n g }

/-- The gong that a team holds; CHANNEL where another team holds it (R305). -/
def ownGong (w : Who) (n : Nat) : M (Option Gong) := do
  let g ← look fun s => s.gong? w.core n
  match g with
  | none => pure none
  | some g => if g.holder = w.life then pure (some g) else trap (gongTrap w n 4)

/-- `gset` (R306). -/
def gsetBody (w : Who) (f : Fields) : M Unit := do
  let a ← read1 w f.imm (srcRaw f.sa)
  let n := gongIndex f.dst
  let v := (a w.low).toNat % 2 ^ 32
  let g ← ownGong w n
  if (g.map (·.count)).getD 0 ≠ 0 then trap (gongTrap w n 6)
  else if v = 0 then upd fun s => s.updCore w.core fun k => { k with gongs := SMap.del k.gongs n }
  else if 4095 < v then trap (gongTrap w n 7)
  else upd fun s => s.setGong w.core n { g.getD ⟨w.life, false, 0, 0, 0, 0⟩ with n := v }

/-- `garm` (R307). -/
def garmBody (w : Who) (f : Fields) : M Unit := do
  let a ← read1 w f.imm (srcRaw f.sa)
  let n := gongIndex f.dst
  let v : Word := (a w.low).setWidth 32
  let g ← ownGong w n
  match g with
  | none => trap (gongTrap w n 5)
  | some g =>
    if g.count ≠ 0 then trap (gongTrap w n 6)
    else do
      let t ← look fun s => gangFault w <|
        if v.toNat % 64 ≠ 0 then some ⟨1, kALIGN, 1, v.toNat⟩
        else if spadBad (s.laneSpad w.life v.toNat) v.toNat 64 then some ⟨2, kLEASE, 3, v.toNat⟩
        else none
      check t
      upd fun s => s.setGong w.core n { g with armed := true, recAddr := v }

/-- The copy form of a bound record's KIND and ETYPE, where they name one (R312, R313). -/
def boundCopy (kind etype : Nat) : Option (CopyForm × Ty) :=
  match kind, Ty.ofCode etype with
  | 0, some .i8 => some (.cpy, .i8)
  | 1, some .i8 => some (.cpy2d, .i8)
  | 2, some t => if tyEW.contains t then some (.gather, t) else none
  | 3, some t => if tyEW.contains t then some (.scatter, t) else none
  | 4, some t => if tyCF.contains t then some (.cfill, t) else none
  | _, _ => none

/-- The matrix form of a bound record, where it names one (R312, R313). -/
def boundMat (b : List Byte) : Option MatForm :=
  let n (o k : Nat) : Nat := leOf ((b.drop o).take k)
  let src (o : Nat) : MatSrc := .sp (w32 (n o 4)) (w32 (n (o + 4) 4))
  match n 7 1, n 6 1, Ty.ofCode (n 5 1) with
  | 0xB1, 3, some .blk =>
    if n 3 1 < 4 then some (.mma (bitN (n 3 1) 0) (bitN (n 3 1) 1) (src 48) (src 40)) else none
  | 0xB2, 0, some .i8 => if n 3 1 = 0 then some .mzero else none
  | 0xB2, 1, some .i8 => if n 3 1 = 0 then some (.mscale (w32 (n 56 4))) else none
  | 0xB2, 2, some t =>
    if tyMC.contains t && n 3 1 < 8 then some (.mcvt t (BitVec.ofNat 3 (n 3 1)) (w32 (n 56 4)) (w64 (n 48 8)))
    else none
  | _, _, _ => none

/-- The command of a bound record issued as the signer's own (R313): what its completion is waited for. -/
def boundIssue (w : Who) (rec' : Nat) (b : List Byte) : M (List Wait) := do
  let n (o k : Nat) : Nat := leOf ((b.drop o).take k)
  let bad : M (List Wait) := trap { kind := kALIGN, cause := 2, mask := w.failMask w.act, addr := rec' }
  match n 4 1 with
  | 0 =>
    match boundCopy (n 6 1) (n 5 1) with
    | none => bad
    | some (fm, ty) => do
      poolRoom w 1
      let r := CopyRec.ofBytes b
      let idx ← copyChecks w fm ty [(w.low, rec', r)]
      copyCommits w [r]
      let (_, ws) ← acceptCopy w fm ty rec' r (idx.getD 0 [])
      copyTouches w fm [(w.low, rec', r)]
      pure ws
  | 1 =>
    match boundMat b with
    | none => bad
    | some fm => do
      let x ← acceptMat w fm (w32 (n 60 4))
      pure [x]
  | _ => bad

/-- `sign` (R308): a sign counted, or the last one of its round, which issues the bound command. -/
def signBody (w : Who) (f : Fields) : M Unit := do
  let n := gongIndex f.dst
  let g ← ownGong w n
  match g.filter fun g => g.n ≠ 0 && g.armed with
  | none => trap (gongTrap w n 5)
  | some g => do
    let x : Wait := .gong w.life n g.gen
    let pts ← ptsOf w.core
    if g.count + 1 < g.n then do
      upd fun s => s.setGong w.core n { g with count := g.count + 1 }
      let _ ← startOp w .engine [] [] none pts [x]
      pure ()
    else do
      let rec' := g.recAddr.toNat
      let t ← look fun s => gangFault w <|
        if spadBad (s.laneSpad w.life rec') rec' 64 then some ⟨2, kLEASE, 3, rec'⟩ else none
      check t
      let b ← look fun s => s.recordBytes w rec'
      let ws ← boundIssue w rec' b
      upd fun s => s.setGong w.core n { g with count := 0, gen := (g.gen + 1) % 2 ^ 32 }
      let _ ← startOp w .engine [] [] none pts (x :: ws)
      upd fun s =>
        let s := { s with ops := SMap.map s.ops fun _ o =>
          if o.waits.contains x && o.waits.length = 1 then { o with waits := x :: ws } else o }
        s.waitOver x pts

/-- What `gstat` reports (R310). -/
def State.gstat (s : State) (w : Who) (n : Nat) : Nat :=
  match s.gong? w.core n with
  | none => 0
  | some g =>
    if g.holder ≠ w.life then 2 ^ 29
    else 2 ^ 31 + (if g.armed then 2 ^ 30 else 0) + g.gen % 16 * 2 ^ 24 + g.n % 4096 * 2 ^ 12 + g.count % 4096

/-- `gstat` (R310). -/
def gstatBody (w : Who) (f : Fields) : M Unit := do
  let v ← look fun s => s.gstat w (gongIndex f.sa)
  writeWord w f.dst fun _ => w32 v

/-- `gset` (R306). -/
def execGset (f : Fields) (s : State) : Host.Outcome State Fault Refusal :=
  issue (.gset f) (gsetBody) s

/-- `garm` (R307). -/
def execGarm (f : Fields) (s : State) : Host.Outcome State Fault Refusal :=
  issue (.garm f) (garmBody) s

/-- `sign` (R308). -/
def execSign (f : Fields) (s : State) : Host.Outcome State Fault Refusal :=
  issue (.sign f) (signBody) s

/-- `gstat` (R310). -/
def execGstat (f : Fields) (s : State) : Host.Outcome State Fault Refusal :=
  issue (.gstat f) (gstatBody) s

end Sys2Proof.Machine
end

