-- ==== Sys2Proof/Machine/Host.lean ====
section
/-!
DEFINITION. What the host and the peers do to a partition beside its commands: CXL.mem reads and writes
(R465), CXL.cache snoops (R470), peer accesses (R471), MSI-X (R466), Axeel ports (R471).
-/

namespace Sys2Proof.Machine

open Config

/-! ## CXL.mem (R465) -/

/-- Physical address of a host device address; none at or beyond the range's end (R465). -/
def hdmAddr (j size d : Nat) : Option Nat :=
  if d < 2 * size * stackBytes then some ((2 * j + d / stackBytes) * stackStride + d % stackBytes) else none

/-- Whether a line has been lost with a die: its home or its stack (R480). -/
def State.lostLine (s : State) (j size line : Nat) : Bool :=
  s.deadDies.contains (homeSlice j size line / 256) || (isHbm (64 * line) && s.deadDies.contains (stackOf (64 * line) / 4))

/-- A line that the host takes into its caches recorded at its home (R465, log 5). -/
def State.holdByHost (s : State) (line : Nat) : State := { s with hostHeld := insertNat s.hostHeld line }

/-- The host's clock raised by an answer (R465). -/
def State.raiseHost (s : State) (j ts : Nat) : State :=
  s.updPart j fun p => { p with hostclk := maxN p.hostclk ts }

/-- A CXL.mem read of a run inside one line: its bytes, or none for poison. -/
def hostReadLine (j d n : Nat) : M (Option (List Byte)) := do
  let p ← look fun s => s.part? j
  match p with
  | none => pure none
  | some p =>
    match hdmAddr j p.size d with
    | none => pure none
    | some pa => do
      let line := pa / 64
      let lost ← look fun s => s.lostLine j p.size line
      if lost then pure none
      else do
        meetLine line
        let bad ← look fun s => s.isPoison line
        if bad then pure none
        else do
          let clk ← look fun s => ((s.part? j).map (·.hostclk)).getD 0
          let ts ← deviceRead j clk line
          upd fun s => (s.raiseHost j ts).holdByHost line
          let b ← look fun s => s.bytes pa n
          pure (some b)

/-- HOST_MEM_READ (R465): one answer for each line. -/
def hostMemRead (j d n : Nat) : M Unit :=
  each (pieces d n) fun e => do
    let b ← hostReadLine j e.1 e.2
    upd fun s => s.send (match b with | none => .memPoison j | some b => .memData j b)

/-- A CXL.mem write inside one line; one that is dropped makes a record of KIND 8 (R465, R477, R480). -/
def hostWriteLine (j d : Nat) (bs : List Byte) : M Unit := do
  let p ← look fun s => s.part? j
  match p with
  | none => pure ()
  | some p =>
    match hdmAddr j p.size d with
    | none => upd fun s => s.dropRec j 0
    | some pa => do
      let line := pa / 64
      let lost ← look fun s => s.lostLine j p.size line
      let bad ← if lost then pure true else do
        meetLine line
        look fun s => s.isPoison line
      if bad then upd fun s => s.dropRec j (64 * line)
      else do
        let held ← look fun s => s.hostHeld.contains line
        upd fun s => { s with hostHeld := s.hostHeld.filter fun l => l ≠ line }
        let clk ← look fun s => ((s.part? j).map (·.hostclk)).getD 0
        let ts ← deviceWrite j clk none pa bs
        upd fun s =>
          let s := s.raiseHost j ts
          if held then s.holdByHost line else s

/-- HOST_MEM_WRITE (R465). -/
def hostMemWrite (j d : Nat) (bs : List Byte) : M Unit := do
  each (pieces d bs.length) fun e => hostWriteLine j e.1 ((bs.drop (e.1 - d)).take e.2)
  upd fun s => s.send (.memDone j)

/-! ## CXL.cache snoops (R470) -/

/-- HOST_SNOOP (R470): what the host-line cache answers for a line of the host-coherent window, and the bytes
that the host then writes; a write of the host to a line lost with a die is dropped (R480), and a poisoned copy that the
host takes away is gone. -/
def hostSnoop (j line : Nat) (kind : Snoop) (bs : List Byte) : M Unit := upd fun s =>
  match s.part? j with
  | none => s
  | some p =>
    if !(isHostWin (64 * line)) || p.cfg.hsize ≤ 64 * line - hostBase then s
    else
      let k := key6 j line
      let ha := hostMem (hostAddr p (64 * line))
      let e := SMap.get? s.hlc k
      let lost := s.hlcPoison.contains k
      let s := s.send (if lost then .memPoison j else match e with | none => .snoopMiss j | some (_, d) => .snoopData j d)
      let s := match e with
        | some (.m, d) => if lost then s else s.setBytes ha d
        | _ => s
      match kind with
      | .data => match e with
        | none => s
        | some (_, d) => { s with hlc := SMap.put s.hlc k (.s, d) }
      | .inv =>
        if lost && !bs.isEmpty then s.dropRec j (64 * line)
        else { s with hlc := SMap.del s.hlc k, hlcPoison := s.hlcPoison.filter (· ≠ k) }.setBytes ha (bs.take 64)

/-! ## Peers (R471) -/

/-- Whether a partition's own table names a peer partition (R471). -/
def Part.namesPeer (p : Part) (peerId peerPart : Nat) : Bool :=
  p.peers.any fun e => e.getLsbD 63 && (e.extractLsb' 32 16).toNat = peerId && (e.extractLsb' 8 4).toNat = peerPart

/-- Whether a request changes the peer's memory. -/
def peerWrites : PeerReq → Bool
  | .read => false
  | .write _ | .atomic _ _ _ _ => true

/-- A peer's access at home to `n` bytes inside one line (R149, R185): a line that is lost or cannot be corrected is
answered as uncorrectable data. -/
def peerLine (j pa n : Nat) (q : PeerReq) : M Unit := do
  let line := pa / 64
  let size ← look fun s => ((s.part? j).map (·.size)).getD 1
  let lost ← look fun s => s.lostLine j size line
  let bad ← if lost then pure true else do
    meetLine line
    look fun s => s.isPoison line
  if bad then upd fun s => (if peerWrites q then s.dropRec j (64 * line) else s).send .peerRefused
  else
    match q with
    | .read => do
      let _ ← deviceRead j 0 line
      upd fun s => s.send (.peerData (s.bytes pa n))
    | .write b => do
      let _ ← deviceWrite j 0 none pa (b.take n)
      upd fun s => s.send .peerDone
    | .atomic ty op c e => do
      mergeLine j line
      let old ← look fun s => s.bytes pa n
      let _ ← deviceWrite j 0 none pa (leBytesOf n (atomicOp op ty (leOf old) c e))
      upd fun s => s.send (.peerData old)

/-- Bytes that a request covers: those that a read asks for, those that a write holds, or an atomic's width. -/
def peerSize (n : Nat) : PeerReq → Nat
  | .read => n
  | .write b => b.length
  | .atomic ty _ _ _ => ty.bytes

/-- The part of a request from byte `o` on. -/
def peerFrom (q : PeerReq) (o : Nat) : PeerReq :=
  match q with
  | .write b => .write (b.drop o)
  | q => q

/-- PEER_ACCESS_SERVE (R471): a read of `n` bytes, a write or an atomic at `o` of the partition, each line's part one
event at its home; an atomic is aligned, so one line holds it (R150). -/
def peerAccess (j peerId peerPart o n : Nat) (q : PeerReq) : M Unit := do
  let p ← look fun s => s.part? j
  match p with
  | none => upd fun s => s.send .peerRefused
  | some p =>
    if !(p.namesPeer peerId peerPart) || p.lost || !(inPartHbm j p.size o (peerSize n q)) then upd fun s => s.send .peerRefused
    else each (pieces o (peerSize n q)) fun e => peerLine j e.1 e.2 (peerFrom q (e.1 - o))

/-- AXEEL_PORT_DOWN (R471). -/
def portDown (port : Nat) : M Unit := upd fun s =>
  if port < 12 then { s with portsDown := insertNat s.portsDown port } else s

/-! ## MSI-X (R466) -/

/-- The mask bit of an MSI-X vector set by the host (R466): a vector raised from then on is pending. -/
def State.maskVector (s : State) (j v : Nat) : State :=
  s.updPart j fun p => { p with unmasked := p.unmasked.filter (· ≠ v) }

/-- MSIX_VECTOR_UNMASK (R466): a pending vector is sent. -/
def unmaskVector (j v : Nat) : M Unit := upd fun s =>
  match s.part? j with
  | none => s
  | some p =>
    if 2048 ≤ v then s
    else
      let s := s.updPart j fun p => { p with unmasked := insertNat p.unmasked v, pendVec := p.pendVec.filter fun x => x ≠ v }
      if p.pendVec.contains v then s.send (.vector j v) else s

/-- HOST_MEM_READ (R465). -/
def execHostMemRead (part d n : Nat) (s : State) : Host.Outcome State Fault Refusal := event (hostMemRead part d n) s

/-- HOST_MEM_WRITE (R465). -/
def execHostMemWrite (part d : Nat) (bytes : List Byte) (s : State) : Host.Outcome State Fault Refusal :=
  event (hostMemWrite part d bytes) s

/-- HOST_SNOOP (R470). -/
def execHostSnoop (part line : Nat) (kind : Snoop) (bytes : List Byte) (s : State) : Host.Outcome State Fault Refusal :=
  event (hostSnoop part line kind bytes) s

/-- PEER_ACCESS_SERVE (R471). -/
def execPeerAccessServe (part peerId peerPart o n : Nat) (req : PeerReq) (s : State) :
    Host.Outcome State Fault Refusal :=
  event (peerAccess part peerId peerPart o n req) s

/-- MSIX_VECTOR_UNMASK (R466). -/
def execMsixVectorUnmask (part vector : Nat) (s : State) : Host.Outcome State Fault Refusal :=
  event (unmaskVector part vector) s

/-- AXEEL_PORT_DOWN (R471). -/
def execAxeelPortDown (port : Nat) (s : State) : Host.Outcome State Fault Refusal := event (portDown port) s

end Sys2Proof.Machine
end

