-- ==== Sys2Proof/Machine/System.lean ====
section
/-!
DEFINITION. Traps, the access window, dispositions and the saving of contexts (OP 0xE0, R425 to R444), and
the start of the handler (R422).
-/

namespace Sys2Proof.Machine

open Config

/-! ## trap (R431) -/

/-- `trap`. -/
def trapBody (w : Who) (f : Fields) : M Unit := do
  let a ← read1 w f.imm (srcRaw f.sa)
  trap { kind := kTRAP, mask := w.failMask w.act, info := [(a w.low).setWidth 32] }

/-! ## The access window (R425, R426) -/

/-- What a window is open on. -/
inductive Target where
  | team (t : Nat)
  | below
  deriving DecidableEq, Repr

/-- The stopped team of a core, or the stopped handler group, whose token is given (R422, R424). -/
def State.tokenOf (s : State) (core tok : Nat) : Option Target :=
  match (s.teamsOn core).find? fun e => e.2.token = some tok with
  | some e => some (.team e.1)
  | none =>
    match (s.core core).handler.bind (·.below) with
    | some (_, _, k, _) => if k = tok then some .below else none
    | none => none

/-- What the window of a core's handler is open on. -/
def State.windowOn (s : State) (core : Nat) : Option Target :=
  ((s.core core).handler.bind (·.window)).bind fun k => s.tokenOf core k

/-- A group that a window reaches. -/
def State.winGroup (s : State) (core g : Nat) : Target → Option Group
  | .team t => (s.group? (.lane t g 0)).filter (·.live)
  | .below => if g = 0 then ((s.core core).handler.bind (·.below)).map (·.1) else none

/-- A group that a window reaches changed. -/
def State.updWin (s : State) (core g : Nat) (f : Group → Group) : Target → State
  | .team t => s.updGroup (.lane t g 0) f
  | .below => s.updCore core fun k =>
      { k with handler := k.handler.map fun h => { h with below := h.below.map fun b => (f b.1, b.2) } }

/-- The fault record that a window reaches. -/
def State.winRec (s : State) (core : Nat) : Target → Option FaultRec
  | .team t => (s.team? t).bind (·.fault)
  | .below => ((s.core core).handler.bind (·.below)).map fun b => b.2.1

/-- The fault record that a window reaches changed. -/
def State.updRec (s : State) (core : Nat) (f : FaultRec → FaultRec) : Target → State
  | .team t => s.updTeam t fun x => { x with fault := x.fault.map f }
  | .below => s.updCore core fun k =>
      { k with handler := k.handler.map fun h => { h with below := h.below.map fun b => (b.1, f b.2.1, b.2.2) } }

/-- Bits of a window address that its SPACE gives a field (R426). -/
def spaceMask (sp : Nat) : Nat :=
  match sp with
  | 0 => 0x0FFE01FF
  | 1 => 0x0FC0007F
  | 2 => 0x0FFE0000
  | 3 => 0x0FFE0003
  | 4 => 0x0FC0001F
  | 5 => 0x0000000F
  | 6 => 0x000000FF
  | 7 => 0x0000001F
  | 8 => 0x0000003F
  | 9 => 0x001FFFFC
  | 10 => 0x03FFF03F
  | _ => 0

/-- An item of the window (R426). -/
inductive Item where
  | v (g lane n : Nat)
  | s (g n : Nat)
  | preds (g lane : Nat)
  | pcLo (g lane : Nat)
  | pcHi (g lane : Nat)
  | rsd (g lane : Nat)
  | window (g : Nat)
  | skid (g : Nat)
  | pix (g : Nat)
  | pending (g : Nat)
  | flag (g n : Nat)
  | record (n : Nat)
  | k (n : Nat) (high : Bool)
  | frontPcLo
  | frontPcHi
  | frontFlag (n : Nat)
  | cap (n : Nat) (high : Bool)
  | gong (n word : Nat)
  | scratch (off : Nat)
  | entryWord (fifo slot n : Nat)
  | fifoWord (fifo n : Nat)
  deriving DecidableEq, Repr

/-- The item that a window address names, by its fields alone (R426). -/
def itemOf (w : Nat) : Option Item :=
  let sp := w / 2 ^ 28
  let g := bitsN w 27 22
  let l := bitsN w 21 17
  if (w % 2 ^ 28).land (spaceMask sp) ≠ w % 2 ^ 28 then none
  else
    match sp with
    | 0 => some (.v g l (bitsN w 8 0))
    | 1 => some (.s g (bitsN w 6 0))
    | 2 => some (.preds g l)
    | 3 => match bitsN w 1 0 with
      | 0 => some (.pcLo g l)
      | 1 => some (.pcHi g l)
      | 2 => some (.rsd g l)
      | _ => none
    | 4 => match bitsN w 4 0 with
      | 0 => some (.window g)
      | 1 => some (.skid g)
      | 2 => some (.pix g)
      | 3 => some (.pending g)
      | n => if n < 16 then some (.flag g (n - 4)) else none
    | 5 => some (.record (bitsN w 3 0))
    | 6 =>
      let n := bitsN w 7 0
      if n < 128 then some (.k (n / 2) (n % 2 = 1))
      else if n = 128 then some .frontPcLo
      else if n = 129 then some .frontPcHi
      else if n < 142 then some (.frontFlag (n - 130))
      else none
    | 7 => some (.cap (bitsN w 4 1) (bitN w 0))
    | 8 => some (.gong (bitsN w 5 2) (bitsN w 1 0))
    | 9 => some (.scratch (bitsN w 20 0))
    | 10 =>
      let n := bitsN w 5 0
      if n ≤ 32 then some (.entryWord (bitsN w 25 20) (bitsN w 19 12) n)
      else if 48 ≤ n && n ≤ 51 then some (.fifoWord (bitsN w 25 20) (n - 48))
      else none
    | _ => none

/-- Word `n` of a list of bytes. -/
def wordOf (b : List Byte) (n : Nat) : Nat := leOf ((b.drop (4 * n)).take 4)

/-- A FIFO that a stopped team owns. -/
def State.ownFifo (s : State) (x : Team) (n : Nat) : Option Fifo :=
  (SMap.get? (s.core x.core).fifos n).filter fun q => q.owner = x.life

/-- An item of a stopped team beside its groups (R426). -/
def State.teamItem (s : State) (x : Team) (i : Item) : Option Nat :=
  match i with
  | .k n high => some (if high then (x.front.kreg n).toNat / 2 ^ 32 else (x.front.kreg n).toNat % 2 ^ 32)
  | .frontPcLo => some (x.front.pc % 2 ^ 32)
  | .frontPcHi => some (x.front.pc / 2 ^ 32)
  | .frontFlag n => some (x.front.flag n)
  | .cap n high =>
    let b := ((s.life? x.life).map fun f => ((SMap.get? f.cap n).map Cap.toBits).getD 0).getD 0
    some (if high then b / 2 ^ 32 else b % 2 ^ 32)
  | .gong n word => some (wordOf (s.gongBytes x.core n) word)
  | .scratch off => (s.life? x.life).bind fun f =>
      let a := 0xF0000000 + off
      if spadBad (some f) a 4 || s.spadPoison f a then none else some (leOf (s.spadBytes f a 4))
  | .entryWord q slot n => (s.ownFifo x q).bind fun q => (q.slots[slot]?).map fun e =>
      if n = 32 then e.mask.toNat else (e.words.getD n 0).toNat
  | .fifoWord q n => (s.ownFifo x q).map fun q => wordOf (q.toBytes (s.seatOf x.life)) n
  | _ => none

/-- THE VALUE OF AN ITEM through the window (R426); none where it is invalid. -/
def State.winRead (s : State) (core : Nat) (t : Target) (i : Item) : Option Nat :=
  let grp (g : Nat) (f : Group → Nat) : Option Nat := (s.winGroup core g t).map f
  match i with
  | .v g l n => (s.winGroup core g t).bind fun y => if n < y.w then some ((y.lane l).reg n).toNat else none
  | .s g n => grp g fun y => (y.scalar n).toNat
  | .preds g l => grp g fun y => (y.lane l).p.toNat + 32768
  | .pcLo g l => grp g fun y => (y.lane l).pc % 2 ^ 32
  | .pcHi g l => grp g fun y => (y.lane l).pc / 2 ^ 32
  | .rsd g l => grp g fun y => (y.lane l).rsd
  | .window g => grp g fun y => y.w
  | .skid g => grp g fun y => y.skid
  | .pix g => grp g fun y => y.pix
  | .pending g => grp g fun y => (y.pfault.map fun r => r.kind + 256 * r.cause).getD 0
  | .flag g n => grp g fun y => y.flag n
  | .record n => (s.winRec core t).map fun r => wordOf r.toBytes n
  | i => match t with
    | .team p => (s.team? p).bind fun x => s.teamItem x i
    | .below => none

/-- A program counter with one half replaced. -/
def pcWith (pc : Nat) (high : Bool) (c : Nat) : Nat :=
  if high then pc % 2 ^ 32 + c % 2 ^ 24 * 2 ^ 32 else pc / 2 ^ 32 * 2 ^ 32 + c % 2 ^ 32

/-- A lane whose PC is written (R426): a multiple of 48 is a clause start, another address a slot of the clause that
it stands in. A PC is written in two halves, so the value between them may be neither; one that stays neither breaks
the rule's "must" (log 53). -/
def Lane.moved (l : Lane) (a : Nat) : Lane := if a % 48 = 0 then { l with pc := a, base := a } else { l with pc := a }

/-- A capability entry's high word written (R426): V, R, W and ALLOW, where OUT is 0; GRANTED of its FIFO
follows (R226). -/
def State.putCap (s : State) (x : Team) (n c : Nat) : Option State :=
  (s.life? x.life).bind fun f =>
    let old := (SMap.get? f.cap n).getD ⟨false, false, false, 0, 0, 0, 0⟩
    if old.out ≠ 0 then none
    else
      let new := { old with v := bitN c 31, r := bitN c 30, w := bitN c 29, allow := bitsN c 15 0 }
      let s := if old.v && old.w then s.returnAllow x.life old else s
      let s := s.updLife x.life fun f => { f with cap := SMap.put f.cap n new }
      some (if new.v && new.w then
        match s.namedLife x.life new.core with
        | none => s
        | some o =>
          match s.life? o with
          | none => s
          | some g => s.updCore g.core fun k =>
              { k with fifos := SMap.modify k.fifos new.fifo fun q =>
                  if q.owner = o then { q with granted := q.granted + new.allow } else q }
       else s)

/-- A word of an occupied slot of a FIFO written (R426). -/
def State.putEntry (s : State) (x : Team) (q slot n c : Nat) : Option State :=
  (s.ownFifo x q).bind fun y => (y.slots[slot]?).map fun e =>
    let e := if n = 32 then { e with mask := BitVec.ofNat 32 c } else { e with words := setNth e.words n (w32 c) }
    s.updCore x.core fun k => { k with fifos := SMap.put k.fifos q { y with slots := setNth y.slots slot e } }

/-- An item of a stopped team beside its groups written (R426). -/
def State.putTeamItem (s : State) (p : Nat) (x : Team) (i : Item) (c : Nat) : Option State :=
  let front (f : Prog → Prog) : Option State := some (s.updProg (.front p) f)
  match i with
  | .k n high => front fun y =>
      let k := (y.kreg n).toNat
      y.setK n (w64 (if high then k % 2 ^ 32 + c * 2 ^ 32 else k / 2 ^ 32 * 2 ^ 32 + c))
  | .frontPcLo => front fun y =>
      let a := pcWith y.pc false c
      { y with pc := a, base := if a % 48 = 0 then a else y.base }
  | .frontPcHi => front fun y =>
      let a := pcWith y.pc true c
      { y with pc := a, base := if a % 48 = 0 then a else y.base }
  | .frontFlag n => front fun y => y.setFlag n (c % 64)
  | .cap n high => if high then s.putCap x n c else none
  | .scratch off => (s.life? x.life).bind fun f =>
      let a := 0xF0000000 + off
      if spadBad (some f) a 4 || s.spadPoison f a then none else some (s.setSpad f a (leBytesOf 4 c))
  | .entryWord q slot n => s.putEntry x q slot n c
  | _ => none

/-- AN ITEM WRITTEN through the window (R426, R428); none where it is invalid or not writable. -/
def State.winWrite (s : State) (core : Nat) (t : Target) (i : Item) (c : Nat) : Option State :=
  let grp (g : Nat) (f : Group → Option Group) : Option State :=
    (s.winGroup core g t).bind fun y => (f y).map fun z => s.updWin core g (fun _ => z) t
  let lane (g l : Nat) (f : Lane → Option Lane) : Option State :=
    grp g fun y => (f (y.lane l)).map fun x => y.updLane l fun _ => x
  match i with
  | .v g l n => grp g fun y => if n < y.w then some (y.updLane l fun x => x.setReg n (w32 c)) else none
  | .s g n => grp g fun y => some (y.setScalar n (w32 c))
  | .preds g l => lane g l fun x => some { x with p := BitVec.ofNat 15 c }
  | .pcLo g l => lane g l fun x => some (x.moved (pcWith x.pc false c))
  | .pcHi g l => lane g l fun x => some (x.moved (pcWith x.pc true c))
  | .rsd g l => lane g l fun x => some { x with rsd := c % 65536 }
  | .pix g => grp g fun y => some { y with pix := c }
  | .flag g n => grp g fun y => some (y.setFlag n (c % 64))
  | .record n =>
    if n < 14 then none
    else (s.winRec core t).map fun _ => s.updRec core (fun r =>
      let k := r.newp.toNat
      { r with newp := w64 (if n = 15 then k % 2 ^ 32 + c * 2 ^ 32 else k / 2 ^ 32 * 2 ^ 32 + c) }) t
  | .window _ | .skid _ | .pending _ => none
  | i => match t with
    | .team p => (s.team? p).bind fun x => s.putTeamItem p x i c
    | .below => none

/-- Predicate 14 of lanes written. -/
def State.putP14 (s : State) (w : Who) (l : List (Nat × Bool)) : State :=
  l.foldl (fun s e => s.putReg w (.p e.1 14) false (if e.2 then 1 else 0)) s

/-- `hwin` (R425). -/
def hwinBody (w : Who) (f : Fields) : M Unit := do
  let a ← read1 w f.imm (srcRaw f.sa)
  let tok := ((a w.low).setWidth 32).toNat
  let t ← look fun s => s.tokenOf w.core tok
  upd fun s => s.updCore w.core fun k =>
    { k with handler := k.handler.map fun h => { h with window := t.map fun _ => tok } }
  writeWord w f.dst fun _ => if t.isSome then 0 else 1

/-- The value that `hwrd` finds for a window address (R427). -/
def State.windowValue (s : State) (core a : Nat) : Option Nat :=
  (s.windowOn core).bind fun t => (itemOf a).bind fun i => s.winRead core t i

/-- `hwrd` (R427). -/
def hwrdBody (w : Who) (f : Fields) : M Unit := do
  let a ← read1 w f.imm (srcRaw f.sa)
  let s ← look id
  let val (i : Nat) : Option Nat := s.windowValue w.core ((a i).setWidth 32).toNat
  writeWord w f.dst fun i => w32 ((val i).getD 0)
  upd fun t => t.putP14 w (w.act.map fun i => (i, (val i).isSome))

/-- `hwwr` (R428): in ascending lane order. -/
def hwwrBody (w : Who) (f : Fields) : M Unit := do
  let (a, c) ← read2 w f.imm (srcRaw f.sa) (srcRaw f.sb)
  let got ← collectM w.act fun i => do
    let r ← look fun s => (s.windowOn w.core).bind fun t => (itemOf ((a i).setWidth 32).toNat).bind fun it =>
      s.winWrite w.core t it ((c i).setWidth 32).toNat
    match r with
    | none => pure (i, false)
    | some s' => do
      upd fun _ => s'
      pure (i, true)
  upd fun s => s.putP14 w got

/-! ## Ending a handler (R429, R430) -/

/-- The command that a PROMISE record names takes its new promise (R201). -/
def State.newPromise (s : State) (x : Team) (r : FaultRec) : State :=
  match s.life? x.life with
  | none => s
  | some f => s.updPart f.part fun p =>
      { p with cmds := p.cmds.map fun c =>
          if c.ctx = f.ctx && c.ticket = (r.info.getD 0 0).toNat && c.ticket ≠ 0 then
            { c with promise := r.newp.toNat, raised := false }
          else c }

/-- A fault disposed of as a `fix` or a `skip` that resumes the team (R429). -/
def State.resumeAfter (s : State) (t : Nat) (x : Team) (r : FaultRec) (skip : Bool) : State :=
  let s :=
    if r.kind = kPROMISE then s.newPromise x r
    else if r.kind = kTRAP || (skip && r.precise) then s.passFault t r
    else s
  let s := s.resumeTeam t
  if r.kind = kCLAIMLOCK then s.checkClaimLock x.core (r.src % 2) else s

/-- A DISPOSITION (R429): 0 fix, 1 skip, 2 retry, 3 kill. -/
def State.disposeOf (s : State) (t d : Nat) : State :=
  match s.team? t with
  | none => s
  | some x =>
    match x.fault with
    | none => s
    | some r =>
      let grain : Bool := r.kind = kGRAIN && r.cause = 1
      let d := if grain then (if d = 0 || d = 2 then 2 else 3) else d
      if d = 2 then s.retry t r.iaddr grain
      else if d = 3 || (d = 1 && r.precise && r.atStart && r.kind ≠ kTRAP) then s.kill t r.iaddr
      else s.resumeAfter t x r (d = 1)

/-- The handler group of a core ends and its team is disposed of. -/
def disposeWith (w : Who) (d : Nat) : M Unit := upd fun s =>
  match (s.core w.core).handler with
  | none => s
  | some h => (s.updCore w.core fun k => { k with handler := none }).disposeOf h.team d

/-- `dispose` (R429). -/
def disposeBody (w : Who) (f : Fields) : M Unit := disposeWith w (rawImm 0 f.sa).toNat

/-- A stopped handler group moved past the instruction of its record (R430). -/
def Group.passRecord (g : Group) (r : FaultRec) : Group :=
  let g := g.sendLanes r.lanes r.next r.nbase
  if r.next = r.nbase then
    g.updQuads ((List.range 8).filter fun q => (r.lanes.extractLsb' (4 * q) 4) ≠ 0) fun q => { q with bound := true }
  else g

/-- A group whose quads choose their paths again where a handler has moved their lanes. -/
def Group.rebound (g : Group) : Group :=
  let qs := (List.range 8).map fun q => if g.quadAgrees q then g.quad q else { g.quad q with bound := true }
  { g with quads := qs }

/-- The firmware's return to the handler group below it, which takes new numbers for its operations
(R430). -/
def State.leaveFirmware (s : State) (c : Nat) : State :=
  match (s.core c).handler with
  | none => s
  | some h =>
    match h.below with
    | none => s
    | some (g, r, _, win) =>
      let (id, s) := s.fresh
      let (_, s) := s.fresh
      let g := if r.kind = kTRAP then g.passRecord r else g
      let g := g.rebound
      let mine (o : Owner) : Bool := o.life = 0 && o.core = c && o.gen + 1 = h.gen
      let moved (o : Op) : Op := if mine o.owner then { o with owner := { o.owner with gen := id } } else o
      let s := { s with ops := SMap.map s.ops fun _ o => moved o }
      let h := { h with gen := id, level := .handler, group := g, window := win, halt := none, below := none }
      s.updCore c fun k => { k with handler := some h }

/-- `trapret` (R430). -/
def trapretBody (w : Who) (_ : Fields) : M Unit :=
  if w.level = .firmware then upd fun s => s.leaveFirmware w.core else disposeWith w 1

/-! ## Saving and restoring contexts (R442 to R444) -/

/-- Resident teams of a context, by place. -/
def State.teamsOfCtx (s : State) (part ctx : Nat) : List Nat :=
  (s.teams.filter fun e =>
    match s.life? e.2.life with | none => false | some f => f.part = part && f.ctx = ctx).map (·.1)

/-- Saved teams of a context, by number. -/
def State.savedOfCtx (s : State) (part ctx : Nat) : List Nat :=
  (s.saved.filter fun e =>
    match s.life? e.2.team.life with | none => false | some f => f.part = part && f.ctx = ctx).map (·.1)

/-- What `ctxsave` refuses with (R442). -/
def saveRefusal (s : State) (part ctx : Nat) : Option Nat :=
  match s.part? part with
  | none => some 2
  | some p =>
    if decide (ctx < p.cfg.nctx) && s.ctxSaved p ctx then some 1
    else if !s.ctxValid p ctx then some 2
    else if s.ctxField p ctx 100 4 < (s.teamsOfCtx part ctx).length + (s.savedOfCtx part ctx).length then some 3
    else none

/-- STEPS 1 AND 2 OF R442: no record of the context is popped any more, and each of its teams from progress index
`from'` on is asked to leave (R258, R432). Teams count in the order of the table of resident teams; one below the
index leaves at its own SLICE_EXPIRY, since R433 names a `ctxsave` in progress there (log 52). -/
def State.beginSave (s : State) (part ctx from' : Nat) : State :=
  let s := s.updPart part fun p => p.updCtx ctx fun x => { x with noPop := true, saving := true }
  ((s.teamsOfCtx part ctx).drop from').foldl (fun s t => s.updTeam t fun x => x.request s.cyc) s

/-- An operation that answers a status at once. -/
def answerStatus (w : Who) (f : Fields) (n : Nat) : M Unit := do
  let pts ← ptsOf w.core
  let _ ← startOp w .engine ((destRefs w f.dst false).map (·.2)) (landings w f.dst false false fun _ => w64 n) none pts []
  pure ()

/-- `ctxsave` (R442). -/
def ctxsaveBody (w : Who) (f : Fields) : M Unit := do
  let a ← read1 w f.imm (srcRaw f.sa)
  let c := ((a w.low).setWidth 32).toNat
  let r ← look fun s => saveRefusal s w.part c
  let all ← look fun s => (s.teamsOfCtx w.part c).length
  match r with
  | some n => answerStatus w f n
  | none =>
    if w.pix ≠ 0 && all ≤ w.pix then answerStatus w f 0
    else do
      upd fun s => s.beginSave w.part c w.pix
      let pts ← ptsOf w.core
      let _ ← startOp w (.ctxsave c) ((destRefs w f.dst false).map (·.2)) (landings w f.dst false false fun _ => 0) none
        pts []
      pure ()

/-- A copy command resumed from the command save list (R202): its promise moves by the time it was saved. -/
def Cmd.resumed (c : Cmd) (now : Nat) : Cmd :=
  if c.st = .saved then
    { c with st := if c.form = .publish then .waiting else .queued, promise := c.promise + (now - c.savedAt) }
  else c

/-- A saved context resumed (R443): SAVED cleared, its commands and records go on, and its saved teams from progress
index `from'` on are released (R258). Teams count in the order of their numbers (log 52). -/
def State.loadCtx (s : State) (part : Nat) (p : Part) (ctx from' : Nat) : State :=
  let s := s.setSaved part p ctx false
  let kept := (s.savedOfCtx part ctx).take from'
  s.updPart part fun p =>
    { p.updCtx ctx (fun x => { x with noPop := false, saving := false, kept := kept }) with
      cmds := p.cmds.map fun x => if x.ctx = ctx then x.resumed s.cyc else x }

/-- `ctxload` (R443). A start from an index leaves the teams below it where they are (R258); one at or beyond the last
has nothing left to do. -/
def ctxloadBody (w : Who) (f : Fields) : M Unit := do
  let a ← read1 w f.imm (srcRaw f.sa)
  let c := ((a w.low).setWidth 32).toNat
  let p ← look fun s => s.part? w.part
  match p with
  | none => answerStatus w f 1
  | some p => do
    let held ← look fun s => decide (c < p.cfg.nctx) && s.ctxSaved p c
    let ok ← look fun s => s.ctxValid p c
    let all ← look fun s => (s.savedOfCtx w.part c).length
    if !held then answerStatus w f 1
    else if !ok then answerStatus w f 2
    else if w.pix ≠ 0 && all ≤ w.pix then answerStatus w f 0
    else do
      upd fun s => s.loadCtx w.part p c w.pix
      answerStatus w f 0

/-- TLB entries that `tlbinv` drops (R444). -/
def tlbDrops (scope ctx va : Nat) (e : TlbEnt) : Bool :=
  match scope with
  | 0 => e.ctx = ctx && decide (e.va ≤ va) && decide (va < e.va + e.size)
  | 1 => e.ctx = ctx
  | _ => true

/-- The cores of a partition from a progress index on. -/
def State.coresFrom (s : State) (part pix core : Nat) : Bool :=
  let size := ((s.part? part).map (·.size)).getD 1
  decide (32 * part + pix ≤ core) && decide (core < 32 * (part + size))

/-- Pages that TLBs about to be dropped hold as class 2 and that the tables give as class 2 no more. -/
def State.leftShared (s : State) (part pix scope ctx va : Nat) : List TlbEnt :=
  s.cores.flatMap fun (c : Nat × Core) =>
    if s.coresFrom part pix c.1 then
      c.2.tlb.filter fun e => tlbDrops scope ctx va e && decide (leafClass e.leaf = 2) &&
        (match s.walk part e.ctx e.va with
         | .leaf _ _ l => decide (leafClass l ≠ 2)
         | _ => true)
    else []

/-- THE RECORDS OF A LEAF WHOSE CLASS CHANGED applied (R407). The device meets a change that software has stored when
it drops the translation it held: DESIGN CHOICE (log 21), since a store to a table is not told from any other store. -/
def settleLeaves (part : Nat) (l : List TlbEnt) : M Unit := do
  let p ← look fun s => s.part? part
  match p with
  | none => pure ()
  | some p => each l fun e => do
    let rs ← look fun s => s.recordsIn part p (leafFrame e.leaf / e.size * e.size) e.size
    each rs fun r => settleRecord part r.1 r.2

/-- `tlbinv` (R444): the partition's cores from the progress index on. -/
def tlbinvBody (w : Who) (f : Fields) : M Unit := do
  let (a, b) ← read2 w f.imm (srcPair f.sa) (srcRaw f.sb)
  let va := (a w.low).toNat
  let x := ((b w.low).setWidth 32).toNat
  let scope := bitsN x 17 16
  if scope = 3 || decide (2 ^ 18 ≤ x) then pure ()
  else do
    let left ← look fun s => s.leftShared w.part w.pix scope (x % 65536) va
    settleLeaves w.part left
    upd fun s =>
      { s with cores := SMap.map s.cores fun c k =>
          if s.coresFrom w.part w.pix c then
            { k with tlb := k.tlb.filter fun e => !(tlbDrops scope (x % 65536) va e) }
          else k }
  let pts ← ptsOf w.core
  let _ ← startOp w .engine [] [] none pts []
  pure ()

/-! ## The start of the handler (R422) -/

/-- HANDLER_START (R422, R424): a free slot serves the next stopped team at its context's HENTRY; a slot whose handler
group has halted and stopped starts again at firmware level. -/
def handlerStart (c : Nat) : M Unit := upd fun s =>
  let k := s.core c
  match k.handler, k.stops with
  | none, t :: rest =>
    let s := s.updCore c fun k => { k with stops := rest }
    match s.team? t with
    | none => s
    | some x =>
      match s.life? x.life, x.fault with
      | some f, some r =>
        match s.part? f.part with
        | none => s
        | some p =>
          let pc := s.ctxField p f.ctx 64 8 % 2 ^ 56
          let (id, s) := s.fresh
          let (_, s) := s.fresh
          let h : Handler :=
            { gen := id, level := .handler, group := handlerGroup pc (w32 (x.token.getD 0)) r.word0, team := t, ctx := f.ctx,
              window := none, halt := none, below := none }
          s.updCore c fun k => { k with handler := some h }
      | _, _ => s
  | some _, _ => s.enterFirmware c
  | none, [] => s

/-- `trap` (R431). -/
def execTrap (f : Fields) (s : State) : Host.Outcome State Fault Refusal :=
  issue (.trap f) (trapBody) s

/-- `trapret` (R430). -/
def execTrapret (f : Fields) (s : State) : Host.Outcome State Fault Refusal :=
  issue (.trapret f) (trapretBody) s

/-- `hwin` (R425). -/
def execHwin (f : Fields) (s : State) : Host.Outcome State Fault Refusal :=
  issue (.hwin f) (hwinBody) s

/-- `hwrd` (R427). -/
def execHwrd (f : Fields) (s : State) : Host.Outcome State Fault Refusal :=
  issue (.hwrd f) (hwrdBody) s

/-- `hwwr` (R428). -/
def execHwwr (f : Fields) (s : State) : Host.Outcome State Fault Refusal :=
  issue (.hwwr f) (hwwrBody) s

/-- `dispose` (R429). -/
def execDispose (f : Fields) (s : State) : Host.Outcome State Fault Refusal :=
  issue (.dispose f) (disposeBody) s

/-- `ctxsave` (R442). -/
def execCtxsave (f : Fields) (s : State) : Host.Outcome State Fault Refusal :=
  issue (.ctxsave f) (ctxsaveBody) s

/-- `ctxload` (R443). -/
def execCtxload (f : Fields) (s : State) : Host.Outcome State Fault Refusal :=
  issue (.ctxload f) (ctxloadBody) s

/-- `tlbinv` (R444). -/
def execTlbinv (f : Fields) (s : State) : Host.Outcome State Fault Refusal :=
  issue (.tlbinv f) (tlbinvBody) s

/-- HANDLER_START (R422). -/
def execHandlerStart (core : Nat) (s : State) : Host.Outcome State Fault Refusal :=
  event (handlerStart core) s

end Sys2Proof.Machine
end

