-- ==== Sys2Proof/Machine/Preempt.lean ====
section
/-!
DEFINITION. Time slices and pre-emption (R433 to R436) and the end of a `ctxsave` (R202, R442).
-/

namespace Sys2Proof.Machine

open Config

/-! ## The request (R433) -/

/-- Whether a `ctxsave` of a life's context is in progress. -/
def State.saving (s : State) (life : Nat) : Bool :=
  match s.life? life with
  | none => false
  | some f => ((s.part? f.part).map fun p => (p.ctxSt f.ctx).saving).getD false

/-- Whether records wait for a core: in a priority queue of its partition or in its own (R433). -/
def State.recordsWait (s : State) (part core : Nat) : Bool :=
  ((s.part? part).map fun p => p.queue.any fun e => e.task.affin = 0 || e.task.affin = core + 1).getD false

/-- Whether a team is running toward a pre-emption, or halted by force for one (R434). -/
def Team.leaving (x : Team) : Bool :=
  match x.run with
  | .preempting _ => true
  | .halting => x.fault.isNone && x.ending.isNone
  | .running => false

/-- SLICE_EXPIRY (R433): the pre-emption request that a spent slice, a spent allowance, a `ctxsave` or a
team of the same cluster makes; a spent slice that makes none starts again. -/
def sliceExpiry (t : Nat) : M Unit := upd fun s =>
  match s.team? t with
  | none => s
  | some x =>
    if x.run ≠ .running || x.fault.isSome || x.ending.isSome then s
    else
      let part := ((s.life? x.life).map (·.part)).getD 0
      let mate : Bool := (s.mates t).any fun m => ((s.team? m).map Team.leaving).getD false
      if s.saving x.life || mate then s.updTeam t fun x => x.request s.cyc
      else if (x.slice = 0 && s.recordsWait part x.core) || x.allowOut then s.requestSave t
      else if x.slice = 0 then
        s.updTeam t fun x => { x with slice := ((s.part? part).map (·.cfg.tslice)).getD tslice }
      else s

/-- FORCED_SAVE_TIMEOUT (R434): 24,000 cycles after the request the agents are halted as by a fault. -/
def forcedSave (t : Nat) : M Unit := upd fun s =>
  match s.team? t with
  | none => s
  | some x =>
    match x.run with
    | .preempting since =>
      if s.cyc < since + forceLimit then s
      else s.updTeam t fun x =>
        let y := x.halted
        { y with groups := SMap.map y.groups fun _ g => { g with quads := g.quads.map fun q => { q with forced := true } } }
    | _ => s

/-! ## The save (R435) -/

/-- Whether a group stands for a pre-emption: no lane of it runs, or it stopped at a pre-emption
point. -/
def Group.stands (g : Group) : Bool := !g.live || g.noPath || g.atPoint

/-- Whether a team has stopped for a pre-emption, forced or not, or has only its operations to wait for
(R434). -/
def Team.stopped (x : Team) : Bool :=
  x.fault.isNone && x.quiet &&
    (match x.run with
     | .preempting _ => x.groups.all fun e => e.2.stands
     | .halting => x.ending.isNone || x.groupsOver
     | .running => x.ending.isSome)

/-- Whether a matrix command of a cluster's lives runs or waits (R325). -/
def State.matFlight (s : State) (lives : List Nat) : Bool :=
  s.cores.any fun e => e.2.mq.any fun c => lives.contains c.owner.life

/-- Whether a value on its way or a matrix command still concerns a cluster's lives (R325, R435). -/
def State.inFlight (s : State) (lives : List Nat) : Bool :=
  s.matFlight lives || s.cores.any fun e =>
    e.2.inflight.any fun x => lives.contains x.life || lives.contains x.entry.life

/-- The rows and tags of some banks of a core moved to banks of another: SRAM bytes, tags and poison by the
numbers of `from'` and `to'` in turn. -/
def Core.moveBanks (k dst : Core) (from' to' : List Nat) : Core :=
  (from'.zip to').foldl (fun d e =>
    let d := d.zeroBank e.2
    { d with
      sram := (SMap.range k.sram (32768 * e.1) (32768 * (e.1 + 1))).foldl
        (fun m (x : Nat × Byte) => SMap.put m (32768 * e.2 + (x.1 - 32768 * e.1)) x.2) d.sram
      stags := (SMap.range k.stags (512 * e.1) (512 * (e.1 + 1))).foldl
        (fun m (x : Nat × BitVec 16) => SMap.put m (512 * e.2 + (x.1 - 512 * e.1)) x.2) d.stags
      spois := ((k.spois.filter fun r => 512 * e.1 ≤ r && r < 512 * (e.1 + 1)).map fun r => 512 * e.2 + (r - 512 * e.1)).foldl
        insertNat d.spois }) dst

/-- A life's scratchpad moved to other banks of another core of the table. -/
def State.moveScratch (s : State) (life core : Nat) (bs : List Nat) : State :=
  match s.life? life with
  | none => s
  | some f =>
    let s := s.updCore core fun k => (s.core f.core).moveBanks k f.banks bs
    s.updLife life fun f => { f with core := core, banks := bs }

/-- One team written into a save slot (R435, R439): its number in the table of saved teams. -/
def State.saveTeam (s : State) (t slot tst : Nat) : Nat × State :=
  match s.team? t with
  | none => (0, s)
  | some x =>
    match s.life? x.life with
    | none => (0, s)
    | some f =>
      let k := s.core x.core
      let fs := k.fifos.filter fun e => e.2.owner = x.life
      let gs := k.gongs.filter fun e => e.2.holder = x.life
      let pts := maxN x.task.ts k.pts
      let x' := { x with task := { x.task with ts := pts } }
      let (id, s) := s.fresh
      let s := s.moveScratch x.life (slotCore x.life) (List.range f.banks.length)
      let s := s.updCore x.core fun k =>
        { k with fifos := k.fifos.filter fun e => e.2.owner ≠ x.life, gongs := k.gongs.filter fun e => e.2.holder ≠ x.life }
      let s := { s with saved := SMap.put s.saved id ⟨slot, tst, x', fs, gs, s.cyc⟩ }
      (id, (s.removeTeam t).storeImage id)

/-- What a save finds of the errors that wait in a team's registers, records and scratchpad rows (R473, R475): one that
cannot be corrected is ECCU after issue, which stops the team when it next runs (R417). -/
def saveMeets (t : Nat) : M Unit := do
  let it ← look fun s => (s.team? t).bind fun x => (s.life? x.life).map fun f => (x, f)
  match it with
  | none => pure ()
  | some (x, f) => do
    let src := (x.groups.head?.map (·.1)).getD 64
    let late (a : Nat) : M Unit := upd fun s => s.addLate t (eccuAt src a)
    let us ← look fun s => s.upsets
    each us fun u =>
      match u with
      | .row c r _ =>
        if c = x.core && f.banks.contains (r / 512) then do
          let bad ← meetRow f (rowAddr f r)
          if bad then late (rowAddr f r) else pure ()
        else pure ()
      | .reg _ _ | .record _ _ =>
        if u = .reg t true || u = .reg t false || u = .record x.life true || u = .record x.life false then do
          upd fun s => ({ s with upsets := s.upsets.filter (· ≠ u) }).regRec f.part x.core u
          if u.hard then late 0 else pure ()
        else pure ()
      | _ => pure ()

/-- Teams written into slots one after another, with their numbers. -/
def State.saveTeams (s : State) (tst : Nat) : List (Nat × Nat) → List Nat × State
  | [] => ([], s)
  | (t, slot) :: rest =>
    let (id, s) := (runD (saveMeets t) s).saveTeam t slot tst
    let (l, s) := s.saveTeams tst rest
    (id :: l, s)

/-- PREEMPT_SAVE (R435): once every team of the cluster has stopped, its first phase is pushed again where it
has not committed; otherwise its later phases that have not committed are pushed again, and its other teams are saved
and queued together; where no slot is free, all go on. -/
def preemptSave (t : Nat) : M Unit := upd fun s =>
  let ms := s.mates t
  let xs := ms.filterMap s.team?
  match xs.head?.bind fun x => s.life? x.life with
  | none => s
  | some f =>
    let lives := xs.map (·.life)
    if !(xs.all Team.stopped) || !(xs.any Team.leaving) || s.matFlight lives then s
    else
      match ms.find? fun m => ((s.team? m).map Team.reborn).getD false with
      | some m => s.rebirth m id
      | none =>
        if s.inFlight lives then s
        else
          let done := s.toSave ms
          let slots := s.saveSlots f.part f.ctx done.length
          let slice := ((s.part? f.part).map (·.cfg.tslice)).getD tslice
          if slots.length < done.length then
            ms.foldl (fun s m => (s.updTeam m fun x => { x with slice := slice, run := .halting }).resumeTeam m) s
          else
            let s := (ms.filter fun m => !done.contains m).foldl State.rephase s
            match done.head?.bind s.team? with
            | none => s
            | some x =>
              let (ids, s) := s.saveTeams (if s.saving x.life then 2 else 1) (done.zip slots)
              s.pushRec f.part f.ctx f.launch { x.task with affin := 0 } none ids

/-! ## The resumption (R436) -/

/-- A group that resumes after `d` cycles in a slot: what counts cycles goes on where it stood. -/
def Group.later (g : Group) (d : Nat) : Group :=
  { g with
    atPoint := false
    quads := g.quads.map fun q =>
      { q with forced := false, recs := q.recs.map fun r => { r with since := r.since + d } } }

/-- A saved team as it resumes on a core with a fresh slice (R436). -/
def Team.resumed (x : Team) (core slice allow d : Nat) : Team :=
  { x with core := core, slice := slice, allow := if x.allowOut then allow else x.allow, allowOut := false,
           run := .halting,
           groups := SMap.map x.groups fun _ g => g.later d,
           bins := SMap.map x.bins fun _ b => { b with since := b.since + d },
           front := { x.front with atPoint := false }, mseq := { x.mseq with atPoint := false },
           cseq := { x.cseq with atPoint := false } }

/-- FIFOs of a saved team placed on a core, under their numbers (R237, R435). -/
def Core.takeFifos (k : Core) (fs : SMap Fifo) (places : List (Nat × Nat)) : Core :=
  { k with fifos := (fs.zip places).foldl (fun m (e : (Nat × Fifo) × (Nat × Nat)) =>
      SMap.put m e.1.1 { e.1.2 with bank := e.2.1, base := e.2.2 }) k.fifos }

/-- Claims of a team's parked groups in the queues of its core (R380). -/
def State.requeueClaims (s : State) (t : Nat) (x : Team) : State :=
  (x.groups.filter fun e => e.2.park.isSome).foldl (fun s e =>
    s.updCore x.core fun k => k.setClaimq (e.1 % 2) (k.claimq (e.1 % 2) ++ [(t, e.1)])) s

/-- One saved team resident again on a core. -/
def resumeOne (part core k : Nat) (v : Saved) : M Unit := do
  let f ← look fun s => s.life? v.team.life
  match f with
  | none => pure ()
  | some f => do
    let free ← look fun s => s.freeBanks core
    let bs ← pickSome free f.banks.length
    raisePts core v.team.task.ts
    upd fun s =>
      let places := (placeFifos (s.core core) (s.core core).fifoRows (List.map (fun e => e.2.depth) v.fifos)).getD []
      let seat := s.freeSeat core
      let s := s.freshPaths v.team.core core
      let s := (s.moveScratch v.team.life core bs).updLife v.team.life fun f => { f with seat := seat }
      let s := { s with cores := SMap.del s.cores (slotCore v.team.life), saved := SMap.del s.saved k }
      let s := s.freeSlot part f.ctx v.slot
      let s := s.updCore core fun c =>
        { c.takeFifos v.fifos places with gongs := v.gongs.foldl (fun m e => SMap.put m e.1 e.2) c.gongs }
      let (t, s) := s.fresh
      let slice := ((s.part? part).map (·.cfg.tslice)).getD tslice
      let allow := (((s.launch? f.launch).bind (·.kernel)).map (·.allow)).getD 0
      let x := v.team.resumed core slice allow (s.cyc - v.savedAt)
      (({ s with teams := SMap.put s.teams t x }.requeueClaims t x).resumeTeam t).poolsChanged core

/-- TEAM_RESUME (R435, R436): a core pops the resume entry of a cluster that fits. -/
def teamResume (part core : Nat) : M Unit := do
  let e ← look fun s => s.popChoice part core
  match e with
  | none => pure ()
  | some e =>
    if e.resume.isEmpty then pure ()
    else do
      let l ← look fun s => (s.resumePlaces core e).getD []
      upd fun s => s.popEntry part e
      each l fun x => resumeOne part x.1 x.2.1 x.2.2

/-! ## The end of a ctxsave (R202, R442) -/

/-- An entry of the command save list (R202, R438): the record, the ticket in it, the progress index and the
promise. -/
def cmdImage (c : Cmd) : List Byte :=
  leBytesOf 5 0 ++ leBytesOf 1 c.cr.etype ++ leBytesOf 1 c.cr.kind ++ leBytesOf 1 (c.cr.ctl.toNat % 64) ++
  leBytesOf 4 0 ++ leBytesOf 4 c.ticket ++ leBytesOf 8 c.cr.addri ++
    leBytesOf 4 c.cr.dpitch ++ leBytesOf 4 c.cr.spitch ++ leBytesOf 4 c.cr.rows ++ leBytesOf 4 c.cr.len ++
    leBytesOf 8 c.cr.addrd ++ leBytesOf 8 c.cr.addrs ++ leBytesOf 8 c.cr.addrc ++ leBytesOf 8 c.done.length ++
    leBytesOf 8 c.promise ++ leBytesOf 48 0

/-- A context's copy commands stopped into its command save list (R202, R442 step 4). An entry outside the partition's
own HBM is not written (R15, log 46). -/
def State.saveCmds (s : State) (part ctx : Nat) : State :=
  match s.part? part with
  | none => s
  | some p =>
    let base := s.ctxField p ctx 112 8
    let l := p.cmds.filter fun c => c.ctx = ctx
    let s := ((List.range l.length).zip l).foldl (fun s e =>
      let a := base + 128 * e.1
      s.devPut part a (cmdImage e.2)) s
    s.updPart part fun p => { p with cmds := p.cmds.map fun c =>
      if c.ctx = ctx then { c with st := .saved, savedAt := s.cyc } else c }

/-- STEPS 4 AND 5 OF R442: the context's commands saved and SAVED set. -/
def State.endSave (s : State) (part : Nat) (p : Part) (ctx : Nat) : State :=
  let s := (s.saveCmds part ctx).setSaved part p ctx true
  s.updPart part fun p => p.updCtx ctx fun c => { c with saving := false }

/-- CTXSAVE_COMPLETE (R442): every team and command of the context is saved; SAVED is set. -/
def ctxsaveComplete (id : Nat) : M Unit := do
  let op ← look fun s => SMap.get? s.ops id
  match op with
  | none => pure ()
  | some op =>
    match op.kind with
    | .ctxsave ctx => do
      let part ← look fun s => (s.partOfCore op.owner.core).getD 0
      let busy ← look fun s =>
        !(s.teamsOfCtx part ctx).isEmpty || s.inFlight (s.ctxLives part ctx)
      let p ← look fun s => s.part? part
      match p with
      | none => pure ()
      | some p =>
        if busy then pure ()
        else upd fun s => (s.endSave part p ctx).finishOp id
    | _ => pure ()

/-- SLICE_EXPIRY (R433). -/
def execSliceExpiry (team : Nat) (s : State) : Host.Outcome State Fault Refusal :=
  event (sliceExpiry team) s

/-- PREEMPT_SAVE (R435). -/
def execPreemptSave (team : Nat) (s : State) : Host.Outcome State Fault Refusal :=
  event (preemptSave team) s

/-- FORCED_SAVE_TIMEOUT (R434). -/
def execForcedSaveTimeout (team : Nat) (s : State) : Host.Outcome State Fault Refusal :=
  event (forcedSave team) s

/-- TEAM_RESUME (R436). -/
def execTeamResume (part core : Nat) (s : State) : Host.Outcome State Fault Refusal :=
  event (teamResume part core) s

/-- CTXSAVE_COMPLETE (R442). -/
def execCtxsaveComplete (op : Nat) (s : State) : Host.Outcome State Fault Refusal :=
  event (ctxsaveComplete op) s

end Sys2Proof.Machine
end

