-- ==== Sys2Proof/Machine/Partition.lean ====
section
/-!
DEFINITION. A partition as its logical device shows it to the host's driver: PCFG (R457, R486), the
commands of PCMD (R459 to R461, R469), the BAR (R456), host submissions (R467) and free requests (R107,
R135, R464).
-/

namespace Sys2Proof.Machine

open Config

/-! ## PCFG (R457, R486) -/

/-- The driver's fields of PCFG: bytes 64 to 143 (R457). -/
def PCfg.driverBytes (c : PCfg) : List Byte :=
  leBytesOf 8 c.astab ++ leBytesOf 8 c.ctxtab ++ leBytesOf 4 c.nctx ++ leBytesOf 4 c.taskn ++ leBytesOf 8 c.taskarea ++
    leBytesOf 8 c.fpool ++ leBytesOf 4 c.fpooln ++ leBytesOf 4 c.repln ++ leBytesOf 8 c.resq ++ leBytesOf 4 c.resqn ++
    leBytesOf 4 c.tslice ++ leBytesOf 8 c.fentry ++ leBytesOf 8 c.dirtymap

/-- PCFG with the driver's fields read from their 80 bytes. -/
def PCfg.ofDriver (c : PCfg) (b : List Byte) : PCfg :=
  { c with astab := fieldOf b 0 8, ctxtab := fieldOf b 8 8, nctx := fieldOf b 16 4, taskn := fieldOf b 20 4,
           taskarea := fieldOf b 24 8, fpool := fieldOf b 32 8, fpooln := fieldOf b 40 4, repln := fieldOf b 44 4,
           resq := fieldOf b 48 8, resqn := fieldOf b 56 4, tslice := fieldOf b 60 4, fentry := fieldOf b 64 8,
           dirtymap := fieldOf b 72 8 }

/-- The fabric manager's fields of PCFG: bytes 0 to 63 (R457). -/
def PCfg.fmBytes (c : PCfg) (j0 size : Nat) : List Byte :=
  leBytesOf 6 0 ++ leBytesOf 1 j0 ++ leBytesOf 1 size ++ leBytesOf 28 0 ++ leBytesOf 2 c.qosCE ++ leBytesOf 2 c.qosHost ++
    leBytesOf 2 0 ++ leBytesOf 6 c.cemask.toNat ++ leBytesOf 8 c.hsize ++ leBytesOf 8 c.hbase

/-- Frames of a partition's stacks (R121). -/
def Part.frames (p : Part) : Nat := 2 * p.size * framesPerStack

/-- Bytes of the dirty map (R486). -/
def Part.mapBytes (p : Part) : Nat := ceilDiv p.frames 32768 * 4096

/-- The regions that PCFG names: alignment, address and length (R457, R486). -/
def Part.regions (p : Part) : List (Nat × Nat × Nat) :=
  [(16, p.cfg.astab, 16 * p.frames), (128, p.cfg.ctxtab, 128 * p.cfg.nctx), (4096, p.cfg.taskarea, 128 * p.cfg.taskn),
    (4096, p.cfg.resq, 32 * p.cfg.resqn), (65536, p.cfg.fpool, 65536 * p.cfg.fpooln), (4096, p.cfg.dirtymap, p.mapBytes)]

/-- Whether a number is one of the queue sizes of R457: a power of 2 from 16 to 65,536. -/
def isQueueSize (n : Nat) : Bool := (List.range 13).any fun i => n = 2 ^ (i + 4)

/-- Whether START accepts the driver's fields (R457, R486). -/
def Part.cfgOk (j : Nat) (p : Part) : Bool :=
  decide (12000 ≤ p.cfg.tslice) && isQueueSize p.cfg.resqn && decide (1024 ≤ p.cfg.taskn) &&
    decide (1 ≤ p.cfg.nctx) && decide (p.cfg.nctx ≤ 1024) &&
    p.regions.all fun e => decide (e.2.1 % e.1 = 0) && inPartHbm j p.size e.2.1 (maxN e.2.2 1)

/-- Whether a frame lies in a replica region (R457): the top REPLN whole frames of the odd stack of a
twelfth. -/
def Part.inReplica (p : Part) (frame : Nat) : Bool :=
  stackOf frame % 2 = 1 && decide (framesPerStack ≤ frame % stackStride / 65536 + p.cfg.repln)

/-! ## Commands (R459) -/

/-- A command refused (R459). -/
def State.refuseCmd (s : State) (j code : Nat) : State := s.updPart j fun p => { p with err := code }

/-- Vectors held during PSTATE 2 raised (R466). -/
def State.releaseVectors (s : State) (j : Nat) (l : List Nat) : State :=
  l.foldl (fun s v => s.vector j v) (s.updPart j fun p => { p with heldVec := [] })

/-- The partition set running (R459): the residency slots are unused (R458), what PCFG holds is
measurement 3 (R472). -/
def Part.started (p : Part) : Part :=
  { p with err := 0, clockout := false, fwfault := false, pstate := 1, measured := some p.cfg, resPos := 0,
           resUsed := [], resq := [] }

/-- START (R459). -/
def startPart (j : Nat) : M Unit := upd fun s =>
  match s.part? j with
  | none => s
  | some p =>
    if p.pstate ≠ 0 && p.pstate ≠ 3 then s.refuseCmd j 2
    else if !(p.cfgOk j) then s.refuseCmd j 1
    else
      let s := s.updPart j Part.started
      let s := { s with launches := SMap.map s.launches fun _ l => if l.part = j then { l with waiting := none } else l }
      let s :=
        if p.pstate = 3 then
          (List.range p.cfg.nctx).foldl (fun s c => if s.ctxValid p c && s.ctxSaved p c then s.loadCtx j p c 0 else s) s
        else s
      s.releaseVectors j p.heldVec

/-- STEP 2 of R460 for one context: as `ctxsave`, or, where that would be refused with status 3, the end of
its teams. -/
def stopContext (j ctx : Nat) : M Unit := do
  let r ← look fun s => saveRefusal s j ctx
  match r with
  | none => upd fun s => s.beginSave j ctx 0
  | some 3 => do
    let a ← drawAddr
    upd fun s => s.killTeams j ctx a
  | some _ => pure ()

/-- STOP (R460 steps 1 and 2). -/
def stopPart (j : Nat) : M Unit := do
  let p ← look fun s => s.part? j
  match p with
  | none => pure ()
  | some p =>
    if p.pstate ≠ 1 then upd fun s => s.refuseCmd j 2
    else do
      upd fun s => s.updPart j fun p => { p with pstate := 2 }
      each (List.range p.cfg.nctx) (stopContext j)

/-- Cores of a partition. -/
def ownCore (j size c : Nat) : Bool := decide (j ≤ c / 32) && decide (c / 32 < j + size)

/-- Whether a command waits to be saved with its context (R202). -/
def State.willSave (s : State) (j ctx : Nat) : Bool :=
  ((s.part? j).map fun p => (p.ctxSt ctx).saving || s.ctxSaved p ctx).getD false

/-- Whether an operation that is left at a STOP waits for nothing but commands that are saved (R460 step
3). -/
def State.opSaved (s : State) (j : Nat) (o : Op) : Bool :=
  !o.waits.isEmpty && o.waits.all fun x =>
    match x with
    | .cmd id => ((s.part? j).map fun p => p.cmds.any fun c => c.id = id && s.willSave j c.ctx).getD false
    | _ => false

/-- Whether steps 2 and 3 of R460 have finished. -/
def State.drained (s : State) (j : Nat) (p : Part) : Bool :=
  let lives := (s.lives.filter fun e => e.2.part = j).map (·.1)
  !(s.teams.any fun e => ownCore j p.size e.2.core) && !(s.cores.any fun e => ownCore j p.size e.1 && e.2.handler.isSome) &&
    !(s.inFlight lives) && p.resvs.isEmpty && (p.cmds.all fun c => s.willSave j c.ctx) &&
    (s.ops.all fun e => !(ownCore j p.size e.2.owner.core) || s.opSaved j e.2) &&
    !(s.launches.any fun e => e.2.part = j && e.2.st = .granted && !(s.launchBusy e.1 e.2))

/-- The dirty map written, bit n for frame n, and the bits cleared (R462). The host's copies of its lines
are taken back. -/
def State.writeDirtyMap (s : State) (j : Nat) (p : Part) : State :=
  let a := p.cfg.dirtymap
  let inMap (l : Nat) : Bool := decide (a / 64 ≤ l) && decide (l < (a + p.mapBytes) / 64)
  let held := s.hostHeld.filter inMap
  let s := { s with hostHeld := s.hostHeld.filter fun l => !(inMap l)
                    outbox := s.outbox ++ held.map Msg.backInv
                    mem := SMap.drop s.mem fun x => a ≤ x && x < a + p.mapBytes }
  let s := p.dirtyFrames.foldl (fun s f =>
    let n := frameIndex j (65536 * f)
    s.setByte (a + n / 8) (s.byte (a + n / 8) ||| BitVec.ofNat 8 (2 ^ (n % 8)))) s
  s.updPart j fun p => { p with dirtyFrames := [] }

/-- STOP_COMPLETE (R460 steps 3 to 5). -/
def stopComplete (j : Nat) : M Unit := upd fun s =>
  match s.part? j with
  | none => s
  | some p =>
    if p.pstate ≠ 2 || !(s.drained j p) then s
    else
      let s := (List.range p.cfg.nctx).foldl (fun s c => if (p.ctxSt c).saving then s.endSave j p c else s) s
      let s := s.writeBackAll6 j fun _ => true
      let p := (s.part? j).getD p
      ((s.writeDirtyMap j p).updPart j fun p => { p with pstate := 3 }).vector j 0

/-- RESET (R461); PSTATE 4 refuses it. -/
def resetPartition (j : Nat) : M Unit := upd fun s =>
  match s.part? j with
  | none => s
  | some p => if p.pstate = 4 then s.refuseCmd j 2 else s.resetPart j false false

/-- ROLLBACK (R459, R469). -/
def rollbackCmd (j ctx : Nat) : M Unit := do
  let p ← look fun s => s.part? j
  match p with
  | none => pure ()
  | some p => do
    let ck ← look fun s => decide (ctx < p.cfg.nctx) && s.ctxCkpt p ctx
    if p.pstate ≠ 1 then upd fun s => s.refuseCmd j 2
    else if !ck then upd fun s => s.refuseCmd j 3
    else rollbackContext j ctx

/-- CLEAR (R459). -/
def clearCmd (j : Nat) : M Unit := upd fun s => s.updPart j fun p => { p with suberr := false }

/-- A write of PCMD (R459): a command, or ERR 2. -/
def pcmdWrite (j : Nat) (v : Nat) : M Unit :=
  if v / 2 ^ 32 ≠ 0 || bitsN v 15 8 ≠ 0 then upd fun s => s.refuseCmd j 2
  else
    match v % 256 with
    | 1 => startPart j
    | 2 => stopPart j
    | 3 => resetPartition j
    | 4 => rollbackCmd j (bitsN v 31 16)
    | 5 => clearCmd j
    | _ => upd fun s => s.refuseCmd j 2

/-! ## Host submissions (R467) -/

/-- A submission or free request dropped: SUBERR, and vector 2 where it becomes 1 (R456, R464, R466,
R467). -/
def State.dropSubmission (s : State) (j : Nat) : State :=
  match s.part? j with
  | none => s
  | some p => if p.suberr then s else (s.updPart j fun p => { p with suberr := true }).vector j 2

/-- Whether LSUBDESC takes an address now (R467). -/
def State.takesLaunch (s : State) (p : Part) (va : Nat) : Bool :=
  let c := p.lsubctx.toNat
  p.pstate = 1 && decide (c < p.cfg.nctx) && s.ctxValid p c && !(s.ctxSaved p c) && va % 64 = 0 && decide (va < 2 ^ 56)

/-- The status record's leaf of a host submission, where R485 lets it be. -/
def State.hostStatus (s : State) (j ctx va : Nat) : Option Pin :=
  if va % 16 ≠ 0 then none
  else
    (s.pinAt j ctx va).filter fun p =>
      leafR p.leaf && leafW p.leaf && (leafClass p.leaf = 0 || leafClass p.leaf = 6) && !(leafS p.leaf) && !(leafSH p.leaf)

/-- LSUBDESC_WRITE (R467): the launch submitted with the host's clock, or dropped. -/
def lsubdescWrite (j size : Nat) (v : DWord) : M Unit := do
  let p ← look fun s => s.part? j
  match p with
  | none => pure ()
  | some p => do
    let ctx := p.lsubctx.toNat
    let va := v.toNat
    let ok ← look fun s => s.takesLaunch p va
    let drop : M Unit := upd fun s => s.dropSubmission j
    if size ≠ 8 || !ok then drop
    else do
      let h ← schedRead j ctx p.hostclk va 64
      match h with
      | none => drop
      | some (h, _, clk) => do
        let k := fieldOf h 7 1
        let r ← if k ≤ 16 then schedRead j ctx clk (va + 64) (24 * k) else pure (some ([], false, clk))
        let clk ← timedWalk j (match r with | some (_, _, clk) => clk | none => clk) ctx (fieldOf h 24 8)
        let pin ← look fun s => s.hostStatus j ctx (fieldOf h 24 8)
        match r, pin with
        | some (recs, _, _), some pin =>
          upd fun s => (s.updPart j fun p => { p with hostclk := maxN p.hostclk clk }).submit j ctx va none clk h recs pin
        | _, _ => drop

/-! ## Free requests (R464) -/

/-- FREEDESC_WRITE (R464). -/
def freedescWrite (j size : Nat) (v : DWord) : M Unit := upd fun s =>
  match s.part? j with
  | none => s
  | some p =>
    if size ≠ 8 || v.toNat % 32 ≠ 0 || !(inPartHbm j p.size v.toNat 32) then s.dropSubmission j
    else s.updPart j fun p => { p with freeq := p.freeq ++ [v.toNat] }

/-- The frames of a free request, ascending. -/
def State.requestFrames (s : State) (a : Nat) : List Nat :=
  (List.range (s.homeLe (a + 12) 4)).map fun i => s.homeLe (a + 16) 8 + 65536 * i

/-- Whether the device refuses a free request's frame (R464 step 1). -/
def Part.frameKept (j : Nat) (p : Part) (f : Nat) : Bool :=
  f % 65536 ≠ 0 || !(inPartHbm j p.size f 65536) || p.inReplica f ||
    p.regions.any fun e => e.2.2 ≠ 0 && overlaps e.2.1 e.2.2 f 65536

/-- The first granule of a pin that names a frame. -/
def Pin.granule (p : Pin) (frame : Nat) : Option Nat :=
  let base := leafFrame p.leaf / p.size * p.size
  if base ≤ frame && frame < base + p.size then some (p.va + (frame - base)) else none

/-- Pending launches of a partition whose walk has reached one of some frames, with the granule (R107). -/
def State.reached (s : State) (j : Nat) (fs : List Nat) : List (Nat × Nat) :=
  s.launches.filterMap fun e =>
    if e.2.part = j && e.2.st = .pending then
      (fs.findSome? fun f => e.2.pins.findSome? fun p => p.granule f).map fun g => (e.1, g)
    else none

/-- Whether a launch holds a leaf that names a frame (R107, R485). -/
def State.frameHeld (s : State) (j frame : Nat) : Bool :=
  s.launches.any fun e => e.2.part = j && (e.2.statusPin :: e.2.pins).any fun p => (p.granule frame).isSome

/-- STATUS of a free request written. -/
def writeFreeStatus (j a st : Nat) : M Unit := do
  let clk ← look fun s => ((s.part? j).map (·.hostclk)).getD 0
  let _ ← placeWrite j clk (32 * j) none a (leBytesOf 4 st)
  pure ()

/-- The FREE of a request begun (R107): launches whose walk has reached a frame are refused, and those
still to walk will be. -/
def beginFree (j : Nat) (fs : List Nat) : M Unit := do
  upd fun s =>
    let s := s.updPart j fun p => { p with freeing := some 0 }
    { s with launches := SMap.map s.launches fun _ l =>
        if l.part = j && l.st = .pending then { l with freed := fs.foldl insertNat l.freed } else l }
  let gone ← look fun s => s.reached j fs
  each gone fun e => refuseLaunch e.1 0x16 e.2

/-- One frame freed, once nothing holds it and its appends have settled (R107, R135, R463, R464 step 2). -/
def freeFrame (j : Nat) (p : Part) (n frame : Nat) : M Unit := do
  let held ← look fun s => s.frameHeld j frame
  let r ← look fun s => s.frameRec j frame
  if held || (r.st ≠ 3 && r.settled ≠ r.tail) then pure ()
  else do
    let l ← look fun s => s.recordsIn j p frame 65536
    each l fun e => settleRecord j e.1 e.2
    scrubFrame j frame
    upd fun s => s.updPart j fun p => { p with freeing := some (n + 1) }

/-- FREE_SERVE (R464): the next step of the request at the head of the queue. -/
def freeServe (j : Nat) : M Unit := do
  let p ← look fun s => s.part? j
  match p with
  | none => pure ()
  | some p =>
    match p.freeq with
    | [] => pure ()
    | a :: rest =>
      if p.pstate = 4 then pure ()
      else do
        let fs ← look fun s => s.requestFrames a
        let next : M Unit := upd fun s => s.updPart j fun p => { p with freeq := rest, freeing := none }
        match p.freeing with
        | none =>
          if fs.any fun f => p.frameKept j f then do
            writeFreeStatus j a 2
            next
          else beginFree j fs
        | some n =>
          match fs[n]? with
          | some f => freeFrame j p n f
          | none => do
            writeFreeStatus j a 1
            next
            upd fun s => (s.updPart j fun p => { p with freedone := p.freedone + 1 }).vector j 4

/-! ## The BAR (R456) -/

/-- Bytes written over a run that starts at an offset: those of `b` that fall in it. -/
def overwrite (old : List Byte) (base off : Nat) (b : List Byte) : List Byte :=
  (List.range old.length).map fun i =>
    if off ≤ base + i && base + i < off + b.length then b.getD (base + i - off) 0 else old.getD i 0

/-- A write into PCFG (R456): the driver's fields in PSTATE 0 or 3. -/
def Part.writeCfg (p : Part) (off : Nat) (b : List Byte) : Part :=
  if p.pstate = 0 || p.pstate = 3 then { p with cfg := p.cfg.ofDriver (overwrite p.cfg.driverBytes 64 off b) } else p

/-- The bytes of LSUBCTX that a write covers (R456). -/
def Part.writeLsubctx (p : Part) (off : Nat) (b : List Byte) : Part :=
  { p with lsubctx := w32 (leOf (overwrite (leBytesOf 4 p.lsubctx.toNat) 0x200 off b)) }

/-- REGISTER_WRITE (R456). Bytes of a write that fall at offsets which the map does not list are ignored. -/
def registerWrite (j off size : Nat) (v : DWord) : M Unit :=
  let b := leBytesOf size v.toNat
  let meets (r : Nat) : Bool := overlaps r 8 off size
  let whole (r : Nat) : Bool := decide (off = r) && decide (size = 8)
  if size = 0 || 8 < size then pure ()
  else if off < 0x100 then upd fun s => s.updPart j fun p => p.writeCfg off b
  else if whole 0x108 then pcmdWrite j v.toNat
  else if whole 0x208 then lsubdescWrite j size v
  else if whole 0x210 then freedescWrite j size v
  else if meets 0x108 then upd fun s => s.refuseCmd j 2
  else if meets 0x208 || meets 0x210 then upd fun s => (s.updPart j fun p => p.writeLsubctx off b).dropSubmission j
  else if overlaps 0x200 4 off size then upd fun s => s.updPart j fun p => p.writeLsubctx off b
  else pure ()

/-- PSTATUS (R459). -/
def Part.statusWord (p : Part) : Nat :=
  256 * p.err + (if p.fwfault then 64 else 0) + (if p.clockout then 32 else 0) + (if p.suberr then 16 else 0) + p.pstate

/-- The readable registers of a partition's BAR but for its core counters: offset and bytes (R456). -/
def Part.bar (p : Part) (j : Nat) : List (Nat × List Byte) :=
  [(0, p.cfg.fmBytes j p.size ++ p.cfg.driverBytes), (0x100, leBytesOf 8 p.statusWord),
    (0x200, leBytesOf 4 p.lsubctx.toNat), (0x218, leBytesOf 8 p.freedone.toNat),
    (0x400, p.peers.flatMap fun e => leBytesOf 8 e.toNat), (0x1000, leBytesOf 8 p.clkmax),
    (0x1008, leBytesOf 8 p.xpprobe.toNat), (0x1010, leBytesOf 8 p.latecmd.toNat), (0x1018, leBytesOf 8 p.dropspec.toNat)]

/-- The 32 bytes of a core's counters in the BAR (R354, R456). -/
def Core.counterBytes (k : Core) : List Byte :=
  leBytesOf 8 k.solocyc.toNat ++ leBytesOf 8 k.ifstall0.toNat ++ leBytesOf 8 k.ifstall1.toNat ++ leBytesOf 8 k.ifstall2.toNat

/-- A byte that the host reads from a partition's BAR; zero at an offset that the map does not list, and of a
register that is written only (R456). The read changes nothing, so no event stands for it. -/
def State.barRead (s : State) (j off : Nat) : Byte :=
  match s.part? j with
  | none => 0
  | some p =>
    if 0x2000 ≤ off then
      let c := (off - 0x2000) / 32
      if c < 32 * p.size then (s.core (32 * j + c)).counterBytes.getD (off % 32) 0 else 0
    else
      (((p.bar j).find? fun e => e.1 ≤ off && off < e.1 + e.2.length).map fun e => e.2.getD (off - e.1) 0).getD 0

/-- START (R459). -/
def execStartPart (part : Nat) (s : State) : Host.Outcome State Fault Refusal := event (startPart part) s

/-- STOP (R460). -/
def execStopPart (part : Nat) (s : State) : Host.Outcome State Fault Refusal := event (stopPart part) s

/-- STOP_COMPLETE (R460). -/
def execStopComplete (part : Nat) (s : State) : Host.Outcome State Fault Refusal := event (stopComplete part) s

/-- RESET (R461). -/
def execResetPart (part : Nat) (s : State) : Host.Outcome State Fault Refusal := event (resetPartition part) s

/-- ROLLBACK (R469). -/
def execRollback (part ctx : Nat) (s : State) : Host.Outcome State Fault Refusal := event (rollbackCmd part ctx) s

/-- CLEAR (R459). -/
def execClearErr (part : Nat) (s : State) : Host.Outcome State Fault Refusal := event (clearCmd part) s

/-- LSUBDESC_WRITE (R467). -/
def execLsubdescWrite (part size : Nat) (value : DWord) (s : State) : Host.Outcome State Fault Refusal :=
  event (lsubdescWrite part size value) s

/-- FREEDESC_WRITE (R464). -/
def execFreedescWrite (part size : Nat) (value : DWord) (s : State) : Host.Outcome State Fault Refusal :=
  event (freedescWrite part size value) s

/-- FREE_SERVE (R464). -/
def execFreeServe (part : Nat) (s : State) : Host.Outcome State Fault Refusal := event (freeServe part) s

/-- REGISTER_WRITE (R456). -/
def execRegisterWrite (part offset size : Nat) (value : DWord) (s : State) : Host.Outcome State Fault Refusal :=
  event (registerWrite part offset size value) s

end Sys2Proof.Machine
end

