-- ==== Sys2Proof/Machine/Manage.lean ====
section
/-!
DEFINITION. The fabric manager and the management processor: ASSIGN (R452 to R455), attestation and
firmware (R472), ERRLOG (R479), the patrol scrub (R474), die failure (R480), freeze and the debug port
(R481, R482), power-on (R483).
-/

namespace Sys2Proof.Machine

open Config

/-! ## ASSIGN (R452 to R455) -/

/-- The legal first twelfths of a size (R452). -/
def legalRun (j size : Nat) : Bool :=
  (size = 1 || size = 2 || size = 3 || size = 4 || size = 6 || size = 12) && j % size = 0 && decide (j + size ≤ 12)

/-- A partition's twelfths and units as an ASSIGN leaves them. -/
structure Plan where
  j0 : Nat
  size : Nat
  units : BitVec 48
  deriving DecidableEq, Repr

/-- The twelfths of a plan. -/
def Plan.twelfths (a : Plan) : List Nat := (List.range a.size).map (· + a.j0)

/-- The partitions that an ASSIGN leaves (R455): those that it names, and the others without the units that
it gives away. -/
def State.plans (s : State) (l : List AssignPart) : List Plan :=
  let given : BitVec 48 := (l.filter fun a => a.size ≠ 0).foldl (fun m a => m ||| a.units) 0
  (l.filter fun a => a.size ≠ 0).map (fun a => ⟨a.j0, a.size, a.units⟩) ++
    (s.parts.filter fun e => !(l.any fun a => a.j0 = e.1)).map fun e => ⟨e.1, e.2.size, e.2.cfg.cemask &&& ~~~given⟩

/-- Whether the fields of the fabric manager keep the limits of R457. -/
def AssignPart.fieldsOk (a : AssignPart) : Bool :=
  a.size = 0 ||
    (a.hbase.toNat % 2097152 = 0 && a.hsize.toNat % 2097152 = 0 && decide (a.hsize.toNat ≤ 2 ^ 50) &&
      decide (1 ≤ a.qosHost.toNat) && decide (a.qosHost.toNat ≤ 255) && decide (1 ≤ a.qosCE.toNat) &&
      decide (a.qosCE.toNat ≤ 255) && decide (a.peers.length ≤ 16))

/-- Whether two plans share a twelfth or a unit (R452, R453). -/
def Plan.clashes (a b : Plan) : Bool := overlaps a.j0 a.size b.j0 b.size || a.units &&& b.units ≠ 0

/-- Whether no plan of a list clashes with a later one. -/
def noClash : List Plan → Bool
  | [] => true
  | a :: rest => !(rest.any a.clashes) && noClash rest

/-- Whether every partition whose twelfths or units change is in PSTATE 0 (R455). -/
def State.changesOk (s : State) (ps : List Plan) : Bool :=
  s.parts.all fun e =>
    e.2.pstate = 0 || ps.any fun a => a.j0 = e.1 && a.size = e.2.size && a.units = e.2.cfg.cemask

/-- Whether an ASSIGN is taken (R452, R453, R455). -/
def State.assignOk (s : State) (l : List AssignPart) : Bool :=
  let ps := s.plans l
  decide (l.map (·.j0)).Nodup && l.all AssignPart.fieldsOk && (ps.all fun a => legalRun a.j0 a.size && a.units ≠ 0) &&
    noClash ps && s.changesOk ps

/-- The first twelfth of the partition that a twelfth belongs to among some plans. -/
def planOf (ps : List Plan) (t : Nat) : Option Nat := (ps.find? fun a => a.j0 ≤ t && t < a.j0 + a.size).map (·.j0)

/-- A twelfth that leaves or joins a partition (R455): its stacks scrubbed, its slices and cores at reset. -/
def State.clearTwelfth (s : State) (t : Nat) : State :=
  let mem (a : Nat) : Bool := decide (isHbm a) && a / stackStride / 2 = t
  let line (l : Nat) : Bool := mem (64 * l)
  let held := s.hostHeld.filter line
  { s with
    mem := SMap.drop s.mem mem
    tags := SMap.drop s.tags line
    poison := s.poison.filter fun l => !(line l)
    upsets := s.upsets.filter fun u =>
      match u with
      | .block l _ | .l2 l _ | .dir l => !(line l)
      | .row c _ _ => decide (c / coresPerTwelfth ≠ t)
      | .copy c _ | .code c _ | .leaf c _ => decide (c / coresPerTwelfth ≠ t)
      | .shared t' _ => decide (t' ≠ t)
      | .reg _ _ | .record _ _ | .hub => true
    lines := s.lines.filter fun e => !(line e.1)
    hostHeld := s.hostHeld.filter fun l => !(line l)
    outbox := s.outbox ++ held.map Msg.backInv
    slices := SMap.map s.slices fun k x =>
      if twelfthOfSlice k = t then { Slice.init with quarantined := x.quarantined } else x
    cores := s.cores.filter fun e => decide (e.1 / coresPerTwelfth ≠ t) || decide (384 ≤ e.1) }

/-- The class 6 lines of a partition given back to the host: dirty ones written to its memory, none kept. -/
def State.returnHostLines (s : State) (j : Nat) : State :=
  match s.part? j with
  | none => s
  | some p =>
    let mine (k : Nat) : Bool := decide (k / 2 ^ 64 = j)
    let s := s.writeBackAll6 j fun _ => true
    let s := (s.hlc.filter fun e => mine e.1).foldl (fun s e =>
      match e.2 with
      | (.m, d) =>
        if s.hlcPoison.contains e.1 then s else s.setBytes (hostMem (hostAddr p (64 * (e.1 % 2 ^ 64)))) d
      | _ => s) s
    { s with hlc := s.hlc.filter fun e => !(mine e.1), home6 := s.home6.filter fun e => !(mine e.1),
             hlcPoison := s.hlcPoison.filter fun k => !(mine k) }

/-- Twelfths of a failed die (R480). -/
def State.deadTwelfth (s : State) (t : Nat) : Bool := s.deadDies.contains (t / 2)

/-- An entry of the peer aperture table with its reserved bits zero, as the device holds it (R5, R471). -/
def peerEntry (e : DWord) : DWord := e &&& 0x8FFFFFFF00000F00

/-- A partition with the fields that an ASSIGN gives it. -/
def Part.assigned (p : Part) (a : AssignPart) : Part :=
  { p with size := a.size
           cfg := { p.cfg with hbase := a.hbase.toNat, hsize := a.hsize.toNat, cemask := a.units,
                               qosHost := a.qosHost.toNat, qosCE := a.qosCE.toNat }
           peers := (a.peers.map peerEntry ++ List.replicate 16 0).take 16 }

/-- One partition as an ASSIGN gives it; one that holds a twelfth of a failed die stays in PSTATE 4 (R480,
R483). -/
def State.assignOne (s : State) (a : AssignPart) : State :=
  if a.size = 0 then { s.returnHostLines a.j0 with parts := SMap.del s.parts a.j0 }
  else
    let old := (s.part? a.j0).getD (Part.blank a.size)
    let moved : Bool := old.cfg.hbase ≠ a.hbase.toNat || old.cfg.hsize ≠ a.hsize.toNat
    let s := if moved then s.returnHostLines a.j0 else s
    let p := old.assigned a
    let dead : Bool := (List.range a.size).any fun i => s.deadTwelfth (a.j0 + i)
    { s with parts := SMap.put s.parts a.j0 (if dead then { p with lost := true, pstate := 4 } else p) }

/-- The append records of a twelfth's frames at STATE 3, zero elsewhere, as a scrub leaves them (R463). -/
def State.scrubRecords (s : State) (j t : Nat) : State :=
  match s.part? j with
  | none => s
  | some p => (List.range (2 * framesPerStack)).foldl (fun s i => s.setAppendRec j p (frameOfIndex t i) ⟨0, 0, 0, 3, true⟩) s

/-- The records of a twelfth that joins a partition. DESIGN CHOICE (log 55): those of a partition that no START has
set up yet are the driver's to write (R484 step 4), since no ASTAB stands for them. -/
def State.joinRecords (s : State) (ps : List Plan) (t : Nat) : State :=
  match planOf ps t with
  | none => s
  | some j => if ((s.part? j).bind (·.measured)).isSome then s.scrubRecords j t else s

/-- ASSIGN (R455): refused without effect, or done. -/
def assign (l : List AssignPart) : M Unit := upd fun s =>
  if !(s.assignOk l) then s.send (.fm false)
  else
    let ps := s.plans l
    let now := List.map (fun e : Nat × Part => (⟨e.1, e.2.size, 0⟩ : Plan)) s.parts
    let moved := (List.range twelfths).filter fun t => planOf now t ≠ planOf ps t
    let s := l.foldl State.assignOne s
    let s := { s with tokenWindow := false
                      parts := SMap.map s.parts fun j p =>
                        match ps.find? fun a => a.j0 = j with
                        | none => p
                        | some a => { p with cfg := { p.cfg with cemask := a.units } } }
    (moved.foldl (fun s t => s.joinRecords ps t) (moved.foldl State.clearTwelfth s)).send (.fm true)

/-! ## Attestation and firmware (R472) -/

/-- Whether a logical device exists: the fabric manager's, or a partition's (R454). -/
def State.hasLd (s : State) (ld : Option Nat) : Bool :=
  match ld with
  | none => true
  | some j => (s.part? j).isSome

/-- The number of a logical device for the free values of an answer: 0 for the fabric manager's. -/
def ldNum (ld : Option Nat) : Nat := match ld with | none => 0 | some j => j + 1

/-- An answer of the DOE mailbox of a logical device, where it exists. -/
def spdmAnswer (ld : Option Nat) (code : Nat) (fields : State → List Nat) : M Unit := upd fun s =>
  if s.hasLd ld then s.send (.spdm ld code (fields s)) else s

/-- GET_VERSION: SPDM 1.2 (R472). -/
def getVersion (ld : Option Nat) : M Unit := spdmAnswer ld 0x04 fun _ => [0x12]

/-- GET_CAPABILITIES; the capabilities are FREE VALUES (R472). -/
def getCapabilities (ld : Option Nat) : M Unit := spdmAnswer ld 0x61 fun _ => [attest 0 (ldNum ld) 0]

/-- NEGOTIATE_ALGORITHMS: SHA-384 and ECDSA on the 384-bit Brainpool curve in its untwisted form as an
extended asymmetric algorithm (R472); its number in the message is a FREE VALUE. -/
def negotiateAlgorithms (ld : Option Nat) : M Unit := spdmAnswer ld 0x63 fun _ => [384, attest 1 (ldNum ld) 0]

/-- GET_DIGESTS (R472): the digest of the certificate chain, a FREE VALUE. -/
def getDigests (ld : Option Nat) : M Unit := spdmAnswer ld 0x01 fun _ => [attest 2 (ldNum ld) 0]

/-- GET_CERTIFICATE (R472): the chain from the identity certificate to the device root, FREE VALUES. -/
def getCertificate (ld : Option Nat) : M Unit :=
  spdmAnswer ld 0x02 fun _ => [attest 3 (ldNum ld) 0, attest 3 (ldNum ld) 1]

/-- CHALLENGE (R472): the chain's digest, the nonce and a signature over them. -/
def challenge (ld : Option Nat) (nonce : Nat) : M Unit :=
  spdmAnswer ld 0x03 fun _ => [attest 2 (ldNum ld) 0, nonce, attest 4 (ldNum ld) nonce]

/-- A measurement of a logical device (R472): the firmware, what the fabric manager set, what the driver set
at the last START. -/
def State.measurement (s : State) (ld : Option Nat) (index : Nat) : List Nat :=
  let p := ld.bind s.part?
  match index with
  | 1 => [s.fwImage]
  | 2 => match p, ld with
    | some p, some j => List.map BitVec.toNat (p.cfg.fmBytes j p.size) ++ List.map BitVec.toNat p.peers
    | _, _ => []
  | 3 => ((p.bind (·.measured)).map fun c => List.map BitVec.toNat c.driverBytes).getD []
  | _ => []

/-- GET_MEASUREMENTS (R472): the number of measurements for index 0, one of them, or all of them; signed. -/
def getMeasurements (ld : Option Nat) (index nonce : Nat) : M Unit :=
  spdmAnswer ld 0x60 fun s =>
    [index, nonce, attest 5 (ldNum ld) nonce] ++
      (if index = 0 then [3]
       else if index = 255 then s.measurement ld 1 ++ s.measurement ld 2 ++ s.measurement ld 3
       else s.measurement ld index)

/-- Whether the management processor runs an image: its signature verifies and its security version is not below the
fused minimum (R472). -/
def fwRuns (digest sig version least : Nat) : Bool := sigVerifies digest sig && decide (least ≤ version)

/-- FIRMWARE_IMAGE_LOAD (R472): run where its signature verifies and its security version is not below the
fused minimum; refused otherwise. -/
def firmwareLoad (digest sig version : Nat) : M Unit := upd fun s =>
  if fwRuns digest sig version s.fwMin then
    { s with fwImage := digest, fwSig := sig, fwVer := version }.send (.firmware true)
  else s.send (.firmware false)

/-! ## Error records (R479) -/

/-- The answer of an error ring from a sequence number: at most 32 records, the first with the records lost. -/
def ErrRing.answer (r : ErrRing) (seq : Nat) : List (ErrRec × Nat) :=
  let l := (r.recs.filter fun e => seq ≤ e.seq).take 32
  (List.range l.length).zip l |>.map fun e => (e.2, if e.1 = 0 then r.lost else 0)

/-- A ring that has been read. -/
def ErrRing.wasRead (r : ErrRing) : ErrRing := { r with lost := 0 }

/-- ERRLOG (R479). -/
def errlog (ld : Option Nat) (seq : Nat) : M Unit := upd fun s =>
  match ld with
  | none => { s with fmErrs := s.fmErrs.wasRead }.send (.errlog none (s.fmErrs.answer seq))
  | some j =>
    match s.part? j with
    | none => s
    | some p => (s.updPart j fun p => { p with errs := p.errs.wasRead }).send (.errlog (some j) (p.errs.answer seq))

/-! ## Patrol scrub (R474) -/

/-- PATROL_SCRUB (R474): the errors that wait in a stack's blocks are met; nothing else changes. -/
def patrolScrub (stack : Nat) : M Unit := upd fun s =>
  let here := s.upsets.filter fun u => match u with | .block l _ => decide (stackOf (64 * l) = stack) | _ => false
  here.foldl (fun s u =>
    match u with
    | .block l true => s.corrected (s.partOfLine l) l
    | .block l false => s.poisonBlock (s.partOfLine l) l
    | _ => s) { s with upsets := s.upsets.filter fun u => !(here.contains u) }

/-! ## Die failure (R480) -/

/-- Class 6 lines of a partition whose home slices lie on a failed die: gone at home, poisoned in the
host-line cache. -/
def State.loseHostLines (s : State) (j size die : Nat) : State :=
  let gone (k : Nat) : Bool := decide (k / 2 ^ 64 = j) && homeSlice j size (k % 2 ^ 64) / 256 = die
  { s with home6 := s.home6.filter fun e => !(gone e.1)
           hlcPoison := ((s.hlc.filter fun e => gone e.1).map (·.1)).foldl insertNat s.hlcPoison }

/-- A partition that has lost a die (R480): stopped as under R461, in PSTATE 4 until the next power-on. -/
def State.losePart (s : State) (j size die : Nat) : State :=
  let s := (s.loseHostLines j size die).updPart j fun p => { p with lost := true }
  (s.resetPart j false false).errRec (some j) 9 5 0 die none

/-- DIE_FAILURE (R480). -/
def dieFailure (die : Nat) : M Unit := upd fun s =>
  if s.deadDies.contains die || 6 ≤ die then s
  else
    let hit := s.parts.filter fun e => e.1 < 2 * die + 2 && 2 * die < e.1 + e.2.size
    let s := { s with deadDies := insertNat s.deadDies die }
    if hit.isEmpty then s.errRec none 9 5 0 die none
    else hit.foldl (fun s e => s.losePart e.1 e.2.size die) s

/-! ## Freeze (R481, R482) -/

/-- DEBUG_TOKEN (R482): a signed token with the module's identity in it opens the instrument network, until the first
ASSIGN after power-on. -/
def debugToken (digest sig : Nat) : M Unit := upd fun s =>
  if s.tokenWindow && sigVerifies digest sig && tokenNamesModule digest then { s with debugOpen := true } else s

/-- A number of a Bool. -/
def boolNum (b : Bool) : Nat := if b then 1 else 0

/-- CORESTATE of a core (R482): every resident team in the layout of a save slot, as offsets and bytes. -/
def State.coreState (s : State) (c : Nat) : List Nat :=
  (s.teamsOn c).flatMap fun e =>
    match s.life? e.2.life with
    | none => []
    | some f =>
      let k := s.core c
      let l := imagePieces s 0 e.2 f (k.fifos.filter fun q => q.2.owner = e.2.life)
        (k.gongs.filter fun g => g.2.holder = e.2.life) c s.cyc
      l.flatMap fun x => x.1 :: x.2.length :: List.map BitVec.toNat x.2

/-- The lines that a slice homes for its partition, those of class 6 by their keys (R161, R482). -/
def State.sliceLines (s : State) (h : Nat) : SMap LineSt × SMap Home6 :=
  match s.partOfTwelfth (twelfthOfSlice h) with
  | none => ([], [])
  | some j =>
    let size := ((s.part? j).map (·.size)).getD 1
    (s.lines.filter fun e => homedAt j size h e.1,
     s.home6.filter fun e => decide (e.1 / 2 ^ 64 = j) && decide (homeSlice j size (e.1 % 2 ^ 64) = h))

/-- HOMESTATE of an L2 slice (R482): bases, line state with tags and context tags, directory entries. -/
def State.homeState (s : State) (h : Nat) : List Nat :=
  let sl := s.slice h
  let (mine, six) := s.sliceLines h
  [sl.base0.toNat, sl.base1.toNat, sl.cb.toNat] ++
    (mine.flatMap fun e => [e.1, (s.tag e.1).toNat, e.2.e.toNat, e.2.wts.toNat, e.2.rts.toNat, e.2.lam.toNat,
      (e.2.dirty.map (· + 1)).getD 0]) ++
    (six.flatMap fun e => [e.1 % 2 ^ 64, e.2.dirty.length] ++ e.2.dirty) ++
    (sl.regions.flatMap fun r => [r.tag, boolNum r.grain, r.dlo, r.dhi, r.ylo, r.yhi, r.xlo, r.xhi, r.nhold]) ++
    sl.lineEnts.flatMap fun e => e.1 :: e.2

/-- HUBSTATE of a partition (R482): copy commands with tickets and progress, task queues, the walker. -/
def State.hubState (s : State) (j : Nat) : List Nat :=
  match s.part? j with
  | none => []
  | some p =>
    (p.cmds.flatMap fun c => [c.ctx, c.ticket, c.done.length]) ++
      (p.queue.flatMap fun e => [e.queue.1, e.queue.2, e.ctx, e.order]) ++ [p.walker]

/-- A record as numbers. -/
def ErrRec.nums (e : ErrRec) : List Nat := [e.time, e.paddr, e.seq, e.ctx, e.unit, e.part, e.array, e.kind]

/-- ERRSTATE (R482): the error rings, the corrected-error table, the retired list. -/
def State.errState (s : State) : List Nat :=
  (s.fmErrs.recs.flatMap ErrRec.nums) ++ (s.parts.flatMap fun e => e.2.errs.recs.flatMap ErrRec.nums) ++
    (s.corrErr.flatMap fun e => e.1 :: e.2) ++ s.retired

/-- What an instrument shows (R482). -/
def State.instrument (s : State) (i : Instrument) (arg : Nat) : List Nat :=
  match i with
  | .ident => [attest 2 0 0, s.fwMin]
  | .frzstat => [s.frzCyc, s.frzSrc]
  | .corestate => s.coreState arg
  | .homestate => s.homeState arg
  | .hubstate => s.hubState arg
  | .errstate => s.errState

/-- Whether the debug port reads an instrument: FRZSTAT and IDENT always, the others with a token. -/
def State.readable (s : State) (i : Instrument) : Bool :=
  match i with
  | .ident | .frzstat => true
  | _ => s.debugOpen

/-- INSTRUMENT_READ (R482): while the module is frozen; no architectural state changes. -/
def instrumentRead (i : Instrument) (arg : Nat) : M Unit := upd fun s =>
  if s.frozen && s.readable i then s.send (.instrument i (s.instrument i arg)) else s

/-! ## Power-on (R483) -/

/-- POWER_ON (R483): the firmware verified, every stack zero, no partition; what the nonvolatile store and the fuses
hold stays, and so does the host's memory. A die that fails its training is failed. An image that fails the test is
reported and stays the running one, as R472 says of a refusal (DESIGN CHOICE, log 55). -/
def powerOn (untrained : List Nat) : M Unit := upd fun s =>
  let dead := (untrained.filter fun d => decide (d < 6)).foldl insertNat []
  let t : State :=
    { State.reset with
      mem := s.mem.filter fun e => decide (2 ^ 52 ≤ e.1)
      retired := s.retired, corrErr := s.corrErr, rtc := s.rtc, fwImage := s.fwImage, fwSig := s.fwSig, fwVer := s.fwVer,
      fwMin := s.fwMin
      deadDies := dead, outbox := s.outbox, agenda := s.agenda, free := s.free, serial := s.serial }
  let t := t.send (.firmware (fwRuns s.fwImage s.fwSig s.fwVer s.fwMin))
  dead.foldl (fun t d => t.errRec none 9 5 0 d none) t

/-- ASSIGN (R455). -/
def execAssign (cfg : List AssignPart) (s : State) : Host.Outcome State Fault Refusal := event (assign cfg) s

/-- GET_VERSION (R472). -/
def execGetVersion (ld : Option Nat) (s : State) : Host.Outcome State Fault Refusal := event (getVersion ld) s

/-- GET_CAPABILITIES (R472). -/
def execGetCapabilities (ld : Option Nat) (s : State) : Host.Outcome State Fault Refusal := event (getCapabilities ld) s

/-- NEGOTIATE_ALGORITHMS (R472). -/
def execNegotiateAlgorithms (ld : Option Nat) (s : State) : Host.Outcome State Fault Refusal :=
  event (negotiateAlgorithms ld) s

/-- GET_DIGESTS (R472). -/
def execGetDigests (ld : Option Nat) (s : State) : Host.Outcome State Fault Refusal := event (getDigests ld) s

/-- GET_CERTIFICATE (R472). -/
def execGetCertificate (ld : Option Nat) (s : State) : Host.Outcome State Fault Refusal := event (getCertificate ld) s

/-- CHALLENGE (R472). -/
def execChallenge (ld : Option Nat) (nonce : Nat) (s : State) : Host.Outcome State Fault Refusal :=
  event (challenge ld nonce) s

/-- GET_MEASUREMENTS (R472). -/
def execGetMeasurements (ld : Option Nat) (index nonce : Nat) (s : State) : Host.Outcome State Fault Refusal :=
  event (getMeasurements ld index nonce) s

/-- ERRLOG (R479). -/
def execErrlog (ld : Option Nat) (seq : Nat) (s : State) : Host.Outcome State Fault Refusal := event (errlog ld seq) s

/-- FIRMWARE_IMAGE_LOAD (R472). -/
def execFirmwareImageLoad (digest sig version : Nat) (s : State) : Host.Outcome State Fault Refusal :=
  event (firmwareLoad digest sig version) s

/-- PATROL_SCRUB (R474). -/
def execPatrolScrub (stack : Nat) (s : State) : Host.Outcome State Fault Refusal := event (patrolScrub stack) s

/-- DIE_FAILURE (R480). -/
def execDieFailure (die : Nat) (s : State) : Host.Outcome State Fault Refusal := event (dieFailure die) s

/-- FRZ_INPUT (R481). -/
def execFrzInput (s : State) : Host.Outcome State Fault Refusal := event (upd fun s => s.freezeBy 1) s

/-- FREEZE (R481). -/
def execFreeze (s : State) : Host.Outcome State Fault Refusal := event (upd fun s => s.freezeBy 2) s

/-- DEBUG_TOKEN (R482). -/
def execDebugToken (digest sig : Nat) (s : State) : Host.Outcome State Fault Refusal := event (debugToken digest sig) s

/-- INSTRUMENT_READ (R482). -/
def execInstrumentRead (which : Instrument) (arg : Nat) (s : State) : Host.Outcome State Fault Refusal :=
  event (instrumentRead which arg) s

/-- POWER_ON (R483). -/
def execPowerOn (untrained : List Nat) (s : State) : Host.Outcome State Fault Refusal := event (powerOn untrained) s

end Sys2Proof.Machine
end

