-- ==== Sys2Proof/Machine/Scratch.lean ====
section
/-!
DEFINITION. Scratchpad, bank modes, FIFOs and capability entries (OP 0x70, 0x71, R222 to R236, R487).
-/

namespace Sys2Proof.Machine

/-- The scratchpad address `[a+b]` of lanes (R222). -/
def spadSum (a b : DWord) : Nat := ((a.setWidth 32 + b.setWidth 32 : BitVec 32)).toNat

/-- `lds` (R222, R488). -/
def ldsBody (w : Who) (f : Fields) : M Unit := do
  let (a, b) ← read2 w f.imm (srcRaw f.sa) (srcRaw f.sb)
  let n := f.ty.bytes
  let l := spadAccs (fun i => spadSum (a i) (b i)) (accessLanes w f.dst)
  let t ← look fun s => spadFault s w n n l
  check t
  let got ← collectM l fun x => do
    let g ← look fun s => s.laneSpad w.life x.ea
    match g with
    | none => pure (x, List.replicate n 0, false)
    | some g => do
      let _ ← meetRow g x.ea
      let bad ← look fun s => s.spadPoison g x.ea
      let bs ← look fun s => s.spadBytes g x.ea n
      pure (x, if bad then List.replicate n 0 else bs, bad)
  writeTyped w f.ty f.dst fun i =>
    match got.find? fun e => e.1.lane = i with
    | none => 0
    | some e => loadValue f.ty e.2.1
  lateNow w (eccuSp w ((got.filter fun e => e.2.2).map (·.1)))

/-- `sts` (R222, R488). -/
def stsBody (w : Who) (f : Fields) : M Unit := do
  let (a, b, c) ← read3 w f.imm (srcRaw f.sa) (srcRaw f.sb) ⟨f.dst, f.ty.wide, none⟩
  let n := f.ty.bytes
  let l := spadAccs (fun i => spadSum (a i) (b i)) w.actors
  let t ← look fun s => spadFault s w n n l
  check t
  let bad ← collectM l fun x => do
    let g ← look fun s => s.laneSpad w.life x.ea
    match g with
    | none => pure false
    | some g => do
      let bad ← look fun s => s.spadPoison g x.ea
      if bad then pure true
      else do
        upd fun s => s.setSpad g x.ea (leBytesOf n (c x.lane).toNat)
        pure false
  lateNow w (eccuSp w (((l.zip bad).filter fun e => e.2).map (·.1)))

/-- `atoms` (R224, R488). -/
def atomsBody (op : AOp) (w : Who) (f : Fields) : M Unit := do
  let (a, c, e) ← read3 w f.imm (srcRaw f.sa) (srcTyped f.ty f.sb)
    (if op = .cas then srcTyped f.ty (f.third.getD (.v 0)) else srcRaw (.v 0))
  let n := f.ty.bytes
  let l := spadAccs (fun i => ((a i).setWidth 32).toNat) (accessLanes w f.dst)
  let t ← look fun s => spadFault s w n n l
  check t
  let got ← collectM l fun x => do
    let g ← look fun s => s.laneSpad w.life x.ea
    match g with
    | none => pure (x, 0, false)
    | some g => do
      let _ ← meetRow g x.ea
      let bad ← look fun s => s.spadPoison g x.ea
      if bad then pure (x, 0, true)
      else do
        let old ← look fun s => leOf (s.spadBytes g x.ea n)
        upd fun s => s.setSpad g x.ea
          (leBytesOf n (atomicOp op f.ty old (c x.lane).toNat (e x.lane).toNat))
        pure (x, old, false)
  writeTyped w f.ty f.dst fun i =>
    match got.find? fun e => e.1.lane = i with
    | none => 0
    | some e => w64 e.2.1
  lateNow w (eccuSp w ((got.filter fun e => e.2.2).map (·.1)))

/-! ## bankmode (R225) -/

/-- The bank mode of a code. -/
def modeOfCode : Nat → BankMode
  | 0 => .cache
  | 1 => .scratch
  | _ => .fifo

/-- Whether a bank's switch is refused (R225). -/
def State.bankRefused (s : State) (c b : Nat) (m : BankMode) : Bool :=
  let k := s.core c
  match k.bankMode b with
  | .cache => m ≠ .cache && (decide (k.ways < 3) || (s.teamsOn c).any fun e => !e.2.tentLines.isEmpty)
  | .scratch => m ≠ .scratch && s.lives.any fun e => e.2.core = c && e.2.banks.contains b
  | .fifo => m ≠ .fifo && k.fifos.any fun e => e.2.bank = b

/-- The lines of a way of a core's L1 leave it before its bank holds something else (R225): bytes that the core has
privatised go home as a merge answer (R173), the others are dropped. Which lines the way holds is a FREE VALUE
(log 39). -/
def vacateWay (c : Nat) : M Unit := do
  let part ← look fun s => (s.partOfCore c).getD 0
  let priv ← look fun s => List.map (·.1) (List.filter (fun e => e.2.holders.any fun h => h.core = c) s.lines)
  let l1 ← look fun s => List.map (·.1) (s.core c).l1
  each (priv.foldl insertNat l1) fun l => do
    let here ← drawBool
    if !here then pure ()
    else do
      if priv.contains l then mergeLine part l else pure ()
      upd fun s => s.updCore c fun k => { k with l1 := SMap.del k.l1 l }

/-- Selected banks switched in ascending order; the refused ones (R225). -/
def switchBanks (c : Nat) (m : BankMode) : List Nat → M (List Nat)
  | [] => pure []
  | b :: t => do
    let no ← look fun s => s.bankRefused c b m
    let same ← look fun s => decide ((s.core c).bankMode b = m)
    let way ← look fun s => decide ((s.core c).bankMode b = .cache)
    if no || same then pure ()
    else do
      if way then vacateWay c else pure ()
      upd fun s => s.updCore c fun k => { k.zeroBank b with modes := SMap.put k.modes b m }
    let r ← switchBanks c m t
    pure (if no then b :: r else r)

/-- `bankmode` (R225). -/
def bankmodeBody (w : Who) (f : Fields) : M Unit := do
  let m ← read1 w f.imm (srcPair f.sa)
  let x := (m 0).toNat
  let v : DWord ← if x < 2 ^ 48 then do
      let r ← switchBanks w.core (modeOfCode (rawImm 0 f.sb).toNat) ((List.range 48).filter fun i => bitN x i)
      pure (w64 (maskOf r))
    else pure (BitVec.allOnes 64)
  let pts ← ptsOf w.core
  let _ ← startOp w .engine ((destRefs w f.dst true).map (·.2)) (landings w f.dst true false fun _ => v) none pts []
  pure ()

/-! ## qcfg (R229, R487) -/

/-- Whether a bit that the action does not use is set (R487). -/
def qcfgReserved (a b : Nat) : Bool :=
  let act := a / 4096
  (decide (3 < act) || decide (a % 4096 ≥ 64)) ||
    (match act with
     | 0 => b ≠ bitsN b 5 0 + bitsN b 24 16 * 2 ^ 16 + bitsN b 40 32 * 2 ^ 32
     | 2 => decide (16 ≤ a % 4096) || bitsN b 50 48 ≠ 0 || bitsN b 31 0 ≠ 0
     | 3 => decide (16 ≤ a % 4096) || b ≠ 0
     | _ => b ≠ 0)

/-- ACT 0: a FIFO created by a life of a core (R229). -/
def State.qcreate (s : State) (life core n b : Nat) : Nat × State :=
  let k := s.core core
  let bank := bitsN b 5 0
  let base := bitsN b 24 16
  let depth := bitsN b 40 32
  if (SMap.get? k.fifos n).isSome then (2, s)
  else if 47 < bank || k.bankMode bank ≠ .fifo || depth = 0 || 256 < depth || base % 2 ≠ 0 ||
      512 < base + 2 * depth ||
      k.fifos.any fun e => e.2.bank = bank && overlaps e.2.base (2 * e.2.depth) base (2 * depth) then (3, s)
  else (0, s.updCore core fun k => { k with fifos := SMap.put k.fifos n ⟨life, bank, base, depth, 0, 0, []⟩ })

/-- ACT 1: a FIFO destroyed (R229). -/
def State.qdestroy (s : State) (life core n : Nat) : Nat × State :=
  match SMap.get? (s.core core).fifos n with
  | none => (2, s)
  | some q =>
    if q.owner ≠ life || !q.slots.isEmpty || q.granted ≠ 0 then (2, s)
    else (0, s.updCore core fun k => { k with fifos := SMap.del k.fifos n })

/-- An old entry's allowance returned, where it has V and W (R229). -/
def State.returnOld (s : State) (life : Nat) (c : Cap) : State :=
  if c.v && c.w then s.returnAllow life c else s

/-- An entry that holds nothing. -/
def Cap.none : Cap := ⟨false, false, false, 0, 0, 0, 0⟩

/-- ACT 2: an entry written (R229). -/
def State.qwrite (s : State) (life n b : Nat) : Nat × State :=
  match s.life? life with
  | none => (2, s)
  | some f =>
    let old := (SMap.get? f.cap n).getD Cap.none
    let new := Cap.ofBits b
    if old.out ≠ 0 then (2, s)
    else
      let t := s.returnOld life old
      let put (s : State) : State := s.updLife life fun f => { f with cap := SMap.put f.cap n new }
      if !new.v then (0, put t)
      else
        match (s.namedLife life new.core).bind fun l => (s.life? l).map fun g => (l, g.core) with
        | none => (4, s)
        | some (l, core) =>
          match (SMap.get? (t.core core).fifos new.fifo).filter fun q => q.owner = l with
          | none => (4, s)
          | some q =>
            if (new.r && decide (l ≠ life)) || decide (q.depth < q.granted + new.allow) then (4, s)
            else
              let t := if new.w then t.updCore core fun k =>
                  { k with fifos := SMap.put k.fifos new.fifo { q with granted := q.granted + new.allow } }
                else t
              (0, put t)

/-- ACT 3: an entry cleared (R229). -/
def State.qclear (s : State) (life n : Nat) : Nat × State :=
  match s.life? life with
  | none => (0, s)
  | some f =>
    let old := (SMap.get? f.cap n).getD Cap.none
    if old.out ≠ 0 then (2, s)
    else (0, (s.returnOld life old).updLife life fun f => { f with cap := SMap.del f.cap n })

/-- The action of `qcfg`: its status and the module after it (R229, R487). -/
def State.qcfg (s : State) (life core a b : Nat) : Nat × State :=
  if qcfgReserved a b then (1, s)
  else
    match a / 4096 with
    | 0 => s.qcreate life core (a % 64) b
    | 1 => s.qdestroy life core (a % 64)
    | 2 => s.qwrite life (a % 16) b
    | _ => s.qclear life (a % 16)

/-- `qcfg` (R229). -/
def qcfgBody (w : Who) (f : Fields) : M Unit := do
  let (a, b) ← read2 w f.imm (srcPair f.sa) (srcPair f.sb)
  let (st, t) ← look fun s => s.qcfg w.life w.core (a 0).toNat (b 0).toNat
  upd fun _ => t
  writeWord w f.dst fun _ => w32 st

/-! ## qstat and qdrain -/

/-- What `qstat` reports of an entry (R235). -/
def State.qstat (s : State) (w : Who) (n : Nat) : Nat :=
  if 15 < n then 0
  else
    match (if w.level = .lane then (s.life? w.life).bind fun f => SMap.get? f.cap n else none) with
    | none => 0
    | some c =>
      let count := ((s.fifoOf w c).map fun e => e.2.2.slots.length).getD 0
      (if c.v then 2 ^ 31 else 0) + (if c.r then 2 ^ 30 else 0) + (if c.w then 2 ^ 29 else 0) +
        (if c.r then count % 512 * 2 ^ 17 else 0) + (if c.w then (c.allow - c.out) % 512 * 2 ^ 8 else 0)

/-- `qstat` (R235). -/
def qstatBody (w : Who) (f : Fields) : M Unit := do
  let n ← read1 w f.imm (srcRaw f.sa)
  let v ← look fun s => fun i => s.qstat w ((n i).toNat % 2 ^ 32)
  writeWord w f.dst fun i => w32 (v i)

/-- Entries of a FIFO popped into a scratchpad, the masks into tags (R236); whether a poisoned row was
met, and the lanes that got a word of every entry (R231). -/
def drainTo (w : Who) (g : Life) (core num : Nat) (b : Nat) : Nat → Nat → M (Bool × BitVec 32)
  | 0, _ => pure (false, BitVec.allOnes 32)
  | k + 1, i => do
    let q ← look fun s => SMap.get? (s.core core).fifos num
    match q with
    | none => pure (false, 0)
    | some q =>
      match q.slots with
      | [] => pure (false, 0)
      | e :: _ => do
        takeEntry w core num q e
        let bytes := (List.range 32).flatMap fun j => leBytesOf 4 (e.words.getD j 0).toNat
        let at0 := b + 128 * i
        let bad ← spadWrite g at0 bytes
        upd fun s => (s.setSpadTag g at0 (e.mask.extractLsb' 0 16)).setSpadTag g (at0 + 64)
          (e.mask.extractLsb' 16 16)
        let (r, got) ← drainTo w g core num b k (i + 1)
        pure (bad || r, e.mask &&& got)

/-- `qdrain` (R236). -/
def qdrainBody (w : Who) (f : Fields) : M Unit := do
  let a ← read1 w f.imm (srcRaw f.sa)
  let n := (rawImm 0 f.sb).toNat
  let b := (a w.low).toNat % 2 ^ 32
  let t ← look fun s => popCheck s w n
  check t
  let q ← look fun s => (s.capOf w n).bind fun c => s.fifoOf w c
  match q, (← look fun s => s.capOf w n) with
  | some (_, core, q), some c => do
    let k := q.slots.length
    let l : List Acc := [⟨w.low, b, b⟩]
    let t ← look fun s => if k = 0 then none else spadFault s w 1 (128 * k) l
    check t
    leaveDirect w
    let g ← look fun s => s.laneSpad w.life b
    let (bad, got) ← match g with
      | none => pure (false, 0)
      | some g => drainTo w g core c.fifo b k 0
    let before ← look fun s => alsoPopped s w f.sa
    setP14 w (if k = 0 then [] else [before, fun i => got.getLsbD i])
    reserveDst w f.dst
    lateNow w (if bad then eccuSp w l else none)
    let pts ← ptsOf w.core
    let _ ← startOp w .engine ((destRefs w f.dst false).map (·.2))
      (landings w f.dst false false fun _ => w64 k) none pts []
    pure ()
  | _, _ => pure ()

/-- `lds` (R222). -/
def execLds (f : Fields) (s : State) : Host.Outcome State Fault Refusal :=
  issue (.lds f) (ldsBody) s

/-- `sts` (R222). -/
def execSts (f : Fields) (s : State) : Host.Outcome State Fault Refusal :=
  issue (.sts f) (stsBody) s

/-- `bankmode` (R225). -/
def execBankmode (f : Fields) (s : State) : Host.Outcome State Fault Refusal :=
  issue (.bankmode f) (bankmodeBody) s

/-- `qcfg` (R229). -/
def execQcfg (f : Fields) (s : State) : Host.Outcome State Fault Refusal :=
  issue (.qcfg f) (qcfgBody) s

/-- `qstat` (R235). -/
def execQstat (f : Fields) (s : State) : Host.Outcome State Fault Refusal :=
  issue (.qstat f) (qstatBody) s

/-- `qdrain` (R236). -/
def execQdrain (f : Fields) (s : State) : Host.Outcome State Fault Refusal :=
  issue (.qdrain f) (qdrainBody) s

/-- `atoms` (R224). -/
def execAtoms (op : AOp) (f : Fields) (s : State) : Host.Outcome State Fault Refusal :=
  issue (.atoms op f) (atomsBody op) s

end Sys2Proof.Machine
end

