-- ==== Sys2Proof/Machine/Tags.lean ====
section
/-!
DEFINITION. Tags of memory blocks and scratchpad rows read and written by lanes (R280 to R283).
-/

namespace Sys2Proof.Machine

/-- Whether an effective address of a tag form names a scratchpad row (R280). -/
def isRowEa (a : Acc) : Bool := a.ea / 2 ^ 32 = 0xFFFFFFFF

/-- The lanes of a tag form by space: those with a memory block, and those with a scratchpad row at their
scratchpad address (R280). -/
def splitAccs (l : List Acc) : List Acc × List Acc :=
  (l.filter fun a => !isRowEa a, (l.filter isRowEa).map fun a => { a with ea := a.ea % 2 ^ 32, va := a.ea % 2 ^ 32 })

/-- The faults of a tag form in the order of R99: LEASE over the whole memory block or scratchpad row, in which bits
[5:0] select nothing (R280), then STABLE and SEALED (R283). -/
def tagFault (s : State) (w : Who) (write : Bool) (mem rows : List Acc) : Option Trap :=
  let class' (l : List Nat) (a : Acc) : Bool := l.contains (s.classAt w a)
  failing w kLEASE 1 mem (fun a => !s.inLease w (a.va / 64 * 64) 64 [if write then rightW else rightR]) <|>
    (if write then failing w kLEASE 1 mem (class' [4, 5]) else none) <|>
    failing w kLEASE 3 rows (fun a => spadBad (s.laneSpad w.life a.ea) (a.ea / 64 * 64) 64) <|>
    (if write then
      failing w kSTABLE 0 mem (fun a => w.level = .lane && ((s.peekLeaf w a.va).map leafS).getD false) <|>
        failing w kSEALED 0 mem (class' [2, 3])
     else none)

/-- The event at home of a tag read on class 2, which applies nothing (R281, R396): whether the block cannot be
corrected. -/
def touchShared (w : Who) (line : Nat) : M Bool := do
  meetLine line
  mergeLine w.part line
  let (wts, _) ← homeRead w.part w.core line none
  noteRead w line wts
  look fun s => s.isPoison line

/-- The tag of a block of class 0 read at a place (R113, R148, R281). -/
def plainTag (w : Who) (va : Nat) (pl : Place) : M (BitVec 16 × Bool) := do
  let line := pl.pa / 64
  meetLine line
  let bad ← look fun s => s.isPoison line
  if bad then pure (0, true)
  else do
    let st ← look fun s => leafS pl.leaf && s.inStable w va
    let g ← if st then do
        let (_, g) ← stableFetch w line 0 64 true
        pure g
      else do
        let (_, g, wts) ← coherentFetch w.part w.core line 0 64 true
        noteRead w line wts
        pure g
    pure (if leafT pl.leaf then g else 0, false)

/-- The tag of the block at a virtual address read on the generic path, and whether uncorrectable data
was met (R281). -/
def genTag (w : Who) (va : Nat) : M (BitVec 16 × Bool) := do
  let pl ← placeOf w va
  let c := leafClass pl.leaf
  let line := pl.pa / 64
  let q ← if leafSH pl.leaf then do
      let t ← look fun s => decide (s.modeOf w = .tentative)
      if t then do
        let (q, _) ← storePlace w va true
        pure q
      else pure pl
    else pure pl
  let own ← look fun s =>
    match s.teamOf w with
    | none => none
    | some x => if x.mode = .tentative then SMap.get? x.tentTags (q.pa / 64) else none
  match own with
  | some g => pure (g, false)
  | none =>
    if c = 7 then do
      let (_, bad) ← peerRead w.part (64 * line) 64
      pure (0, bad)
    else if c = 6 then do
      fenceHold w
      let (_, bad) ← hostRead w { pl with pa := 64 * line } 64 true
      pure (0, bad)
    else if c = 2 then do
      let bad ← touchShared w line
      pure (0, bad)
    else if c = 3 || c = 4 || c = 5 then do
      let ((_, g), settled, _, bad) ← settledLine w line
      pure (if leafT pl.leaf && decide (64 * line % 65536 < settled) && !bad then g else 0, bad)
    else plainTag w va pl

/-- `btagr` (R281). -/
def btagrBody (w : Who) (f : Fields) : M Unit := do
  let ea ← readEa w f
  let all ← look fun s => s.accs w false ea (accessLanes w f.dst)
  let (mem, rows) := splitAccs all
  let t ← look fun s => tagFault s w false mem rows
  check t
  let got ← collectM all fun a =>
    if isRowEa a then do
      let sp := a.ea % 2 ^ 32
      let g ← look fun s => s.laneSpad w.life sp
      match g with
      | none => pure (a, (0 : BitVec 16), false)
      | some g => do
        let _ ← meetRow g sp
        let bad ← look fun s => s.spadPoison g sp
        let tag ← look fun s => s.spadTag g sp
        pure (a, if bad then 0 else tag, bad)
    else do
      let (g, bad) ← genTag w a.va
      pure (a, g, bad)
  let vals (i : Nat) : DWord :=
    match got.find? fun e => e.1.lane = i with
    | none => 0
    | some e => e.2.1.setWidth 64
  let pts ← ptsOf w.core
  let _ ← startOp w .load ((destRefs w f.dst false).map (·.2)) (landings w f.dst false false vals)
    (eccu w ((got.filter fun e => e.2.2).map (·.1))) pts []
  pure ()

/-- The tag of the block at a virtual address written in the issuer's mode (R282): whether uncorrectable
data was met. -/
def genSetTag (w : Who) (va : Nat) (g : BitVec 16) : M Bool := do
  let tent ← look fun s => decide (s.modeOf w = .tentative)
  let pl ← placeOf w va
  let c := leafClass pl.leaf
  if c = 6 || c = 7 || !(leafT pl.leaf) then pure false
  else do
    let (pl, pair) ← storePlace w va tent
    let line := pl.pa / 64
    if tent then do
      let bad ← look fun s => s.isPoison line
      if bad then do
        dropWrite w pl
        pure true
      else do
        tentHold w pl pair fun x => { x with tentTags := SMap.put x.tentTags line g }
        pure false
    else do
      meetLine line
      let bad ← look fun s => s.isPoison line
      if bad then do
        dropWrite w pl
        pure true
      else do
        mergeLine w.part line
        setLeafBit w.part w.core (pl.entry.getD noEntry) 7
        let pts ← ptsOf w.core
        let ts ← stampWrite w.part line pts fun h =>
          LineSt.dirtied { h with lastCore := some w.core, lastMask := 0 } (some w.ctx)
        upd fun s => (s.setTag line g).markDirty w.part (64 * line)
        raisePts w.core ts
        pure false

/-- `btagw` (R282). -/
def btagwBody (w : Who) (f : Fields) : M Unit := do
  let (a, b, c) ← read3 w f.imm (srcPair f.sa) (srcRaw f.sb) (srcRaw f.dst)
  let ea (i : Nat) : Nat := (a i + ((b i).setWidth 32).signExtend 64).toNat
  let all ← look fun s => s.accs w false ea w.actors
  let (mem, rows) := splitAccs all
  let t ← look fun s => tagFault s w true mem rows
  check t
  if mem.isEmpty then pure () else leaveDirect w
  let bad ← collectM all fun x => do
    let g : BitVec 16 := (c x.lane).setWidth 16
    if isRowEa x then do
      let sp := x.ea % 2 ^ 32
      let p ← look fun s => s.laneSpad w.life sp
      match p with
      | none => pure (x, false)
      | some p => do
        let bad ← look fun s => s.spadPoison p sp
        if bad then pure (x, true)
        else do
          upd fun s => s.setSpadTag p sp g
          pure (x, false)
    else do
      let bad ← genSetTag (w.only x.lane) x.va g
      pure (x, bad)
  let pts ← ptsOf w.core
  let _ ← startOp w .store [] [] (eccu w ((bad.filter fun e => e.2).map (·.1))) pts []
  pure ()

/-- `btagr` (R281). -/
def execBtagr (f : Fields) (s : State) : Host.Outcome State Fault Refusal :=
  issue (.btagr f) (btagrBody) s

/-- `btagw` (R282). -/
def execBtagw (f : Fields) (s : State) : Host.Outcome State Fault Refusal :=
  issue (.btagw f) (btagwBody) s

end Sys2Proof.Machine
end

