-- ==== Sys2Proof/Machine/Dispatch.lean ====
section
/-!
DEFINITION. The meaning of each instruction and of each event: one arm per constructor.
-/

namespace Sys2Proof.Machine

/-- The effect of an instruction issued by the state's current agent, or of an event. -/
def exec (i : Instr) (s : State) : Host.Outcome State Fault Refusal :=
  match i with
  | .nop f => Sys2Proof.Machine.execNop f s
  | .bra f => Sys2Proof.Machine.execBra f s
  | .brx f => Sys2Proof.Machine.execBrx f s
  | .jmpx f => Sys2Proof.Machine.execJmpx f s
  | .call f => Sys2Proof.Machine.execCall f s
  | .callx f => Sys2Proof.Machine.execCallx f s
  | .ret f => Sys2Proof.Machine.execRet f s
  | .exitLane f => Sys2Proof.Machine.execExitLane f s
  | .reform f => Sys2Proof.Machine.execReform f s
  | .regang f => Sys2Proof.Machine.execRegang f s
  | .yieldGang f => Sys2Proof.Machine.execYieldGang f s
  | .sleepto f => Sys2Proof.Machine.execSleepto f s
  | .ipref f => Sys2Proof.Machine.execIpref f s
  | .decide f => Sys2Proof.Machine.execDecide f s
  | .bru f => Sys2Proof.Machine.execBru f s
  | .fork f => Sys2Proof.Machine.execFork f s
  | .add f => Sys2Proof.Machine.execAdd f s
  | .sub f => Sys2Proof.Machine.execSub f s
  | .addc f => Sys2Proof.Machine.execAddc f s
  | .mul f => Sys2Proof.Machine.execMul f s
  | .mulhi f => Sys2Proof.Machine.execMulhi f s
  | .mad f => Sys2Proof.Machine.execMad f s
  | .madhi f => Sys2Proof.Machine.execMadhi f s
  | .min f => Sys2Proof.Machine.execMin f s
  | .max f => Sys2Proof.Machine.execMax f s
  | .abs f => Sys2Proof.Machine.execAbs f s
  | .neg f => Sys2Proof.Machine.execNeg f s
  | .andb f => Sys2Proof.Machine.execAndb f s
  | .orb f => Sys2Proof.Machine.execOrb f s
  | .xorb f => Sys2Proof.Machine.execXorb f s
  | .notb f => Sys2Proof.Machine.execNotb f s
  | .andn f => Sys2Proof.Machine.execAndn f s
  | .shl f => Sys2Proof.Machine.execShl f s
  | .shr f => Sys2Proof.Machine.execShr f s
  | .sar f => Sys2Proof.Machine.execSar f s
  | .rol f => Sys2Proof.Machine.execRol f s
  | .bfx f => Sys2Proof.Machine.execBfx f s
  | .bfi f => Sys2Proof.Machine.execBfi f s
  | .popc f => Sys2Proof.Machine.execPopc f s
  | .clz f => Sys2Proof.Machine.execClz f s
  | .ctz f => Sys2Proof.Machine.execCtz f s
  | .brev f => Sys2Proof.Machine.execBrev f s
  | .bperm f => Sys2Proof.Machine.execBperm f s
  | .sel f => Sys2Proof.Machine.execSel f s
  | .setp f => Sys2Proof.Machine.execSetp f s
  | .pand f => Sys2Proof.Machine.execPand f s
  | .por f => Sys2Proof.Machine.execPor f s
  | .pxor f => Sys2Proof.Machine.execPxor f s
  | .pnot f => Sys2Proof.Machine.execPnot f s
  | .mov f => Sys2Proof.Machine.execMov f s
  | .movi f => Sys2Proof.Machine.execMovi f s
  | .lea f => Sys2Proof.Machine.execLea f s
  | .srd f => Sys2Proof.Machine.execSrd f s
  | .swr f => Sys2Proof.Machine.execSwr f s
  | .fadd f => Sys2Proof.Machine.execFadd f s
  | .fsub f => Sys2Proof.Machine.execFsub f s
  | .fmul f => Sys2Proof.Machine.execFmul f s
  | .ffma f => Sys2Proof.Machine.execFfma f s
  | .fmin f => Sys2Proof.Machine.execFmin f s
  | .fmax f => Sys2Proof.Machine.execFmax f s
  | .fneg f => Sys2Proof.Machine.execFneg f s
  | .fsetp f => Sys2Proof.Machine.execFsetp f s
  | .fclass f => Sys2Proof.Machine.execFclass f s
  | .frnd f => Sys2Proof.Machine.execFrnd f s
  | .fscale f => Sys2Proof.Machine.execFscale f s
  | .fdot2 f => Sys2Proof.Machine.execFdot2 f s
  | .frcp f => Sys2Proof.Machine.execFrcp f s
  | .frsq f => Sys2Proof.Machine.execFrsq f s
  | .fsqrt f => Sys2Proof.Machine.execFsqrt f s
  | .fexp2 f => Sys2Proof.Machine.execFexp2 f s
  | .flog2 f => Sys2Proof.Machine.execFlog2 f s
  | .fsin f => Sys2Proof.Machine.execFsin f s
  | .fcos f => Sys2Proof.Machine.execFcos f s
  | .ftanh f => Sys2Proof.Machine.execFtanh f s
  | .cvt src f => Sys2Proof.Machine.execCvt src f s
  | .cvt8 f => Sys2Proof.Machine.execCvt8 f s
  | .bpack f => Sys2Proof.Machine.execBpack f s
  | .bunpack f => Sys2Proof.Machine.execBunpack f s
  | .bscale f => Sys2Proof.Machine.execBscale f s
  | .btagr f => Sys2Proof.Machine.execBtagr f s
  | .btagw f => Sys2Proof.Machine.execBtagw f s
  | .shfl f => Sys2Proof.Machine.execShfl f s
  | .vote f => Sys2Proof.Machine.execVote f s
  | .ballot f => Sys2Proof.Machine.execBallot f s
  | .redadd f => Sys2Proof.Machine.execRedadd f s
  | .redmax f => Sys2Proof.Machine.execRedmax f s
  | .scan f => Sys2Proof.Machine.execScan f s
  | .lds f => Sys2Proof.Machine.execLds f s
  | .sts f => Sys2Proof.Machine.execSts f s
  | .bankmode f => Sys2Proof.Machine.execBankmode f s
  | .qcfg f => Sys2Proof.Machine.execQcfg f s
  | .qstat f => Sys2Proof.Machine.execQstat f s
  | .qdrain f => Sys2Proof.Machine.execQdrain f s
  | .atoms op f => Sys2Proof.Machine.execAtoms op f s
  | .ld f => Sys2Proof.Machine.execLd f s
  | .st f => Sys2Proof.Machine.execSt f s
  | .ldc f => Sys2Proof.Machine.execLdc f s
  | .ldt f => Sys2Proof.Machine.execLdt f s
  | .pref f => Sys2Proof.Machine.execPref f s
  | .pathfence f => Sys2Proof.Machine.execPathfence f s
  | .probe f => Sys2Proof.Machine.execProbe f s
  | .cwb f => Sys2Proof.Machine.execCwb f s
  | .atom op f => Sys2Proof.Machine.execAtom op f s
  | .appendRow f => Sys2Proof.Machine.execAppendRow f s
  | .tailr f => Sys2Proof.Machine.execTailr f s
  | .sealPage f => Sys2Proof.Machine.execSealPage f s
  | .sealq f => Sys2Proof.Machine.execSealq f s
  | .cpy f => Sys2Proof.Machine.execCpy f s
  | .cpy2d f => Sys2Proof.Machine.execCpy2d f s
  | .gather f => Sys2Proof.Machine.execGather f s
  | .scatter f => Sys2Proof.Machine.execScatter f s
  | .cfill f => Sys2Proof.Machine.execCfill f s
  | .publish f => Sys2Proof.Machine.execPublish f s
  | .pstat f => Sys2Proof.Machine.execPstat f s
  | .gset f => Sys2Proof.Machine.execGset f s
  | .garm f => Sys2Proof.Machine.execGarm f s
  | .sign f => Sys2Proof.Machine.execSign f s
  | .gstat f => Sys2Proof.Machine.execGstat f s
  | .mmaRr f => Sys2Proof.Machine.execMmaRr f s
  | .mmaRs f => Sys2Proof.Machine.execMmaRs f s
  | .mmaSr f => Sys2Proof.Machine.execMmaSr f s
  | .mmaSs f => Sys2Proof.Machine.execMmaSs f s
  | .mzero f => Sys2Proof.Machine.execMzero f s
  | .mscale f => Sys2Proof.Machine.execMscale f s
  | .mcvt f => Sys2Proof.Machine.execMcvt f s
  | .launch f => Sys2Proof.Machine.execLaunch f s
  | .spawn f => Sys2Proof.Machine.execSpawn f s
  | .phase f => Sys2Proof.Machine.execPhase f s
  | .taskend f => Sys2Proof.Machine.execTaskend f s
  | .commit f => Sys2Proof.Machine.execCommit f s
  | .alloc f => Sys2Proof.Machine.execAlloc f s
  | .claim f => Sys2Proof.Machine.execClaim f s
  | .releaseRegs f => Sys2Proof.Machine.execReleaseRegs f s
  | .ann op f => Sys2Proof.Machine.execAnn op f s
  | .helpObj f => Sys2Proof.Machine.execHelpObj f s
  | .collect f => Sys2Proof.Machine.execCollect f s
  | .annq f => Sys2Proof.Machine.execAnnq f s
  | .bcas f => Sys2Proof.Machine.execBcas f s
  | .trap f => Sys2Proof.Machine.execTrap f s
  | .trapret f => Sys2Proof.Machine.execTrapret f s
  | .hwin f => Sys2Proof.Machine.execHwin f s
  | .hwrd f => Sys2Proof.Machine.execHwrd f s
  | .hwwr f => Sys2Proof.Machine.execHwwr f s
  | .dispose f => Sys2Proof.Machine.execDispose f s
  | .ctxsave f => Sys2Proof.Machine.execCtxsave f s
  | .ctxload f => Sys2Proof.Machine.execCtxload f s
  | .tlbinv f => Sys2Proof.Machine.execTlbinv f s
  | .clauseStart a => Sys2Proof.Machine.execClauseStart a s
  | .parkqTimeout a => Sys2Proof.Machine.execParkqTimeout a s
  | .clauseBoundary team g q => Sys2Proof.Machine.execClauseBoundary team g q s
  | .reconvHoldTimeout a => Sys2Proof.Machine.execReconvHoldTimeout a s
  | .binDraw team bin => Sys2Proof.Machine.execBinDraw team bin s
  | .binAgeExpiry team bin => Sys2Proof.Machine.execBinAgeExpiry team bin s
  | .sleeptoWake a => Sys2Proof.Machine.execSleeptoWake a s
  | .queueDelivery core => Sys2Proof.Machine.execQueueDelivery core s
  | .gangAgePromotion a => Sys2Proof.Machine.execGangAgePromotion a s
  | .hardwarePrefetch core team va => Sys2Proof.Machine.execHardwarePrefetch core team va s
  | .speculativeFetch team va => Sys2Proof.Machine.execSpeculativeFetch team va s
  | .rebaseSweepComplete slice => Sys2Proof.Machine.execRebaseSweepComplete slice s
  | .ptsTick cycles => Sys2Proof.Machine.execPtsTick cycles s
  | .annWalkerApply part ctx idx => Sys2Proof.Machine.execAnnWalkerApply part ctx idx s
  | .loadReturn op => Sys2Proof.Machine.execLoadReturn op s
  | .storeCompletion op => Sys2Proof.Machine.execStoreCompletion op s
  | .atomicReturn op => Sys2Proof.Machine.execAtomicReturn op s
  | .pathfenceCompletion op => Sys2Proof.Machine.execPathfenceCompletion op s
  | .cwbCompletion op => Sys2Proof.Machine.execCwbCompletion op s
  | .appendGrant op => Sys2Proof.Machine.execAppendGrant op s
  | .reservationComplete part res => Sys2Proof.Machine.execReservationComplete part res s
  | .sealCompletion op => Sys2Proof.Machine.execSealCompletion op s
  | .copyCommandStart part => Sys2Proof.Machine.execCopyCommandStart part s
  | .copyLineWrite part cmd line => Sys2Proof.Machine.execCopyLineWrite part cmd line s
  | .shadowWriteRelease part cmd => Sys2Proof.Machine.execShadowWriteRelease part cmd s
  | .copyCommandCompletion part cmd => Sys2Proof.Machine.execCopyCommandCompletion part cmd s
  | .promiseMiss part cmd => Sys2Proof.Machine.execPromiseMiss part cmd s
  | .publishEvent part cmd => Sys2Proof.Machine.execPublishEvent part cmd s
  | .matrixCommandExecute core => Sys2Proof.Machine.execMatrixCommandExecute core s
  | .matrixCommandCompletion core => Sys2Proof.Machine.execMatrixCommandCompletion core s
  | .scratchBankRelease core => Sys2Proof.Machine.execScratchBankRelease core s
  | .launchGrant launch => Sys2Proof.Machine.execLaunchGrant launch s
  | .residencyAnswerPoll part slot => Sys2Proof.Machine.execResidencyAnswerPoll part slot s
  | .leaseEnd launch => Sys2Proof.Machine.execLeaseEnd launch s
  | .taskStart part core => Sys2Proof.Machine.execTaskStart part core s
  | .allowanceExpiry team => Sys2Proof.Machine.execAllowanceExpiry team s
  | .groupArrival team g => Sys2Proof.Machine.execGroupArrival team g s
  | .taskEnd team => Sys2Proof.Machine.execTaskEnd team s
  | .handlerStart core => Sys2Proof.Machine.execHandlerStart core s
  | .sliceExpiry team => Sys2Proof.Machine.execSliceExpiry team s
  | .preemptSave team => Sys2Proof.Machine.execPreemptSave team s
  | .forcedSaveTimeout team => Sys2Proof.Machine.execForcedSaveTimeout team s
  | .teamResume part core => Sys2Proof.Machine.execTeamResume part core s
  | .ctxsaveComplete op => Sys2Proof.Machine.execCtxsaveComplete op s
  | .startPart part => Sys2Proof.Machine.execStartPart part s
  | .stopPart part => Sys2Proof.Machine.execStopPart part s
  | .stopComplete part => Sys2Proof.Machine.execStopComplete part s
  | .resetPart part => Sys2Proof.Machine.execResetPart part s
  | .rollback part ctx => Sys2Proof.Machine.execRollback part ctx s
  | .clearErr part => Sys2Proof.Machine.execClearErr part s
  | .lsubdescWrite part size value => Sys2Proof.Machine.execLsubdescWrite part size value s
  | .freedescWrite part size value => Sys2Proof.Machine.execFreedescWrite part size value s
  | .freeServe part => Sys2Proof.Machine.execFreeServe part s
  | .registerWrite part offset size value => Sys2Proof.Machine.execRegisterWrite part offset size value s
  | .assign cfg => Sys2Proof.Machine.execAssign cfg s
  | .hostMemRead part d n => Sys2Proof.Machine.execHostMemRead part d n s
  | .hostMemWrite part d bytes => Sys2Proof.Machine.execHostMemWrite part d bytes s
  | .hostSnoop part line kind bytes => Sys2Proof.Machine.execHostSnoop part line kind bytes s
  | .peerAccessServe part peerId peerPart o n req => Sys2Proof.Machine.execPeerAccessServe part peerId peerPart o n req s
  | .getVersion ld => Sys2Proof.Machine.execGetVersion ld s
  | .getCapabilities ld => Sys2Proof.Machine.execGetCapabilities ld s
  | .negotiateAlgorithms ld => Sys2Proof.Machine.execNegotiateAlgorithms ld s
  | .getDigests ld => Sys2Proof.Machine.execGetDigests ld s
  | .getCertificate ld => Sys2Proof.Machine.execGetCertificate ld s
  | .challenge ld nonce => Sys2Proof.Machine.execChallenge ld nonce s
  | .getMeasurements ld index nonce => Sys2Proof.Machine.execGetMeasurements ld index nonce s
  | .errlog ld seq => Sys2Proof.Machine.execErrlog ld seq s
  | .firmwareImageLoad digest sig version => Sys2Proof.Machine.execFirmwareImageLoad digest sig version s
  | .patrolScrub stack => Sys2Proof.Machine.execPatrolScrub stack s
  | .dieFailure die => Sys2Proof.Machine.execDieFailure die s
  | .frzInput => Sys2Proof.Machine.execFrzInput s
  | .freeze => Sys2Proof.Machine.execFreeze s
  | .debugToken digest sig => Sys2Proof.Machine.execDebugToken digest sig s
  | .instrumentRead which arg => Sys2Proof.Machine.execInstrumentRead which arg s
  | .powerOn untrained => Sys2Proof.Machine.execPowerOn untrained s
  | .msixVectorUnmask part vector => Sys2Proof.Machine.execMsixVectorUnmask part vector s
  | .axeelPortDown port => Sys2Proof.Machine.execAxeelPortDown port s

end Sys2Proof.Machine
end

