-- ==== Sys2Proof/Machine/Step.lean ====
section
/-!
DEFINITION. One step of the module, and the placing of one instruction word where the next step
fetches.
-/

namespace Sys2Proof.Machine

/-- An agent issues its next instruction: fetched, decoded, executed. An agent that stands before no
instruction, or is held, does nothing. -/
def issueStep (a : Agent) (s : State) : Host.Outcome State Fault Refusal :=
  let s := { s with cur := a }
  match s.who? a with
  | none => .next s
  | some w =>
    if !s.mayIssue w then .next s
    else
      match fetch w s with
      | .instr i s => exec i s
      | .trap t s => .next (s.raiseTrap w false t)

/-- One act of the module. -/
def doAct (a : Act) (s : State) : Host.Outcome State Fault Refusal :=
  match a with
  | .issue a => issueStep a s
  | .event i => exec i s
  | .mask j v => .next (s.maskVector j v)

/-- The outcome of an act with what follows every step. -/
def settled : Host.Outcome State Fault Refusal → Host.Outcome State Fault Refusal
  | .next s => .next s.settle
  | .fault f => .fault f
  | .refused r => .refused r

/-- ONE STEP OF THE MODULE: the next act of the agenda, or a free choice among what may happen. A frozen
module waits (R481). -/
def step (s : State) : Host.Outcome State Fault Refusal :=
  if s.frozen then
    match s.agenda with
    | [] => .next s
    | a :: rest =>
      if frozenAllows a then doAct a { s with agenda := rest } else .next { s with agenda := rest }
  else settled (doAct s.nextAct.1 s.nextAct.2)

/-- The module with an instruction word placed where the next step fetches it (log 12). -/
def State.withFetchWord (s : State) (nbits w : Nat) : State :=
  placeWord s (leBytesOf 12 (w % 2 ^ nbits)) (decodeTableWord nbits w)

end Sys2Proof.Machine
end

