-- ==== Sys2Proof/Safety.lean ====
section
/-!
DEFINITION. What a safe run is, in the terms that claims use: the canonical form of memory, and states
in which no agent acts.
-/

namespace Sys2Proof.Machine

/-- MEMORY IS IN CANONICAL FORM: addresses strictly rising and no byte listed that an absent address
reads as. -/
abbrev Memory.wf (m : SMap Byte) : Prop := SMap.canon 0 m = true

/-- A run that has neither faulted nor been refused. -/
def Running : Host.Outcome State Fault Refusal → Prop
  | .next _ => True
  | _ => False

end Sys2Proof.Machine
end

