-- ==== Sys2Proof/Certificates/Slice0/Obligations.lean ====
section
/-!
DEFINITION. The statements for the provers: what the spec's numbered rules say of the encodings, of one
step, of every instruction and event, and of the whole machine.
-/

namespace Sys2Proof.Claims

open Sys2Proof Sys2Proof.Machine

/-! ## When an instruction is executed -/

/-- The issuer of an instruction executes it: the issuer stands in a clause, the word passes R51, no
pending register and no full flag holds it (R37, R39), a guard is true (R17), and its queue operands pass
the checks of R231 and R232. Conditions on the state and the operands alone. -/
structure Issues (i : Instr) (s : State) (w : Who) (fm : Form) (f : Fields) : Prop where
  issuer : ∃ w₀, s.who? s.cur = some w₀ ∧ w = s.issuer i w₀ f
  isForm : form i = some fm
  isFields : fields i = some f
  legal : illegalUse s w i fm f = false
  free : s.held w fm f = false
  part : w.takesPart = true
  queues : channelChecks s w fm f = none

/-- The state in which an executed instruction has its effect: the issuer stands before the next slot, or
at the next clause start after the last slot or an E form. -/
abbrev onward (s : State) (w : Who) (fm : Form) : State := s.passed w fm.ends fm.long

/-- The value that a register or predicate of the issuer holds. -/
def readRef (s : State) (w : Who) : RegRef → DWord
  | .v i n => (((s.groupOf w).lane i).reg n).setWidth 64
  | .s n => ((s.groupOf w).scalar n).setWidth 64
  | .p i n => if ((s.groupOf w).lane i).pred n then 1 else 0
  | .k n => (s.progOf w).kreg n
  | .q _ _ => 0

/-- A source that pops nothing and has a value of its own in every state. -/
def plainSrc (w : Who) (o : Opnd) : Bool :=
  match o with
  | .q _ | .spec _ => false
  | .k _ => w.front
  | .v _ | .s _ | .p _ => !w.front
  | _ => true

/-- A source that pops nothing: all but a queue register and the decision queue. -/
def popsNothing (w : Who) (o : Opnd) : Bool :=
  match o with
  | .spec r => w.front || decide (r ≠ .dq)
  | o => plainSrc w o

/-- A destination register of the issuer. -/
def plainDst (w : Who) (o : Opnd) : Bool :=
  match o with
  | .v _ | .s _ | .p _ => !w.front
  | .k _ => w.front
  | _ => false

/-- What a plain source gives each lane: an immediate under its TYPE or raw, a register or a pair. -/
def srcValue (s : State) (w : Who) (imm : BitVec 32) (sp : SrcSpec) (lane : Nat) : DWord :=
  match sp.opnd with
  | .immL | .immS _ =>
    match sp.ty with
    | some t => typedImm t imm sp.opnd
    | none => (rawImm imm sp.opnd).setWidth 64
  | o => s.regVal w sp.wide lane o

/-! ## Register forms -/

/-- A form whose one effect is a result written to its destination: the sources in the order in which it
reads them, the width and sign of the result, and the result of a lane from the values that the sources
gave. -/
structure ResultForm where
  srcs : Fields → List SrcSpec
  wide : Fields → Bool
  signed : Fields → Bool
  value : Who → Fields → (Nat → Nat → DWord) → Nat → DWord

/-- The third source of a form. -/
def thirdOf (f : Fields) : Opnd := f.third.getD (.v 0)

/-- The form read as one of `k` that acts on a lane's own values under the instruction's TYPE. -/
def laneForm (srcs : Fields → List SrcSpec) (value : Fields → DWord → DWord → DWord → DWord) : ResultForm :=
  ⟨srcs, fun f => f.ty.wide, fun f => f.ty.signed, fun _ f x j => value f (x 0 j) (x 1 j) (x 2 j)⟩

/-- The same with a result of 32 bits whatever the TYPE. -/
def wordForm (srcs : Fields → List SrcSpec) (value : Fields → DWord → DWord → DWord → DWord) : ResultForm :=
  ⟨srcs, fun _ => false, fun _ => false, fun _ f x j => value f (x 0 j) (x 1 j) (x 2 j)⟩

/-- One source under the TYPE. -/
def one (f : Fields) : List SrcSpec := [srcTyped f.ty f.sa]
/-- Two sources under the TYPE. -/
def two (f : Fields) : List SrcSpec := [srcTyped f.ty f.sa, srcTyped f.ty f.sb]
/-- Three sources under the TYPE. -/
def three (f : Fields) : List SrcSpec := [srcTyped f.ty f.sa, srcTyped f.ty f.sb, srcTyped f.ty (thirdOf f)]

/-- The table of R246: the exact result under TYPE T, then fit() or lo(). -/
def arithmetic : Instr → Option ResultForm
  | .add _ => some <| laneForm two fun f a b _ => fitOf f.ty (f.mod.getLsbD 0) (valOf f.ty a + valOf f.ty b)
  | .sub _ => some <| laneForm two fun f a b _ => fitOf f.ty (f.mod.getLsbD 0) (valOf f.ty a - valOf f.ty b)
  | .mul _ => some <| laneForm two fun f a b _ => loOf f.ty (valOf f.ty a * valOf f.ty b)
  | .mulhi _ => some <| laneForm two fun f a b _ => loOf f.ty ((valOf f.ty a * valOf f.ty b) / 2 ^ tyBits f.ty)
  | .mad _ => some <| laneForm three fun f a b c =>
      fitOf f.ty (f.mod.getLsbD 0) (valOf f.ty a * valOf f.ty b + valOf f.ty c)
  | .madhi _ => some <| laneForm three fun f a b c =>
      loOf f.ty ((valOf f.ty a * valOf f.ty b + valOf f.ty c) / 2 ^ tyBits f.ty)
  | .min _ => some <| laneForm two fun f a b _ => if valOf f.ty b < valOf f.ty a then b else a
  | .max _ => some <| laneForm two fun f a b _ => if valOf f.ty a ≤ valOf f.ty b then b else a
  | .abs _ => some <| laneForm one fun f a _ _ => fitOf f.ty (f.mod.getLsbD 0) ((valOf f.ty a).natAbs : Int)
  | .neg _ => some <| laneForm one fun f a _ _ => fitOf f.ty (f.mod.getLsbD 0) (0 - valOf f.ty a)
  | _ => none

/-- The tables of R248 to R250 whose rule is a rule for each bit: bit i of the result, from the bits of the
sources, with w the width of TYPE. -/
def bitwise : Instr → Option ((Fields → List SrcSpec) × (Fields → DWord → DWord → DWord → Nat → Bool))
  | .andb _ => some (two, fun _ a b _ i => a.getLsbD i && b.getLsbD i)
  | .orb _ => some (two, fun _ a b _ i => a.getLsbD i || b.getLsbD i)
  | .xorb _ => some (two, fun _ a b _ i => a.getLsbD i != b.getLsbD i)
  | .notb _ => some (one, fun _ a _ _ i => !a.getLsbD i)
  | .andn _ => some (two, fun _ a b _ i => a.getLsbD i && !b.getLsbD i)
  | .shl _ => some (fun f => [srcTyped f.ty f.sa, srcRaw f.sb], fun _ a c _ i =>
      let n := c.toNat % 2 ^ 32
      decide (n ≤ i) && a.getLsbD (i - n))
  | .shr _ => some (fun f => [srcTyped f.ty f.sa, srcRaw f.sb], fun f a c _ i =>
      let n := c.toNat % 2 ^ 32
      decide (i + n < tyBits f.ty) && a.getLsbD (i + n))
  | .sar _ => some (fun f => [srcTyped f.ty f.sa, srcRaw f.sb], fun f a c _ i =>
      let n := c.toNat % 2 ^ 32
      a.getLsbD (if i + n < tyBits f.ty then i + n else tyBits f.ty - 1))
  | .rol _ => some (fun f => [srcTyped f.ty f.sa, srcRaw f.sb], fun f a c _ i =>
      a.getLsbD ((i + tyBits f.ty - c.toNat % 2 ^ 32 % tyBits f.ty) % tyBits f.ty))
  | .bfx _ => some (fun f => [srcTyped f.ty f.sa, srcRaw f.sb, srcRaw (thirdOf f)], fun f a b c i =>
      let pos := b.toNat % 256
      let len := min (c.toNat % 256) (tyBits f.ty)
      let bit (k : Nat) : Bool := if k < tyBits f.ty then a.getLsbD k else f.ty.signed && a.getLsbD (tyBits f.ty - 1)
      if len = 0 then false else if i < len then bit (pos + i) else f.ty.signed && bit (pos + len - 1))
  | .bfi _ => some (fun f => [srcTyped f.ty f.sa, srcTyped f.ty f.sb, srcRaw (thirdOf f)], fun f a b c i =>
      let pos := c.toNat % 256
      let len := min (c.toNat / 256 % 256) (tyBits f.ty)
      if pos ≤ i ∧ i < pos + len then b.getLsbD (i - pos) else a.getLsbD i)
  | .brev _ => some (one, fun f a _ _ i => a.getLsbD (tyBits f.ty - 1 - i))
  | _ => none

/-- Bit j of a value of width w, from the top down. -/
def fromTop (f : Fields) (a : DWord) : List Bool := (List.range (tyBits f.ty)).reverse.map a.getLsbD
/-- The bits of a value of width w, from the bottom up. -/
def fromBottom (f : Fields) (a : DWord) : List Bool := (List.range (tyBits f.ty)).map a.getLsbD

/-- The counts and the byte permutation of R250. -/
def counts : Instr → Option ResultForm
  | .popc _ => some <| wordForm one fun f a _ _ => w64 ((fromBottom f a).count true)
  | .clz _ => some <| wordForm one fun f a _ _ => w64 ((fromTop f a).takeWhile (!·)).length
  | .ctz _ => some <| wordForm one fun f a _ _ => w64 ((fromBottom f a).takeWhile (!·)).length
  | .bperm _ => some <| wordForm (fun f => [srcRaw f.sa, srcRaw f.sb]) fun _ a b _ =>
      let byte (i : Nat) : BitVec 8 :=
        let n : BitVec 4 := b.extractLsb' (4 * i) 4
        let x : BitVec 8 := a.extractLsb' (8 * (n.toNat % 4)) 8
        if n.getLsbD 3 then 0 else if n.getLsbD 2 then (if x.getLsbD 7 then 255 else 0) else x
      (byte 3 ++ byte 2 ++ byte 1 ++ byte 0 : BitVec 32).setWidth 64
  | _ => none

/-- Selection, comparison and the predicate forms (R251 to R253), and `mov` (R254). -/
def selects : Instr → Option ResultForm
  | .sel _ => some <| laneForm (fun f => [srcTyped f.ty f.sa, srcTyped f.ty f.sb, srcRaw (thirdOf f)])
      fun _ a b c => if c.setWidth 32 ≠ 0#32 then a else b
  | .setp _ => some <| wordForm two fun f a b _ =>
      let x := valOf f.ty a
      let y := valOf f.ty b
      let holds : Bool := match f.mod.toNat with
        | 0 => x = y
        | 1 => !(decide (x = y))
        | 2 => decide (x < y)
        | 3 => decide (x < y) || decide (x = y)
        | 4 => decide (y < x)
        | _ => decide (y < x) || decide (x = y)
      if holds then 1 else 0
  | .pand _ => some <| wordForm (fun f => [srcRaw f.sa, srcRaw f.sb]) fun _ a b _ => if a ≠ 0 ∧ b ≠ 0 then 1 else 0
  | .por _ => some <| wordForm (fun f => [srcRaw f.sa, srcRaw f.sb]) fun _ a b _ => if a ≠ 0 ∨ b ≠ 0 then 1 else 0
  | .pxor _ => some <| wordForm (fun f => [srcRaw f.sa, srcRaw f.sb]) fun _ a b _ =>
      if (a ≠ 0 ∧ b = 0) ∨ (a = 0 ∧ b ≠ 0) then 1 else 0
  | .pnot _ => some <| wordForm (fun f => [srcRaw f.sa]) fun _ a _ _ => if a = 0 then 1 else 0
  | .mov _ => some <| laneForm one fun _ a _ _ => a
  | _ => none

/-- The two lanes' values of an h2 operation, or the one of any other TYPE in its format. -/
def perElement (t : Ty) (op : Fmt → Nat → Nat → Nat → Nat) (a b c : DWord) : DWord :=
  match t with
  | .h2 =>
    let e (x : DWord) (k : Nat) : Nat := x.toNat / 2 ^ (16 * k) % 2 ^ 16
    w64 (op .f16 (e a 0) (e b 0) (e c 0) + 2 ^ 16 * op .f16 (e a 1) (e b 1) (e c 1))
  | t =>
    match tyFmt t with
    | none => 0
    | some g => w64 (op g (a.toNat % 2 ^ tyBits t) (b.toNat % 2 ^ tyBits t) (c.toNat % 2 ^ tyBits t))

/-- MOD[1:0], the rounding mode. -/
def modeOf (f : Fields) : Nat := f.mod.toNat % 4

/-- The floating-point and transcendental forms (R287 to R294). -/
def floats : Instr → Option ResultForm
  | .fadd _ => some <| laneForm two fun f a b _ => perElement f.ty (fun g x y _ => faddBits g (modeOf f) x y) a b 0
  | .fsub _ => some <| laneForm two fun f a b _ => perElement f.ty (fun g x y _ => fsubBits g (modeOf f) x y) a b 0
  | .fmul _ => some <| laneForm two fun f a b _ => perElement f.ty (fun g x y _ => fmulBits g (modeOf f) x y) a b 0
  | .ffma _ => some <| laneForm three fun f a b c => perElement f.ty (fun g x y z => ffmaBits g (modeOf f) x y z) a b c
  | .fmin _ => some <| laneForm two fun f a b _ => perElement f.ty (fun g x y _ => fminmax g false x y) a b 0
  | .fmax _ => some <| laneForm two fun f a b _ => perElement f.ty (fun g x y _ => fminmax g true x y) a b 0
  | .fneg _ => some <| laneForm one fun f a _ _ => perElement f.ty (fun g x _ _ => x ^^^ 2 ^ g.magBits) a 0 0
  | .fsetp _ => some <| wordForm two fun f a b _ =>
      let r (g : Fmt) (x y : Nat) : Nat := if fcmpHolds f.mod.toNat (g.decode x) (g.decode y) then 1 else 0
      match f.ty with
      | .h2 =>
        let e (x : DWord) (k : Nat) : Nat := x.toNat / 2 ^ (16 * k) % 2 ^ 16
        w64 (r .f16 (e a 0) (e b 0) + 2 * r .f16 (e a 1) (e b 1))
      | t => match tyFmt t with | none => 0 | some g => w64 (r g a.toNat b.toNat)
  | .fclass _ => some <| wordForm one fun f a _ _ =>
      (w32 (perElement f.ty (fun g x _ _ => fclassBits g x) a 0 0).toNat).setWidth 64
  | .frnd _ => some <| laneForm one fun f a _ _ => perElement f.ty (fun g x _ _ => frndBits g (modeOf f) x) a 0 0
  | .fscale _ => some <| laneForm (fun f => [srcTyped f.ty f.sa, srcRaw f.sb]) fun f a n _ =>
      perElement f.ty (fun g x _ _ => fscaleBits g (modeOf f) x ((n.setWidth 32).toInt)) a 0 0
  | .fdot2 _ => some <| wordForm (fun f => [srcTyped f.ty f.sa, srcTyped f.ty f.sb, srcRaw (thirdOf f)])
      fun f a b c => (w32 (fdot2Bits (if f.ty = .bf16 then .bf16 else .f16) (modeOf f) a.toNat b.toNat
        (c.toNat % 2 ^ 32))).setWidth 64
  | .frcp _ => some <| laneForm one fun f a _ _ => perElement f.ty (fun g x _ _ => Transc.rcp.apply g x) a 0 0
  | .frsq _ => some <| laneForm one fun f a _ _ => perElement f.ty (fun g x _ _ => Transc.rsq.apply g x) a 0 0
  | .fsqrt _ => some <| laneForm one fun f a _ _ => perElement f.ty (fun g x _ _ => fsqrtBits g (modeOf f) x) a 0 0
  | .fexp2 _ => some <| laneForm one fun f a _ _ => perElement f.ty (fun g x _ _ => Transc.exp2.apply g x) a 0 0
  | .flog2 _ => some <| laneForm one fun f a _ _ => perElement f.ty (fun g x _ _ => Transc.log2.apply g x) a 0 0
  | .fsin _ => some <| laneForm one fun f a _ _ => perElement f.ty (fun g x _ _ => Transc.sin.apply g x) a 0 0
  | .fcos _ => some <| laneForm one fun f a _ _ => perElement f.ty (fun g x _ _ => Transc.cos.apply g x) a 0 0
  | .ftanh _ => some <| laneForm one fun f a _ _ => perElement f.ty (fun g x _ _ => Transc.tanh.apply g x) a 0 0
  | _ => none

/-- The lanes that take part and whose value is true. -/
def trueLanes (w : Who) (a : Nat → DWord) : List Nat := w.act.filter fun i => (a i).setWidth 32 ≠ 0#32

/-- The exchanges between lanes (R297 to R301). -/
def exchanges : Instr → Option ResultForm
  | .shfl _ => some ⟨fun f => [srcTyped f.ty f.sa, srcRaw f.sb], fun f => f.ty.wide, fun f => f.ty.signed,
      fun w f x j =>
        let k := (x 1 j).toNat % 2 ^ 32
        let src : Option Nat := match f.mod.toNat with
          | 0 => some (k % 32)
          | 1 => if k ≤ j then some (j - k) else none
          | 2 => if j + k ≤ 31 then some (j + k) else none
          | _ => some (j ^^^ (k % 32))
        match src with
        | some i => if i ∈ w.act then x 0 i else x 0 j
        | none => x 0 j⟩
  | .vote _ => some ⟨fun f => [srcRaw f.sa], fun _ => false, fun _ => false, fun w f x _ =>
      let n := (trueLanes w (x 0)).length
      let yes : Bool := match f.mod.toNat with
        | 0 => n = w.act.length
        | 1 => n ≠ 0
        | _ => n = 0 || n = w.act.length
      if yes then 1 else 0⟩
  | .ballot _ => some ⟨fun f => [srcRaw f.sa], fun _ => false, fun _ => false, fun w _ x _ =>
      (laneMask (trueLanes w (x 0))).setWidth 64⟩
  | .redadd _ => some ⟨one, fun f => f.ty.wide, fun f => f.ty.signed, fun w f x _ =>
      if f.ty = .f32 then
        w64 (treeSum 5 ((List.range 32).map fun i => if i ∈ w.act then (x 0 i).toNat else 0x80000000))
      else loOf f.ty (w.act.map fun i => valOf f.ty (x 0 i)).sum⟩
  | .redmax _ => some ⟨one, fun f => f.ty.wide, fun f => f.ty.signed, fun w f x _ =>
      let top := w.act.tail.foldl (fun m i => extremum f.ty true m (x 0 i)) (x 0 w.low)
      if f.ty = .f32 ∧ Fmt.f32.decode top.toNat = .nan then w64 Fmt.f32.nanCode else top⟩
  | .scan _ => some ⟨one, fun f => f.ty.wide, fun f => f.ty.signed, fun w f x j =>
      let lane := match f.dst with | .s _ => w.act.getLast?.getD 0 | _ => j
      let upTo := w.act.takeWhile fun i => i ≠ lane
      let l := if f.mod.getLsbD 0 then upTo else upTo ++ [lane]
      match l.map (x 0) with
      | [] => scanIdentity (f.mod.toNat / 2) f.ty
      | a :: rest => rest.foldl (scanCombine (f.mod.toNat / 2) f.ty) a⟩
  | _ => none

/-- Every form whose one effect is a result written to its destination, but for those of `bitwise`. -/
def resultForm (i : Instr) : Option ResultForm :=
  arithmetic i <|> counts i <|> selects i <|> floats i <|> exchanges i

/-- A result form executes: whatever its sources gave, the result that `k` says is written to DST, and
nothing else happens beyond the sources' own reads. -/
def Writes (table : Instr → Option ResultForm) : Prop :=
  ∀ (i : Instr) (k : ResultForm) (s s₁ t : State) (w : Who) (fm : Form) (f : Fields)
    (vals : List (Nat → DWord)),
    table i = some k → Issues i s w fm f →
    readSrcs w f.imm (k.srcs f) (onward s w fm) = .ok (vals, s₁) →
    writeDst w f.dst (k.wide f) (k.signed f) (k.value w f fun n => vals.getD n fun _ => 0) s₁ = .ok ((), t) →
    exec i s = .next t

end Sys2Proof.Claims

open Sys2Proof Sys2Proof.Machine Sys2Proof.Claims

/-! ## Encodings -/

/-- DECODE AND ENCODE AGREE (R16, R28, R48): the word of a well-formed instruction of any form, with every operand at
every value the encoding admits, decodes to that instruction. -/
def Obligations.DecodeOfEncode : Prop :=
  ∀ (i : Instr) (w : BitVec 96), i.wellFormed = true → encode i = some w → decode w = .ok i

/-- EACH WORD HAS ONE MEANING (R16, R30, R31, R51): a word that decodes is the word that its instruction encodes to,
and the instruction is well formed; decoding the word of a well-formed clause header gives it back, and a word that is
accepted as a header is the word of a well-formed one. -/
def Obligations.EncodeOfDecode : Prop :=
  (∀ (w : BitVec 96) (i : Instr), decode w = .ok i → i.wellFormed = true ∧ encode i = some w) ∧
  (∀ h : Header, h.wellFormed = true → decodeHeader (encodeHeader h) = some h) ∧
    ∀ (x : BitVec 96) (h : Header), decodeHeader x = some h → h.wellFormed = true ∧ encodeHeader h = x

/-! ## Register forms -/

/-- PLAIN SOURCES ARE READ AS THEY STAND (R19 to R22, R24, R243, R244): sources that are registers of the issuer,
immediates, or special registers other than `$dq` to which the manual gives a value in this agent are read without
changing the machine, each lane taking its own register, its group's scalar, the immediate or the special register. -/
def Obligations.PlainSourcesRead : Prop :=
  ∀ (s : State) (w : Who) (imm : BitVec 32) (l : List SrcSpec),
    (∀ sp ∈ l, plainSrc w sp.opnd = true ∨ ∃ r, sp.opnd = .spec r ∧ r ≠ .dq ∧ (s.special w 0 r).isSome = true) →
    readSrcs w imm l s = .ok (l.map fun sp => srcValue s w imm sp, s)

/-- A RESULT LANDS IN ITS DESTINATION AND NOWHERE ELSE (R17, R22, R24, R242): for a destination that is a register or
predicate of the issuer the write succeeds; every register that the destination names for a lane that takes part holds
that lane's result (a pair its two words, a k register the extended result, a scalar the lowest lane's, p15 stays
true); every other register and predicate of the issuer, and everything else of the machine, is unchanged. -/
def Obligations.ResultLands : Prop :=
  ∀ (s : State) (w : Who) (o : Opnd) (wide signed : Bool) (v : Nat → DWord),
    plainDst w o = true → w.takesPart = true → (w.front = true → ∃ p, s.prog? w.agent = some p) →
    (w.front = false → ∃ g, s.group? w.agent = some g ∧ g.lanes.length = 32) →
    (∀ i ∈ w.act, i < 32) → w.act.Nodup →
    ∃ t, writeDst w o wide signed v s = .ok ((), t) ∧
      (∀ e ∈ landings w o wide signed v, ∀ n j, e.1 ≠ .p n j →
        readRef t w e.1 = e.2) ∧
      (∀ e ∈ landings w o wide signed v, ∀ n j, e.1 = .p n j →
        readRef t w e.1 = if j = 15 then 1 else e.2) ∧
      (∀ r, r ∉ (destRefs w o wide).map (·.2) → readRef t w r = readRef s w r) ∧
      (∃ g p, t = (s.updGroup w.agent g).updProg w.agent p) ∧
      (∀ n, (t.groupOf w).flag n = (s.groupOf w).flag n ∧ (t.progOf w).flag n = (s.progOf w).flag n) ∧
      (t.groupOf w).w = (s.groupOf w).w ∧ (t.groupOf w).quads = (s.groupOf w).quads

/-! ## Results of the register forms -/

/-- INTEGER ARITHMETIC (R246): each form executes and writes the exact result of its operands read under TYPE, fitted,
cut to the low half, or its high half. -/
def Obligations.IntegerArithmetic : Prop := Writes arithmetic

/-- ADD WITH CARRY (R247). In a lane p13 goes in, the carry of the unsigned sum comes out in p13 of every lane that
takes part, and DST is written after p13. A program of the front thread has no predicate: the carry that goes in is a
free value, one bit for the instruction, and none comes out. Where a clause rests on a choice of the model, see log
entry 13. -/
def Obligations.AddWithCarry : Prop :=
  ∀ (s s₁ : State) (w : Who) (fm : Form) (f : Fields) (a b : Nat → DWord),
    Issues (.addc f) s w fm f → readSrcs w f.imm (two f) (onward s w fm) = .ok ([a, b], s₁) →
    let n := 2 ^ tyBits f.ty
    let lane (i : Nat) : Nat := match f.dst with | .s _ => w.low | _ => i
    let sum (carry : Nat → Bool) (i : Nat) : Nat :=
      (a (lane i)).toNat % n + (b (lane i)).toNat % n + (if carry (lane i) then 1 else 0)
    (w.front = false → let c (i : Nat) : Bool := ((s₁.groupOf w).lane i).pred 13
      ∀ t, writeDst w f.dst f.ty.wide f.ty.signed (fun i => w64 (sum c i % n))
          (s₁.updGroup w.agent fun g => g.updLanes w.act fun i l => l.setPred 13 (decide (n ≤ sum c i))) = .ok ((), t) →
        exec (.addc f) s = .next t) ∧
    (w.front = true → ∃ c : Bool, ∀ t,
      writeDst w f.dst f.ty.wide f.ty.signed (fun i => w64 (sum (fun _ => c) i % n)) { s₁ with free := s₁.free + 1 } =
        .ok ((), t) → exec (.addc f) s = .next t)

/-- LOGIC, SHIFTS AND BIT FIELDS (R248, R249, and `brev` of R250), bit by bit: each form executes and writes a value
whose bits below the width of TYPE are those of its rule. -/
def Obligations.BitForms : Prop :=
  ∀ (i : Instr) (srcs : Fields → List SrcSpec) (bit : Fields → DWord → DWord → DWord → Nat → Bool)
    (s s₁ : State) (w : Who) (fm : Form) (f : Fields) (vals : List (Nat → DWord)),
    bitwise i = some (srcs, bit) → Issues i s w fm f →
    readSrcs w f.imm (srcs f) (onward s w fm) = .ok (vals, s₁) →
    ∃ r : Nat → DWord,
      (∀ j k, k < tyBits f.ty → (r j).getLsbD k =
        bit f (vals.getD 0 (fun _ => 0) j) (vals.getD 1 (fun _ => 0) j) (vals.getD 2 (fun _ => 0) j) k) ∧
      ∀ t, writeDst w f.dst f.ty.wide f.ty.signed r s₁ = .ok ((), t) → exec i s = .next t

/-- COUNTS AND THE BYTE PERMUTATION (R250): the number of set bits, of zero bits above the highest and below the
lowest set bit (the width where there is none), and the bytes that the nibbles choose. -/
def Obligations.CountForms : Prop := Writes counts

/-- SELECT, COMPARE, PREDICATES AND MOVE (R251 to R254). -/
def Obligations.SelectForms : Prop := Writes selects

/-- CONSTANTS, ADDRESSES AND SPECIAL REGISTERS (R255 to R258): `movi` executes and writes one half of its destination,
the other half keeping its value; `lea` executes and gives the effective address, a window address of a lane turned
into what the window leads to; `swr` executes, keeps the lowest lane's value as the starting index of the gang's next
instruction, and changes no register; `srd` whose lanes name registers other than `$dq` executes and gives each lane
the register of its index, 0 for an index that R20 does not list, and a free value for a register to which the manual
gives no value in this agent; `srd` whose lanes all name `$dq`, with a source that pops nothing, executes, pops the
decision queue once and gives each lane the decision, p14 saying whether it got one. Where a clause rests on a choice of
the model, see log entry 15. -/
def Obligations.MoveForms : Prop :=
  (∀ (s : State) (w : Who) (fm : Form) (f : Fields), Issues (.movi f) s w fm f → plainDst w f.dst = true →
    ∃ t, exec (.movi f) s = .next t ∧
      (∀ e ∈ dstRefs w f.dst, ∀ (i n : Nat), w.act.contains i = true → i < 32 →
        ((s.groupOf w).lanes.length = 32) →
        (e.2 = .v i n → readRef t w (.v i (if f.mod.getLsbD 0 then n + 1 else n)) = f.imm.setWidth 64 ∧
          readRef t w (.v i (if f.mod.getLsbD 0 then n else n + 1)) =
            readRef s w (.v i (if f.mod.getLsbD 0 then n else n + 1)))) ∧
      (∀ n, f.dst = .s n → readRef t w (.s (if f.mod.getLsbD 0 then n.toNat + 1 else n.toNat)) = f.imm.setWidth 64 ∧
        readRef t w (.s (if f.mod.getLsbD 0 then n.toNat else n.toNat + 1)) =
          readRef s w (.s (if f.mod.getLsbD 0 then n.toNat else n.toNat + 1))) ∧
      (∀ n, f.dst = .k n → readRef t w (.k n.toNat) =
        if f.mod.getLsbD 0 then f.imm ++ (readRef s w (.k n.toNat)).setWidth 32
        else ((readRef s w (.k n.toNat)).extractLsb' 32 32) ++ f.imm)) ∧
  (∀ (s s₁ t : State) (w : Who) (fm : Form) (f : Fields) (ea : Nat → Nat),
    Issues (.lea f) s w fm f → readEa w f (onward s w fm) = .ok (ea, s₁) →
    writeDst w f.dst true false (fun i => w64 (if w.front = false ∧ inWindow (ea i) = true
      then s₁.windowTarget w i (ea i - Config.privBase) else ea i)) s₁ = .ok ((), t) →
    exec (.lea f) s = .next t) ∧
  (∀ (s s₁ : State) (w : Who) (fm : Form) (f : Fields) (a : Nat → DWord),
    Issues (.swr f) s w fm f → readSrcs w f.imm [srcRaw f.sa] (onward s w fm) = .ok ([a], s₁) →
    ∃ t, exec (.swr f) s = .next t ∧ (∀ r, readRef t w r = readRef s₁ w r) ∧
      ((s₁.group? w.agent).isSome → (t.groupOf w).pix = (a w.low).toNat % 2 ^ 32 ∧
        (t.groupOf w).pixBy = some w.latch.gang)) ∧
  (∀ (s s₁ s₂ t : State) (w : Who) (fm : Form) (f : Fields) (a d : Nat → DWord) (got : Nat → Bool),
    Issues (.srd f) s w fm f → readSrcs w f.imm [srcRaw f.sa] (onward s w fm) = .ok ([a], s₁) →
    popsNothing w f.sa = true → (∀ i ∈ w.low :: w.act, (a i).toNat % 2 ^ 32 = 266) →
    popDecision w s₁ = .ok ((d, got), s₂) →
    let s₃ : State := s₂.updGroup w.agent fun y => y.updLanes w.act fun i l => l.setPred 14 (got i)
    writeDst w f.dst false false (fun i => ((d i).setWidth 32).setWidth 64) { s₃ with free := s₃.free + 1 } =
      .ok ((), t) →
    exec (.srd f) s = .next t) ∧
  ∀ (s s₁ t : State) (w : Who) (fm : Form) (f : Fields) (a : Nat → DWord),
    Issues (.srd f) s w fm f → readSrcs w f.imm [srcRaw f.sa] (onward s w fm) = .ok ([a], s₁) →
    let lane (i : Nat) : Nat := match f.dst with | .s _ => w.low | _ => i
    (∀ i ∈ w.low :: w.act, (a (lane i)).toNat % 2 ^ 32 ≠ 266) →
    writeDst w f.dst false false (fun i =>
      match Sreg.ofIndex ((a (lane i)).toNat % 2 ^ 32) with
      | none => 0
      | some r => ((s₁.special w (lane i) r).getD
          (w32 (Config.freeNat (Config.freeNat s₁.free + i)))).setWidth 64)
      { s₁ with free := s₁.free + 1 } = .ok ((), t) →
    exec (.srd f) s = .next t

/-- FLOATING POINT (R285 to R294): each form executes and writes the result of its operation in the format of TYPE,
element by element for h2. Where a clause rests on a choice of the model, see log entry 11. -/
def Obligations.FloatForms : Prop := Writes floats

/-- NaN RULES (R286, R288, R289), in every format: fmin and fmax give the other operand unchanged where exactly one is
a NaN and the canonical NaN where both are; every comparison relation but `.nan` is false with a NaN, and `.nan` is
true; an addition, multiplication or fused multiply-add with a NaN gives the canonical NaN. -/
def Obligations.NaNRules : Prop :=
  ∀ (g : Fmt) (a b c m : Nat), g ∈ [Fmt.f16, Fmt.bf16, Fmt.f32, Fmt.f64] → g.decode a = .nan →
    (g.decode b ≠ .nan → ∀ mx, fminmax g mx a b = b ∧ fminmax g mx b a = b) ∧
    (g.decode b = .nan → ∀ mx, fminmax g mx a b = g.nanCode) ∧
    (∀ rel < 7, fcmpHolds rel (g.decode a) (g.decode b) = false ∧ fcmpHolds rel (g.decode b) (g.decode a) = false) ∧
    fcmpHolds 7 (g.decode a) (g.decode b) = true ∧
    faddBits g m a b = g.nanCode ∧ faddBits g m b a = g.nanCode ∧ fmulBits g m a b = g.nanCode ∧
    ffmaBits g m a b c = g.nanCode ∧ ffmaBits g m b c a = g.nanCode

/-- LANE EXCHANGE (R297 to R301): a shuffle takes the value of the chosen lane where it takes part and the lane's own
otherwise; votes, ballots and reductions give every lane one result over the lanes that take part; a scan combines in
ascending lane order. -/
def Obligations.ExchangeForms : Prop := Writes exchanges

/-- CONVERSIONS AND BLOCKS (R273 to R279). `cvt` executes and converts from its source TYPE to TYPE, h2 to and from a
pair; `cvt8`, `bpack`, `bscale` and `bunpack` execute, and `bunpack` writes no register but its share of lane
registers from DST on. -/
def Obligations.ConvertForms : Prop :=
  (∀ (src : Ty) (s s₁ t : State) (w : Who) (fm : Form) (f : Fields) (a : Nat → DWord),
    Issues (.cvt src f) s w fm f →
    readSrcs w f.imm [if src ≠ .h2 ∧ f.ty = .h2 then srcPair f.sa else srcTyped src f.sa] (onward s w fm) =
      .ok ([a], s₁) →
    let mode := f.mod.toNat % 4
    let sat := f.mod.getLsbD 2
    writeDst w f.dst (decide (src = .h2) || f.ty.wide) (decide (src ≠ .h2 ∧ f.ty ≠ .h2) && f.ty.signed) (fun i =>
      let x := (a i).toNat
      if src = .h2 then w64 (convert .f16 .f32 0 sat (x % 2 ^ 16) +
        2 ^ 32 * convert .f16 .f32 0 sat (x / 2 ^ 16 % 2 ^ 16))
      else if f.ty = .h2 then w64 (convert .f32 .f16 mode sat (x % 2 ^ 32) +
        2 ^ 16 * convert .f32 .f16 mode sat (x / 2 ^ 32))
      else place f.ty (convert src f.ty mode sat x)) s₁ = .ok ((), t) →
    exec (.cvt src f) s = .next t) ∧
  (∀ (s s₁ t : State) (w : Who) (fm : Form) (f : Fields) (a c : Nat → DWord),
    Issues (.cvt8 f) s w fm f →
    readSrcs w f.imm [srcTyped f.ty f.sa, srcRaw f.sb] (onward s w fm) = .ok ([a, c], s₁) →
    writeDst w f.dst false false (fun i =>
      match Fmt.b8 ((c i).toNat % 256) with
      | none => 0
      | some b =>
        let g := (tyFmt f.ty).getD .f32
        let code : Nat := match f.sa with
          | .immL => f.imm.toNat % 256
          | .immS x => (x.signExtend 32).toNat % 256
          | _ => (a i).toNat % 256
        (w32 (if (c i).getLsbD 8 then g.round (f.mod.toNat % 4) (f.mod.getLsbD 2) (b.decode code)
          else b.round (f.mod.toNat % 4) (f.mod.getLsbD 2) (g.decode ((a i).toNat % 2 ^ tyBits f.ty)))).setWidth 64)
      s₁ = .ok ((), t) →
    exec (.cvt8 f) s = .next t) ∧
  (∀ (s s₁ t : State) (w : Who) (fm : Form) (f : Fields) (a b : Nat → DWord),
    Issues (.bscale f) s w fm f →
    readSrcs w f.imm [srcRaw f.sa, srcRaw f.sb] (onward s w fm) = .ok ([a, b], s₁) →
    writeDst w f.dst false false (fun i =>
      let scale := (a i).toNat / 256 % 256
      let new : Int := scale + ((b i).setWidth 32).toInt
      w64 ((if scale = 255 then 255 else if new < 0 then 0 else if 254 < new then 254 else new.toNat) * 256 +
        (a i).toNat % 256)) s₁ = .ok ((), t) →
    exec (.bscale f) s = .next t) ∧
  (∀ (s s₁ : State) (w : Who) (fm : Form) (f : Fields) (c : Nat → DWord),
    Issues (.bpack f) s w fm f → plainDst w f.dst = true →
    readSrcs w f.imm [srcRaw f.sb] (onward s w fm) = .ok ([c], s₁) →
    ∃ (r : Nat → Word) (t : State), exec (.bpack f) s = .next t ∧
      writeDst w f.dst false false (fun i => (r i).setWidth 64) s₁ = .ok ((), t) ∧
      (elemOf ((c w.low).toNat % 256) = none → ∀ i, r i = 0) ∧
      ∀ e, elemOf ((c w.low).toNat % 256) = some e → ∀ i, (r i).toNat / 2 ^ 16 % 256 = (c w.low).toNat % 256) ∧
  ∀ (s s₁ : State) (w : Who) (fm : Form) (f : Fields) (a c : Nat → DWord),
    Issues (.bunpack f) s w fm f →
    readSrcs w f.imm [srcRaw f.sa, srcRaw f.sb] (onward s w fm) = .ok ([a, c], s₁) →
    ∃ t, exec (.bunpack f) s = .next t ∧
      ∀ r, (∀ i ∈ w.act, ∀ n, r = .v i n → n < laneIndex f.dst ∨ laneIndex f.dst + 4 ≤ n) →
        readRef t w r = readRef s₁ w r

/-- THE FRAME OF THE REGISTER FORMS: whenever a result form or a bit form, with sources that pop nothing and a plain
destination, executes, every register and predicate of the issuer but those that DST names stays as it was, and so do
its flags, its window, memory, every other core and every other team; the issuer's own group or program moves on. -/
def Obligations.RegisterFormFrame : Prop :=
  ∀ (i : Instr) (k : ResultForm) (s t : State) (w : Who) (fm : Form) (f : Fields) (wide : Bool),
    ((resultForm i = some k ∧ wide = k.wide f) ∨ (∃ b, bitwise i = some (k.srcs, b)) ∧ wide = f.ty.wide) →
    Issues i s w fm f →
    (∀ sp ∈ k.srcs f, popsNothing w sp.opnd = true) → plainDst w f.dst = true → exec i s = .next t →
    (∀ r, r ∉ (destRefs w f.dst wide).map (·.2) → readRef t w r = readRef s w r) ∧
      (∀ n, (t.groupOf w).flag n = (s.groupOf w).flag n ∧ (t.progOf w).flag n = (s.progOf w).flag n) ∧
      (t.groupOf w).w = (s.groupOf w).w ∧
      t.mem = s.mem ∧ t.tags = s.tags ∧ t.poison = s.poison ∧ t.lines = s.lines ∧ t.slices = s.slices ∧
      t.parts = s.parts ∧ t.lives = s.lives ∧ t.launches = s.launches ∧ t.ops = s.ops ∧ t.cyc = s.cyc ∧
      (∀ c, c ≠ w.core → (∀ x, s.team? w.team = some x → c ≠ x.core) → t.core c = s.core c) ∧
      ∀ n, n ≠ w.team → t.team? n = s.team? n

/-! ## Control flow -/

/-- What a transfer of an executed instruction leaves (R335): every lane that takes part, or the program,
stands at its target's clause start, and no register, predicate or other lane has changed. -/
structure Sent (s t : State) (w : Who) (target : Nat → Nat) : Prop where
  lanes : w.front = false → ∀ i ∈ w.act, i < (s.groupOf w).lanes.length →
    ((t.groupOf w).lane i).pc = target i % 2 ^ 56 ∧ ((t.groupOf w).lane i).base = target i % 2 ^ 56
  prog : w.front = true → (t.progOf w).pc = target 0 % 2 ^ 56 ∧ (t.progOf w).base = target 0 % 2 ^ 56
  others : ∀ i, i ∉ w.act → (t.groupOf w).lane i = (s.groupOf w).lane i
  regs : ∀ r, readRef t w r = readRef s w r
  mem : t.mem = s.mem ∧ t.ops = s.ops

/-- The clause-unit target of R42: IMM clauses of 48 bytes from the clause's own start. -/
def unitTargetOf (w : Who) (f : Fields) : Nat := ((w.latch.start + 48 * f.imm.toInt) % 2 ^ 56).toNat

/-- TRANSFERS (R42, R335 to R338, R350): `nop` only moves on; `bra` sends every lane that takes part to its
clause-unit target; `brx` to its clause's start plus its operand, a signed multiple of 48, and `jmpx` to its operand,
a multiple of 48; `bru` transfers the front context where its operand's low word is not zero, and otherwise only moves
on. Where a clause rests on a choice of the model, see log entry 16. -/
def Obligations.Transfers : Prop :=
  ∀ (s : State) (w : Who) (fm : Form) (f : Fields),
    (Issues (.nop f) s w fm f → exec (.nop f) s = .next (onward s w fm)) ∧
    (Issues (.bra f) s w fm f → ∃ t, exec (.bra f) s = .next t ∧
      Sent (onward s w fm) t w fun _ => unitTargetOf w f) ∧
    (∀ (a : Nat → DWord) (s₁ : State), Issues (.brx f) s w fm f →
      readSrcs w f.imm [srcPair f.sa] (onward s w fm) = .ok ([a], s₁) → (∀ i ∈ w.actors, (a i).toInt % 48 = 0) →
      ∃ t, exec (.brx f) s = .next t ∧ Sent s₁ t w fun i => w.latch.start + (a i).toNat) ∧
    (∀ (a : Nat → DWord) (s₁ : State), Issues (.jmpx f) s w fm f →
      readSrcs w f.imm [srcPair f.sa] (onward s w fm) = .ok ([a], s₁) → (∀ i ∈ w.actors, (a i).toNat % 48 = 0) →
      ∃ t, exec (.jmpx f) s = .next t ∧ Sent s₁ t w fun i => (a i).toNat) ∧
    ∀ (a : Nat → DWord) (s₁ : State), Issues (.bru f) s w fm f →
      readSrcs w f.imm [srcRaw f.sa] (onward s w fm) = .ok ([a], s₁) →
      ((a 0).setWidth 32 = 0#32 → exec (.bru f) s = .next s₁) ∧
      ((a 0).setWidth 32 ≠ 0#32 → ∃ t, exec (.bru f) s = .next t ∧ Sent s₁ t w fun _ => unitTargetOf w f)

/-- MISALIGNED TARGETS (R43): `brx`, `jmpx`, `callx` and `reform` with an operand that is not a multiple of 48 in some
lane that takes part (signed, for the offset of `brx`) do not execute: ALIGN with cause 3 is taken at the instruction,
over exactly the lanes that fail, with the target of the lowest of them. Where a clause rests on a choice of the model,
see log entry 16. -/
def Obligations.MisalignedTarget : Prop :=
  ∀ (i : Instr) (s s₁ : State) (w : Who) (fm : Form) (f : Fields) (a : Nat → DWord),
    i ∈ [.brx f, .jmpx f, .callx f, .reform f] → Issues i s w fm f →
    readSrcs w f.imm [srcPair f.sa] (onward s w fm) = .ok ([a], s₁) →
    let off (j : Nat) : Bool := match i with
      | .brx _ => decide ((a j).toInt % 48 ≠ 0)
      | _ => decide ((a j).toNat % 48 ≠ 0)
    ∀ j rest, w.actors.filter off = j :: rest →
    exec i s = .next (s.raiseTrap w true
      { kind := kALIGN, cause := 3, mask := w.failMask (j :: rest), addr := match i with
        | .brx _ => (w.latch.start + (a j).toNat) % 2 ^ 56
        | _ => (a j).toNat })

/-- CALLS AND RETURNS (R337 to R339). In the front context a `call` pushes the address of the next clause on its stack
and transfers, a `callx` the same to its operand, and a `ret` pops it and transfers there; with an empty stack `ret`
acts as `exit`. In lanes, where the frame takes the return address, `call` and `callx` transfer; a `ret` of lanes
whose return depth is 0 ends them, and one whose frames give clause starts sends each lane there with its depth
lowered. -/
def Obligations.CallsAndReturns : Prop :=
  ∀ (s : State) (w : Who) (fm : Form) (f : Fields),
    (∀ s₁, Issues (.call f) s w fm f → pushReturn w (onward s w fm) = .ok ((), s₁) →
      ∃ t, exec (.call f) s = .next t ∧ Sent s₁ t w fun _ => unitTargetOf w f) ∧
    (∀ (a : Nat → DWord) (s₁ s₂ : State), Issues (.callx f) s w fm f →
      readSrcs w f.imm [srcPair f.sa] (onward s w fm) = .ok ([a], s₁) → (∀ i ∈ w.actors, (a i).toNat % 48 = 0) →
      pushReturn w s₁ = .ok ((), s₂) →
      ∃ t, exec (.callx f) s = .next t ∧ Sent s₂ t w fun i => (a i).toNat) ∧
    (w.front = true → ∃ t, pushReturn w (onward s w fm) = .ok ((), t) ∧
      ((s.prog? w.agent).isSome → (t.progOf w).stack.getLast? = some w.next ∧ (t.progOf w).stack.length ≤ 
        max 16 (s.progOf w).stack.length)) ∧
    (Issues (.ret f) s w fm f → w.front = true → (s.progOf w).stack = [] →
      exec (.ret f) s = .next ((onward s w fm).exitProg w.agent)) ∧
    (∀ a, Issues (.ret f) s w fm f → w.front = true → (s.progOf w).stack.getLast? = some a →
      ∃ t, exec (.ret f) s = .next t ∧ (t.progOf w).pc = a % 2 ^ 56 ∧
        (t.progOf w).stack = (s.progOf w).stack.dropLast) ∧
    (Issues (.ret f) s w fm f → w.front = false → (∀ i ∈ w.act, ((s.groupOf w).lane i).rsd = 0) →
      exec (.ret f) s = .next ((onward s w fm).endLanes w w.act)) ∧
    ∀ (got : List (List Byte × Bool)) (s₁ : State), Issues (.ret f) s w fm f → w.front = false →
      (∀ i ∈ w.act, ((s.groupOf w).lane i).rsd ≠ 0) → w.act.Nodup →
      let l : List Acc := w.act.map fun i =>
        ⟨i, Config.privBase + 0x3C00 + 8 * ((((s.groupOf w).lane i).rsd - 1) % 128),
          s.windowTarget w i (0x3C00 + 8 * ((((s.groupOf w).lane i).rsd - 1) % 128))⟩
      accessFault (onward s w fm) w 8 8 [rightR] false l = none →
      collectM l (fun a => genRead w a.va 8 .near) (onward s w fm) = .ok (got, s₁) →
      (∀ e ∈ got, leOf e.1 % 48 = 0 ∧ e.2 = false) →
      ∃ t, exec (.ret f) s = .next t ∧
        ∀ e ∈ w.act.zip got, e.1 < (s₁.groupOf w).lanes.length →
          ((t.groupOf w).lane e.1).pc = leOf e.2.1 % 2 ^ 56 ∧
          ((t.groupOf w).lane e.1).rsd = ((s₁.groupOf w).lane e.1).rsd - 1

/-- LANES AND PROGRAMS THAT END OR ARE FILED (R340, R341, R351): `exit` ends every lane that takes part; in a program
it ends the program, or counts down the rendezvous that waits for it; `reform` with aligned keys moves every lane that
takes part to its key, and a lane that finds a bin leaves its path for it. -/
def Obligations.ExitAndReform : Prop :=
  ∀ (s : State) (w : Who) (fm : Form) (f : Fields),
    (Issues (.exitLane f) s w fm f → w.front = true →
      exec (.exitLane f) s = .next ((onward s w fm).exitProg w.agent)) ∧
    (Issues (.exitLane f) s w fm f → w.front = false → ∃ t, exec (.exitLane f) s = .next t ∧
      (∀ i ∈ w.act, i < (s.groupOf w).lanes.length → ((t.groupOf w).lane i).st = .ended) ∧
      ∀ i, i ∉ w.act → (t.groupOf w).lane i = ((onward s w fm).groupOf w).lane i) ∧
    ∀ (a : Nat → DWord) (s₁ : State), Issues (.reform f) s w fm f →
      readSrcs w f.imm [srcPair f.sa] (onward s w fm) = .ok ([a], s₁) → (∀ i ∈ w.actors, (a i).toNat % 48 = 0) →
      ∃ t, exec (.reform f) s = .next t ∧
        ∀ i ∈ w.act, i < (s₁.groupOf w).lanes.length →
          ((t.groupOf w).lane i).pc = (a i).toNat % 2 ^ 56 ∧
          (((t.groupOf w).lane i).st = .filed ∨ ((t.groupOf w).lane i).st = ((s₁.groupOf w).lane i).st)

namespace Sys2Proof.Claims

/-- A quad outside a gang that stands before the slot after the gang's instruction and is held by nothing: `regang`
takes it into the gang (R342). -/
def Joins (g : Group) (w : Who) (q : Nat) : Prop :=
  q < 8 ∧ q ∉ w.quads ∧ (g.quad q).sleep = none ∧ (g.quad q).await = none ∧ (g.quad q).solo = none ∧
    ∃ l, (g.quad q).latch = some l ∧ l.start = w.latch.start ∧ l.slot = w.latch.slot + 1

/-- Whether a `regang` makes a gang of more than its own quads: it stands before a slot of its clause, runs no single
lane, and some quad joins. -/
def Gathers (g : Group) (w : Who) : Prop :=
  w.latch.slot ≠ w.latch.hdr.count.toNat ∧ (∀ q ∈ w.quads, (g.quad q).solo = none) ∧ ∃ q, Joins g w q

/-- What an instruction of control that moves no lane leaves alone: every register and predicate of the issuer, every
lane of its group, memory, the outstanding operations, and every other team. -/
structure Stays (s t : State) (w : Who) : Prop where
  regs : ∀ r, readRef t w r = readRef s w r
  lanes : ∀ i, (t.groupOf w).lane i = (s.groupOf w).lane i
  mem : t.mem = s.mem ∧ t.ops = s.ops
  teams : ∀ n, n ≠ w.team → t.team? n = s.team? n

end Sys2Proof.Claims

/-- GANGS, SLEEP, DECISIONS AND FORKS (R342 to R345, R349, R351, R383). `regang` executes, takes every quad that stands
before the next slot into its gang, under the gang's name and the oldest age of them all, to start there anew or, in a
halted team whose WAIT passes, to go on to its boundary, and changes nothing of a quad where none joins. `yield` of a
program only moves on; of a gang it makes each of its quads act at its next boundary as if its timer had reached 64,
and younger than every gang of its side. `sleepto` whose largest operand `$cyc` has reached has no effect; otherwise it
sets that deadline for the program, or for each quad of the gang. `ipref` executes, counts the granules of its blocks
outside the lease as dropped, and fetches its other blocks. `decide` pushes its word with the clock where the queue
holds fewer than 64 entries and is held before the instruction otherwise. `fork` writes 1, 2 or 0, starts with 0 the
programs that its operands name, and with 1 or 2 nothing. -/
def Obligations.GangAndFrontForms : Prop :=
  ∀ (s : State) (w : Who) (fm : Form) (f : Fields),
    (Issues (.regang f) s w fm f →
      let g := (onward s w fm).groupOf w
      ∃ t, exec (.regang f) s = .next t ∧ Stays (onward s w fm) t w ∧
        (¬Gathers g w → (t.groupOf w).quads = g.quads) ∧
        (Gathers g w → ∀ q, q < g.quads.length →
          (q ∈ w.quads ∨ Joins g w q → ((t.groupOf w).quad q).latch = (onward s w fm).regangLatch w ∧
            ((t.groupOf w).quad q).gang = w.latch.gang ∧ ((t.groupOf w).quad q).cur = (g.quad q).cur ∧
            (∀ k, k ∈ w.quads ∨ Joins g w k → ((t.groupOf w).quad q).age ≤ (g.quad k).age) ∧
            ∃ k, (k ∈ w.quads ∨ Joins g w k) ∧ ((t.groupOf w).quad q).age = (g.quad k).age) ∧
          (q ∉ w.quads → ¬Joins g w q → (t.groupOf w).quad q = g.quad q))) ∧
    (Issues (.yieldGang f) s w fm f →
      (w.front = true → exec (.yieldGang f) s = .next (onward s w fm)) ∧
      (w.front = false →
        let g := (onward s w fm).groupOf w
        ∃ t a, exec (.yieldGang f) s = .next t ∧ Stays (onward s w fm) t w ∧
          (∀ q, q < g.quads.length → (t.groupOf w).quad q =
            if w.quads.contains q then { g.quad q with force := true, age := a } else g.quad q) ∧
          ∀ n x k y j, (onward s w fm).team? n = some x → x.core = w.core → SMap.get? x.groups k = some y →
            k % 2 = w.g % 2 → j < y.quads.length → (y.quad j).age < a)) ∧
    (∀ (a : Nat → DWord) (s₁ : State) (d : Nat), Issues (.sleepto f) s w fm f →
      readSrcs w f.imm [srcPair f.sa] (onward s w fm) = .ok ([a], s₁) →
      (∀ i ∈ w.actors, (a i).toNat ≤ d) → (∃ i ∈ w.actors, (a i).toNat = d) →
      (d ≤ s₁.cyc → exec (.sleepto f) s = .next s₁) ∧
      (s₁.cyc < d → ∃ t, exec (.sleepto f) s = .next t ∧ Stays s₁ t w ∧
        (w.front = true → (s₁.prog? w.agent).isSome → (t.progOf w).sleep = some d) ∧
        (w.front = false → (s₁.group? w.agent).isSome → ∀ q, q < (s₁.groupOf w).quads.length →
          ((t.groupOf w).quad q).sleep =
            if w.quads.contains q then some d else ((s₁.groupOf w).quad q).sleep))) ∧
    (∀ (a : Nat → DWord) (s₁ t : State), Issues (.ipref f) s w fm f →
      readSrcs w f.imm [srcPair f.sa] (onward s w fm) = .ok ([a], s₁) →
      let first := (w.actors.map fun i => (a i).toNat / 48 * 48).foldl insertNat []
      let blocks := (first.flatMap fun b => (List.range (f.imm.toNat % 65536)).map fun k => b + 48 * k).foldl insertNat []
      let inside := blocks.filter fun b => s₁.inLease w b 48 [rightX]
      let lost := ((blocks.filter fun b => !(s₁.inLease w b 48 [rightX])).flatMap fun b =>
        [b / 65536, (b + 47) / 65536]).foldl insertNat []
      each inside (fun b => fetchBlock w (f.imm.toNat / 65536 % 4) b)
        (s₁.updPart w.part fun p => { p with dropspec := p.dropspec + w64 lost.length }) = .ok ((), t) →
      exec (.ipref f) s = .next t) ∧
    (∀ (a : Nat → DWord) (s₁ : State) (x : Team), Issues (.decide f) s w fm f →
      readSrcs w f.imm [srcRaw f.sa] (onward s w fm) = .ok ([a], s₁) → s₁.teamOf w = some x →
      (x.dq.length < 64 → exec (.decide f) s = .next (s₁.updTeam w.team fun x =>
        ({ x with dq := x.dq ++ [((a 0).setWidth 32, (s₁.core w.core).pts)] } : Team).trimDq)) ∧
      (64 ≤ x.dq.length → exec (.decide f) s = .next s)) ∧
    ∀ (m c : Nat → DWord) (s₁ : State) (x : Team), Issues (.fork f) s w fm f →
      readSrcs w f.imm [srcPair f.sa, srcPair f.sb] (onward s w fm) = .ok ([m, c], s₁) →
      s₁.teamOf w = some x → plainDst w f.dst = true →
      ∃ t y, exec (.fork f) s = .next t ∧ t.teamOf w = some y ∧ t.mem = s₁.mem ∧ y.groups = x.groups ∧
        (∀ n, f.dst = .k n → readRef t w (.k n.toNat) =
          if x.front.rdv.isSome then 1 else if (m 0).toNat % 48 ≠ 0 ∨ (c 0).toNat % 48 ≠ 0 then 2 else 0) ∧
        ((x.front.rdv.isSome ∨ (m 0).toNat % 48 ≠ 0 ∨ (c 0).toNat % 48 ≠ 0) →
          y.front.rdv = x.front.rdv ∧ y.mseq = x.mseq ∧ y.cseq = x.cseq) ∧
        (x.front.rdv = none → (m 0).toNat % 48 = 0 → (c 0).toNat % 48 = 0 →
          (∃ r, y.front.rdv = some r ∧ r.target = unitTargetOf w f ∧
            r.j = 1 + (if m 0 = 0 then 0 else 1) + (if c 0 = 0 then 0 else 1)) ∧
          (m 0 = 0 → y.mseq = x.mseq) ∧ (c 0 = 0 → y.cseq = x.cseq) ∧
          (m 0 ≠ 0 → y.mseq.run = true ∧ y.mseq.pc = (m 0).toNat % 2 ^ 56 ∧ y.mseq.base = (m 0).toNat % 2 ^ 56 ∧
            y.mseq.k = x.front.k ∧ y.mseq.clk = (s₁.core w.core).pts) ∧
          (c 0 ≠ 0 → y.cseq.run = true ∧ y.cseq.pc = (c 0).toNat % 2 ^ 56 ∧ y.cseq.base = (c 0).toNat % 2 ^ 56 ∧
            y.cseq.k = x.front.k ∧ y.cseq.clk = (s₁.core w.core).pts))

/-! ## Long-latency operations and memory -/

/-- The state in which a long-latency operation of an issuer has started at the core's clock. -/
def started (w : Who) (kind : OpKind) (dests : List RegRef) (vals : List (RegRef × DWord)) (late : Option Trap)
    (waits : List Wait) (s : State) : State :=
  runD (do let _ ← startOp w kind dests vals late (s.core w.core).pts waits) s

/-- The same at a given clock. -/
def startedAt (w : Who) (kind : OpKind) (dests : List RegRef) (vals : List (RegRef × DWord)) (late : Option Trap)
    (pts : Nat) (s : State) : State :=
  runD (do let _ ← startOp w kind dests vals late pts []) s

/-- AN OPERATION STARTS (R36, R37, R39): its number is new, its flag rises by one, its registers are pending from then
on, and no register, no memory and no other operation changes. -/
def Obligations.OperationStarts : Prop :=
  ∀ (w : Who) (kind : OpKind) (dests : List RegRef) (vals : List (RegRef × DWord)) (late : Option Trap)
    (waits : List Wait) (s : State),
    let t := started w kind dests vals late waits s
    (∃ o, SMap.get? t.ops s.serial = some o ∧ o.owner = w.owner ∧ o.flag = w.latch.flag ∧ o.kind = kind ∧
      o.dests = dests ∧ o.vals = vals ∧ o.waits = waits ∧ o.late = late.map (lateRec w)) ∧
    t.serial = s.serial + 1 ∧ (∀ n, n ≠ s.serial → SMap.get? t.ops n = SMap.get? s.ops n) ∧
    (∀ r, readRef t w r = readRef s w r) ∧ (∀ r ∈ dests, r ∈ t.pendingRefs w) ∧ t.mem = s.mem ∧
    (∀ n, w.latch.flag = some n → (w.front = false → (s.group? w.agent).isSome → t.flag w n = s.flag w n + 1) ∧
      (w.front = true → (s.prog? w.agent).isSome → t.flag w n = s.flag w n + 1)) ∧
    ∀ n, w.latch.flag ≠ some n → t.flag w n = s.flag w n

/-- What a load of a TYPE makes of the bytes it read (R141): integers of 8 and 16 bits sign- or
zero-extended, everything else bit for bit. -/
def loaded (t : Ty) (bs : List Byte) : DWord :=
  match t with
  | .i8 => (((BitVec.ofNat 8 (leOf bs)).signExtend 32).setWidth 64)
  | .i16 => (((BitVec.ofNat 16 (leOf bs)).signExtend 32).setWidth 64)
  | _ => BitVec.ofNat 64 (leOf bs)

/-- The three loads: whether the window of R117 may be used, and the path's read. -/
def loads : Instr → Option (Bool × (Who → Nat → Nat → Cache → M (List Byte × Bool)))
  | .ld _ => some (true, genRead)
  | .ldc _ => some (false, fun w va n c => pathRead w false va n c)
  | .ldt _ => some (false, fun w va n c => pathRead w true va n c)
  | _ => none

/-- LOADS (R99, R137, R140, R141, R143, R144): where the checks of R99 pass for every access and the path gives the
bytes, the load executes: it starts one operation that will write to DST, for each lane, its bytes as TYPE extends
them; where a check fails, that fault is taken at the instruction. Where a clause rests on a choice of the model, see
log entry 37. -/
def Obligations.Loads : Prop :=
  ∀ (i : Instr) (window : Bool) (read : Who → Nat → Nat → Cache → M (List Byte × Bool))
    (s s₁ : State) (w : Who) (fm : Form) (f : Fields) (ea : Nat → Nat),
    loads i = some (window, read) → Issues i s w fm f → readEa w f (onward s w fm) = .ok (ea, s₁) →
    let n := f.ty.bytes
    let l := s₁.accs w window ea (accessLanes w f.dst)
    (∀ t, accessFault s₁ w n n [rightR] false l = some t → exec i s = .next (s.raiseTrap w fm.ends t)) ∧
    ∀ (got : List (List Byte × Bool)) (s₂ : State), accessFault s₁ w n n [rightR] false l = none →
      collectM l (fun a => read w a.va n f.cache) s₁ = .ok (got, s₂) →
      (∀ e ∈ got, e.1.length = n) →
      exec i s = .next (started w .load ((destRefs w f.dst f.ty.wide).map (·.2))
        (landings w f.dst f.ty.wide f.ty.signed fun lane =>
          match (l.zip got).find? fun e => e.1.lane = lane with
          | none => 0
          | some e => loaded f.ty e.2.1)
        (eccu w (((l.zip got).filter fun e => e.2.2).map (·.1))) [] s₂)

/-- STORES (R99, R116, R126, R146): where the checks pass and each access can be written, `st` executes: the low bytes
of each lane's value, as many as TYPE has, are written at its address in ascending lane order, and an operation is
started that writes no register; where a check fails, that fault is taken. Where a clause rests on a choice of the
model, see log entries 37, 43. -/
def Obligations.Stores : Prop :=
  ∀ (s s₁ : State) (w : Who) (fm : Form) (f : Fields) (a b c : Nat → DWord),
    Issues (.st f) s w fm f →
    let kb : Bool := match f.sb with | .k _ => true | _ => false
    readSrcs w f.imm [srcPair f.sa, ⟨f.sb, kb, none⟩, ⟨f.dst, f.ty.wide, none⟩] (onward s w fm) = .ok ([a, b, c], s₁) →
    let n := f.ty.bytes
    let l := s₁.accs w true
      (fun i => (a i + if kb then b i else ((b i).setWidth 32).signExtend 64).toNat) w.actors
    (∀ t, accessFault s₁ w n n [rightW] true l = some t → exec (.st f) s = .next (s.raiseTrap w fm.ends t)) ∧
    ∀ (bad : List Bool) (s₂ s₃ : State), accessFault s₁ w n n [rightW] true l = none →
      leaveDirect w s₁ = .ok ((), s₂) →
      collectM l (fun x => genWrite (w.only x.lane) x.va ((List.range n).map fun k => (c x.lane).extractLsb' (8 * k) 8)) s₂ =
        .ok (bad, s₃) →
      exec (.st f) s = .next (started w .store [] [] (eccu w (((l.zip bad).filter fun e => e.2).map (·.1))) [] s₃)

/-- ATOMICS (R49, R150, R151): where the checks pass, the task commits and each lane's read-modify-write can be made,
`atom` executes: each lane in ascending order replaces the value at its address by the operation's result, and an
operation is started that will give the old values to DST. On integers each operation code gives the value of its
rule, and `cas` writes the new value exactly where the old one equals the expected one. A failed check is taken at the
instruction. Where a clause rests on a choice of the model, see log entry 43. -/
def Obligations.Atomics : Prop :=
  (∀ (op : AOp) (s s₁ : State) (w : Who) (fm : Form) (f : Fields) (a c e : Nat → DWord),
    Issues (.atom op f) s w fm f →
    readSrcs w f.imm [srcPair f.sa, srcTyped f.ty f.sb,
      if op = .cas then srcTyped f.ty (thirdOf f) else srcRaw (.v 0)] (onward s w fm) = .ok ([a, c, e], s₁) →
    let n := f.ty.bytes
    let l := s₁.accs w true (fun i => (a i).toNat) (accessLanes w f.dst)
    (∀ t, accessFault s₁ w n n [rightR, rightW] true l = some t →
      exec (.atom op f) s = .next (s.raiseTrap w fm.ends t)) ∧
    ∀ (got : List (Nat × Bool)) (s₂ s₃ : State),
    accessFault s₁ w n n [rightR, rightW] true l = none → commitTask w s₁ = .ok ((), s₂) →
    collectM l (fun x => genAtomic w x.va f.ty op (c x.lane).toNat (e x.lane).toNat) s₂ = .ok (got, s₃) →
    exec (.atom op f) s = .next (started w .atomic ((destRefs w f.dst f.ty.wide).map (·.2))
      (landings w f.dst f.ty.wide f.ty.signed fun lane =>
        match (l.zip got).find? fun x => x.1.lane = lane with
        | none => 0
        | some x => w64 x.2.1)
      (eccu w (((l.zip got).filter fun x => x.2.2).map (·.1))) [] s₃)) ∧
  ∀ (old x e : BitVec 32),
    atomicOp .fadd .i32 old.toNat x.toNat 0 = (old + x).toNat ∧
    atomicOp .fmin .i32 old.toNat x.toNat 0 = (if x.slt old then x else old).toNat ∧
    atomicOp .fmax .i32 old.toNat x.toNat 0 = (if old.slt x then x else old).toNat ∧
    atomicOp .fmin .n32 old.toNat x.toNat 0 = (if x.ult old then x else old).toNat ∧
    atomicOp .fmax .n32 old.toNat x.toNat 0 = (if old.ult x then x else old).toNat ∧
    atomicOp .fand .n32 old.toNat x.toNat 0 = (old &&& x).toNat ∧
    atomicOp .fior .n32 old.toNat x.toNat 0 = (old ||| x).toNat ∧
    atomicOp .fxor .n32 old.toNat x.toNat 0 = (old ^^^ x).toNat ∧
    atomicOp .xchg .n32 old.toNat x.toNat 0 = x.toNat ∧
    atomicOp .cas .n32 old.toNat x.toNat e.toNat = (if old = e then x else old).toNat

/-- OTHER MEMORY FORMS (R112, R153 to R156). `pref` executes, counts the granules outside the lease as dropped, and
fetches the lines of its other addresses, each once, in ascending order. `pathfence` executes and starts the operation
whose completion is its effect. `probe` takes the fault of a failed check, is held from class 6 by a fence of its gang
that is not complete, and otherwise starts the operation that gives each lane the report of its line, privatised copies
merged first. `cwb` takes LEASE where a lane may not write or names class 4 or 5, is held as `probe` is, and otherwise
starts the operation that writes back the lines of class 6. Where a clause rests on a choice of the model, see log
entries 37, 45. -/
def Obligations.CacheForms : Prop :=
  ∀ (s s₁ : State) (w : Who) (fm : Form) (f : Fields),
    (Issues (.pathfence f) s w fm f →
      exec (.pathfence f) s = .next (started w (.fence f.mod) [] [] none [] (onward s w fm))) ∧
    (∀ (ea : Nat → Nat) (t : State), Issues (.pref f) s w fm f → readEa w f (onward s w fm) = .ok (ea, s₁) →
      let inside := (w.actors.map ea).filter fun a => s₁.inLease w a 1 [rightR]
      let lost := (((w.actors.map ea).filter fun a => !(s₁.inLease w a 1 [rightR])).map fun a => a / 65536).foldl insertNat []
      each ((inside.map fun a => a / 64 * 64).foldl insertNat []) (fun a => prefetchLine w a f.cache)
        (s₁.updPart w.part fun p => { p with dropspec := p.dropspec + w64 lost.length }) = .ok ((), t) →
      exec (.pref f) s = .next t) ∧
    (∀ (ea : Nat → Nat), Issues (.probe f) s w fm f → readEa w f (onward s w fm) = .ok (ea, s₁) →
      let l := s₁.accs w true ea (accessLanes w f.dst)
      (∀ t, accessFault s₁ w 1 1 [rightR] false l = some t → exec (.probe f) s = .next (s.raiseTrap w fm.ends t)) ∧
      (accessFault s₁ w 1 1 [rightR] false l = none → (∃ a ∈ l, s₁.classAt w a = 6) → s₁.fencing w = true →
        exec (.probe f) s = .next s) ∧
      ∀ (got : List (Nat × Nat)) (s₂ : State), accessFault s₁ w 1 1 [rightR] false l = none →
        ((∃ a ∈ l, s₁.classAt w a = 6) → s₁.fencing w = false) →
        collectM l (fun a => do
          let pl ← peek (placeOf w a.va)
          let held ← peek (storePlace w a.va true)
          let inl1 ← look fun s => s.inL1 w pl (held.1.pa / 64)
          if leafClass pl.leaf = 6 ∨ leafClass pl.leaf = 7 then pure () else mergeLine w.part (pl.pa / 64)
          let v ← look fun s => probeValue s w a pl (held.1.pa / 64) inl1
          pure (a.lane, v)) s₁ = .ok (got, s₂) →
        exec (.probe f) s = .next (started w .load ((destRefs w f.dst false).map (·.2))
          (landings w f.dst false false fun i => w64 (((got.find? fun e => e.1 = i).map (·.2)).getD 0)) none [] s₂)) ∧
    ∀ (ea : Nat → Nat), Issues (.cwb f) s w fm f → readEa w f (onward s w fm) = .ok (ea, s₁) →
      let l := s₁.accs w false ea w.actors
      let lease (bad : List Acc) (addr : Nat) : Trap :=
        { kind := kLEASE, cause := 1, mask := w.failMask (bad.map (·.lane)), addr := addr }
      let outside := l.filter fun a => !(s₁.inLease w a.va 1 [rightW])
      let sealed := l.filter fun a => s₁.classAt w a = 4 || s₁.classAt w a = 5
      (∀ x, outside.head? = some x → exec (.cwb f) s = .next (s.raiseTrap w fm.ends (lease outside x.ea))) ∧
      (∀ x, outside = [] → sealed.head? = some x →
        exec (.cwb f) s = .next (s.raiseTrap w fm.ends (lease sealed x.ea))) ∧
      (outside = [] → sealed = [] → (∃ a ∈ l, s₁.classAt w a = 6) → s₁.fencing w = true →
        exec (.cwb f) s = .next s) ∧
      ∀ (places : List Place) (s₂ : State), outside = [] → sealed = [] →
        ((∃ a ∈ l, s₁.classAt w a = 6) → s₁.fencing w = false) →
        collectM (l.filter fun a => s₁.classAt w a = 6) (fun a => placeOf w a.va) s₁ = .ok (places, s₂) →
        exec (.cwb f) s = .next (started w (.cwb (places.map fun pl => pl.pa / 64)) [] [] none [] s₂)

/-! ## Completions -/

/-- AN OPERATION COMPLETES (R37, R39, R144, R150, R155, R156, R158, R177, R402, R413): where its issuer is resident, it
leaves the table, the values land, its flag falls by one, the core's clock rises to the operation's, and no register
but those it promised changes; memory does not change. A load, store, atomic, engine or granted `append` operation that
waits for nothing completes so, and a `spawn` once its records are in their queue; a `bcas` makes one transaction of
the first lane that is not done (it begins its record, after which its clock is at least that of its first object;
makes a step of it while it is announced, at which of the two objects the model's free value says; or ends it with its
status) and completes after the last; a `pathfence` empties the caches that it names (the class 6 lines are written
back where it names that path) and completes; a `cwb` completes once its lines are written back. The clauses of `bcas`
rest on two choices of the model: that its transactions are separate events (log entry 21), and what becomes of a lane
whose argument block or record cannot be read (log entry 47). -/
def Obligations.CompletionEvents : Prop :=
  (∀ (s : State) (id t : Nat) (o : Op) (x : Team) (g : Group),
    SMap.get? s.ops id = some o → s.ownerAt o.owner = .team t →
    s.team? t = some x → o.owner.src < 64 →
    SMap.get? x.groups o.owner.src = some g → o.late = none →
    ∃ y h, (s.finishOp id).team? t = some y ∧ SMap.get? y.groups o.owner.src = some h ∧
      h = (let l := o.vals.foldl Group.land g
        match o.flag with | none => l | some n => l.setFlag n (l.flag n - 1)) ∧
      SMap.get? (s.finishOp id).ops id = none ∧ (s.finishOp id).mem = s.mem ∧
      ((s.finishOp id).core x.core).pts = max (s.core x.core).pts o.ts ∧
      ∀ n, n ≠ o.owner.src → SMap.get? y.groups n = SMap.get? x.groups n) ∧
  ∀ (s : State) (id : Nat) (o : Op), SMap.get? s.ops id = some o →
    (o.kind = .load → o.waits = [] → exec (.loadReturn id) s = .next (s.finishOp id)) ∧
    (o.kind = .store ∨ o.kind = .engine ∨ (∃ l, o.kind = .appended l) → o.waits = [] →
      exec (.storeCompletion id) s = .next (s.finishOp id)) ∧
    (∀ part orders, o.kind = .spawn part orders →
      (s.pushWaits part orders = true → exec (.storeCompletion id) s = .next s) ∧
      (s.pushWaits part orders = false → o.waits = [] → exec (.storeCompletion id) s = .next (s.finishOp id))) ∧
    (o.kind = .atomic → o.waits = [] → exec (.atomicReturn id) s = .next (s.finishOp id)) ∧
    (∀ ctx ty ecc todo, o.kind = .bcas ctx ty ecc todo →
      let part := (s.partOfCore o.owner.core).getD 0
      let left (todo : List BcasPart) (vals : List (RegRef × DWord)) (late : Option FaultRec) (ts : Nat)
          (u : State) : State :=
        { u with ops := SMap.put u.ops id { o with kind := .bcas ctx ty ecc todo, vals := vals, late := late, ts := ts } }
      (todo = [] → exec (.atomicReturn id) s = .next (s.finishOp id)) ∧
      ∀ b rest, todo = b :: rest →
        (∀ bad s₁ ta te s₂ s₃, b.lost = false → b.begun = false → bcasBegin part o.ts ctx ty b s = .ok (bad, s₁) →
          homeTs part (b.x / 64) s₁ = .ok ((ta, te), s₂) → raisePts o.owner.core ta s₂ = .ok ((), s₃) →
          exec (.atomicReturn id) s =
            .next (left ({ b with begun := true, bad := b.bad || bad } :: rest) o.vals o.late (maxN o.ts ta) s₃)) ∧
        (∀ bad s₁, b.lost = false → b.begun = true → s.partBad part ctx b = false → s.annState part ctx b.i = 1 →
          bcasStep part o.ts ctx b.i (decide (Config.freeNat s.free % 2 = 1)) { s with free := s.free + 1 } =
            .ok (bad, s₁) →
          exec (.atomicReturn id) s = .next (left ({ b with bad := b.bad || bad } :: rest) o.vals o.late o.ts s₁)) ∧
        ∀ status ts s₁,
          b.lost = true ∨ b.begun = true ∧ (s.partBad part ctx b = true ∨ s.annState part ctx b.i ≠ 1) →
          bcasEnd part o.ts ctx o.owner.life ty b s = .ok ((status, ts), s₁) →
          exec (.atomicReturn id) s =
            .next (left rest (o.vals ++ b.refs.map fun r => (r, w64 status))
              (bcasEcc ecc o.late { b with bad := b.bad || b.begun && s.partBad part ctx b }) ts s₁)) ∧
    (∀ p, o.kind = .fence p → p.getLsbD 2 = false →
      ∃ s₁ : State, exec (.pathfenceCompletion id) s = .next (s₁.finishOp id) ∧
        (p.getLsbD 0 = true → (s₁.core o.owner.core).con = []) ∧
        (p.getLsbD 1 = true → (s₁.core o.owner.core).tile = []) ∧
        (p.getLsbD 0 = false → (s₁.core o.owner.core).con = (s.core o.owner.core).con) ∧ s₁.mem = s.mem) ∧
    (∀ (p : BitVec 3) (s₁ : State), o.kind = .fence p → p.getLsbD 2 = true →
      hostFence ((s.partOfCore o.owner.core).getD 0) o.owner.core (s.updCore o.owner.core fun k =>
        { k with con := if p.getLsbD 0 then [] else k.con, tile := if p.getLsbD 1 then [] else k.tile }) =
        .ok ((), s₁) →
      exec (.pathfenceCompletion id) s = .next (s₁.finishOp id)) ∧
    ∀ (ls : List Nat) (s₁ : State), o.kind = .cwb ls →
      each ls (fun l => do
        cleanLine6 ((s.partOfCore o.owner.core).getD 0) l
        let _ ← hlcOwn ((s.partOfCore o.owner.core).getD 0) l
        pure ()) s = .ok ((), s₁) →
      exec (.cwbCompletion id) s = .next (s₁.finishOp id)

/-! ## Scratchpad, queues and tags -/

namespace Sys2Proof.Claims

/-- The module once a fault is recorded after the issue of an instruction that completes at once (R37). -/
def recorded (w : Who) (t : Option Trap) (s : State) : State :=
  match t with
  | none => s
  | some t => s.takeLate w.owner (lateRec w t)

/-- ECCU at scratchpad rows: the mask of the lanes and the address of the lowest (R475, R488). -/
def rowEccu (w : Who) (bad : List Acc) : Option Trap :=
  bad.head?.map fun a => { kind := kECCU, mask := w.failMask (bad.map (·.lane)), addr := a.ea }

/-- Whether the row of a lane's scratchpad address is poisoned. -/
def badRow (s : State) (w : Who) (x : Acc) : Bool :=
  match s.laneSpad w.life x.ea with
  | none => false
  | some g => s.spadPoison g x.ea

/-- The module once the rows that lanes read have met the errors that wait in them (R475). -/
def rowsMet (w : Who) (l : List Acc) (s : State) : State :=
  l.foldl (fun s x => match s.laneSpad w.life x.ea with
    | none => s
    | some g => runD (do let _ ← meetRow g x.ea; pure ()) s) s

/-- The atomics of lanes on a scratchpad, one after another: the module after them, and for each lane the old value and
whether its row is poisoned (R224, R488). -/
def atomsRun (w : Who) (op : AOp) (t : Ty) (c e : Nat → DWord) : List Acc → State → State × List (Acc × Nat × Bool)
  | [], s => (s, [])
  | x :: rest, s =>
    match s.laneSpad w.life x.ea with
    | none =>
      let r := atomsRun w op t c e rest s
      (r.1, (x, 0, false) :: r.2)
    | some g =>
      let s := runD (do let _ ← meetRow g x.ea; pure ()) s
      if s.spadPoison g x.ea then
        let r := atomsRun w op t c e rest s
        (r.1, (x, 0, true) :: r.2)
      else
        let old := leOf (s.spadBytes g x.ea t.bytes)
        let r := atomsRun w op t c e rest
          (s.setSpad g x.ea (leBytesOf t.bytes (atomicOp op t old (c x.lane).toNat (e x.lane).toNat)))
        (r.1, (x, old, false) :: r.2)

end Sys2Proof.Claims

/-- SCRATCHPAD ACCESSES (R218, R222, R224, R475, R488). A misaligned or unmapped address in any lane takes its fault at
the instruction. Otherwise `sts` executes and stores each lane's low bytes at its address, but for the lanes of poisoned
rows; `lds` executes and gives each lane its bytes as TYPE extends them, and 0 to the lanes of poisoned rows; `atoms`
executes lane by lane in ascending order, each lane's new value stored before the next lane reads, and gives the old
values, a lane of a poisoned row storing nothing and getting 0. The lanes of poisoned rows record ECCU after issue. -/
def Obligations.ScratchpadForms : Prop :=
  ∀ (s s₁ : State) (w : Who) (fm : Form) (f : Fields),
    let n := f.ty.bytes
    let sum (a b : Nat → DWord) (i : Nat) : Acc :=
      ⟨i, ((a i).toNat + (b i).toNat) % 2 ^ 32, ((a i).toNat + (b i).toNat) % 2 ^ 32⟩
    (∀ (a b c : Nat → DWord), Issues (.sts f) s w fm f →
      readSrcs w f.imm [srcRaw f.sa, srcRaw f.sb, ⟨f.dst, f.ty.wide, none⟩] (onward s w fm) = .ok ([a, b, c], s₁) →
      let l : List Acc := w.actors.map (sum a b)
      (∀ t, spadFault s₁ w n n l = some t → exec (.sts f) s = .next (s.raiseTrap w fm.ends t)) ∧
      (spadFault s₁ w n n l = none →
        exec (.sts f) s = .next (recorded w (rowEccu w (l.filter (badRow s₁ w))) (l.foldl (fun s x =>
          match s.laneSpad w.life x.ea with
          | none => s
          | some g => if s.spadPoison g x.ea then s else s.setSpad g x.ea (leBytesOf n (c x.lane).toNat)) s₁)))) ∧
    (∀ (a b : Nat → DWord), Issues (.lds f) s w fm f →
      readSrcs w f.imm [srcRaw f.sa, srcRaw f.sb] (onward s w fm) = .ok ([a, b], s₁) →
      let l : List Acc := (accessLanes w f.dst).map (sum a b)
      (∀ t, spadFault s₁ w n n l = some t → exec (.lds f) s = .next (s.raiseTrap w fm.ends t)) ∧
      (spadFault s₁ w n n l = none → ∀ t,
        let s₂ := rowsMet w l s₁
        writeDst w f.dst f.ty.wide f.ty.signed (fun i =>
          match l.find? fun x => x.lane = i with
          | none => 0
          | some x =>
            match s₂.laneSpad w.life x.ea with
            | none => 0
            | some g => if s₂.spadPoison g x.ea then 0 else loaded f.ty (s₂.spadBytes g x.ea n)) s₂ = .ok ((), t) →
        exec (.lds f) s = .next (recorded w (rowEccu w (l.filter (badRow s₂ w))) t))) ∧
    ∀ (op : AOp) (a c e : Nat → DWord), Issues (.atoms op f) s w fm f →
      readSrcs w f.imm [srcRaw f.sa, srcTyped f.ty f.sb,
        if op = .cas then srcTyped f.ty (thirdOf f) else srcRaw (.v 0)] (onward s w fm) = .ok ([a, c, e], s₁) →
      let l : List Acc := (accessLanes w f.dst).map fun i => ⟨i, (a i).toNat % 2 ^ 32, (a i).toNat % 2 ^ 32⟩
      (∀ t, spadFault s₁ w n n l = some t → exec (.atoms op f) s = .next (s.raiseTrap w fm.ends t)) ∧
      (spadFault s₁ w n n l = none → ∀ t,
        let r := atomsRun w op f.ty c e l s₁
        writeDst w f.dst f.ty.wide f.ty.signed (fun i =>
          match r.2.find? fun x => x.1.lane = i with
          | none => 0
          | some x => w64 x.2.1) r.1 = .ok ((), t) →
        exec (.atoms op f) s = .next (recorded w (rowEccu w ((r.2.filter fun x => x.2.2).map (·.1))) t))

/-- STORED BYTES READ BACK AND NO OTHERS CHANGE (R2, R214, R218): after bytes are written at an address of a team's
scratchpad, each reads back, every other byte of every core's SRAM is unchanged, and so are memory, tags and poison;
after bytes are written at an address of memory, each reads back, every other byte reads as before, and the bytes of a
little-endian number read back as that number. -/
def Obligations.StoredBytes : Prop :=
  (∀ (s : State) (g : Life) (a : Nat) (bs : List Byte),
    let at' (i : Nat) : Nat := spotOf g (spRot a) (spOff a + i)
    (∀ i j, i < bs.length → j < bs.length → at' i = at' j → i = j) →
    (∀ i < bs.length, (s.setSpad g a bs).sramByte g.core (at' i) = bs.getD i 0) ∧
    (∀ k, (∀ i < bs.length, k ≠ at' i) → (s.setSpad g a bs).sramByte g.core k = s.sramByte g.core k) ∧
    (∀ c k, c ≠ g.core → (s.setSpad g a bs).sramByte c k = s.sramByte c k) ∧
    (s.setSpad g a bs).mem = s.mem ∧ ((s.setSpad g a bs).core g.core).stags = (s.core g.core).stags ∧
    ((s.setSpad g a bs).core g.core).spois = (s.core g.core).spois) ∧
  ∀ (s : State) (a n x : Nat) (bs : List Byte),
    (∀ i < bs.length, (s.setBytes a bs).byte (a + i) = bs.getD i 0) ∧
    (∀ k, k < a ∨ a + bs.length ≤ k → (s.setBytes a bs).byte k = s.byte k) ∧
    (s.setLe a n x).le a n = x % 2 ^ (8 * n) ∧
    (s.setBytes a bs).tags = s.tags ∧ (s.setBytes a bs).cores = s.cores

/-- BANKS AND QUEUES (R225, R229, R231, R232, R235, R236). `bankmode` with a mask below 2^48 executes, switches the
banks that are not refused and no other, and starts the operation that returns the refused ones; with a larger mask it
returns all ones and changes no bank. `qcfg` executes with the status and effect of its action; `qstat` executes and
reports. `qdrain` of an empty FIFO executes and returns 0; of one with entries it takes the fault of a bad scratchpad
address, or pops them all, writes p14 for each lane and returns their number; the draining of a FIFO takes as many
entries as it is told, the oldest first. A pop gives each lane the word and mask bit of the oldest entry, which leaves
its FIFO, and raises the core's clock to the entry's; a pop of an empty FIFO gives 0 and no lane a word; a push into a
FIFO of the team's own with room, which no tentative pop of its own has freed for it, adds one entry of the words of
the lanes that take part and counts in OUT. Where a clause rests on a choice of the model, see log entry 36. -/
def Obligations.BanksAndQueues : Prop :=
  (∀ (s s₁ : State) (w : Who) (fm : Form) (f : Fields),
    (∀ (m : Nat → DWord), Issues (.bankmode f) s w fm f →
      readSrcs w f.imm [srcPair f.sa] (onward s w fm) = .ok ([m], s₁) →
      let answer (x : DWord) (s : State) : State := started w .engine ((destRefs w f.dst true).map (·.2))
        (landings w f.dst true false fun _ => x) none [] s
      (2 ^ 48 ≤ (m 0).toNat → exec (.bankmode f) s = .next (answer (BitVec.allOnes 64) s₁)) ∧
      ∀ refused s₂, (m 0).toNat < 2 ^ 48 →
        switchBanks w.core (modeOfCode (rawImm 0 f.sb).toNat) ((List.range 48).filter fun i => bitN (m 0).toNat i) s₁ =
          .ok (refused, s₂) →
        exec (.bankmode f) s = .next (answer (w64 (maskOf refused)) s₂) ∧
        (∀ b, b ∉ refused → b < 48 → bitN (m 0).toNat b = true →
          (s₂.core w.core).bankMode b = modeOfCode (rawImm 0 f.sb).toNat) ∧
        (∀ b < 48, bitN (m 0).toNat b = false ∨ b ∈ refused →
          (s₂.core w.core).bankMode b = (s₁.core w.core).bankMode b) ∧
        ∀ b ∈ refused, bitN (m 0).toNat b = true) ∧
    (∀ (a b : Nat → DWord) (t : State), Issues (.qcfg f) s w fm f →
      readSrcs w f.imm [srcPair f.sa, srcPair f.sb] (onward s w fm) = .ok ([a, b], s₁) →
      writeDst w f.dst false false (fun _ => (w32 (s₁.qcfg w.life w.core (a 0).toNat (b 0).toNat).1).setWidth 64)
        (s₁.qcfg w.life w.core (a 0).toNat (b 0).toNat).2 = .ok ((), t) →
      exec (.qcfg f) s = .next t) ∧
    (∀ (a : Nat → DWord) (t : State), Issues (.qstat f) s w fm f →
      readSrcs w f.imm [srcRaw f.sa] (onward s w fm) = .ok ([a], s₁) →
      writeDst w f.dst false false (fun i => (w32 (s₁.qstat w ((a i).toNat % 2 ^ 32))).setWidth 64) s₁ = .ok ((), t) →
      exec (.qstat f) s = .next t) ∧
    ∀ (a : Nat → DWord) (c : Cap) (owner core : Nat) (q : Fifo), Issues (.qdrain f) s w fm f →
      readSrcs w f.imm [srcRaw f.sa] (onward s w fm) = .ok ([a], s₁) →
      let n := (rawImm 0 f.sb).toNat
      let b := (a w.low).toNat % 2 ^ 32
      let k := q.slots.length
      let answer (s : State) : State := started w .engine ((destRefs w f.dst false).map (·.2))
        (landings w f.dst false false fun _ => w64 k) none [] s
      popCheck s₁ w n = none → s₁.capOf w n = some c → s₁.fifoOf w c = some (owner, core, q) →
      (∀ s₂ s₃, k = 0 → leaveDirect w s₁ = .ok ((), s₂) → reserveDst w f.dst s₂ = .ok ((), s₃) →
        exec (.qdrain f) s = .next (answer s₃)) ∧
      (∀ t, k ≠ 0 → spadFault s₁ w 1 (128 * k) [⟨w.low, b, b⟩] = some t →
        exec (.qdrain f) s = .next (s.raiseTrap w fm.ends t)) ∧
      ∀ g s₂ s₃ s₅ bad got, k ≠ 0 → spadFault s₁ w 1 (128 * k) [⟨w.low, b, b⟩] = none →
        leaveDirect w s₁ = .ok ((), s₂) → s₂.laneSpad w.life b = some g →
        drainTo w g core c.fifo b k 0 s₂ = .ok ((bad, got), s₃) →
        let s₄ := s₃.updGroup w.agent fun y => y.updLanes w.act fun i l =>
          l.setPred 14 (alsoPopped s₃ w f.sa i && got.getLsbD i)
        reserveDst w f.dst s₄ = .ok ((), s₅) →
        exec (.qdrain f) s =
          .next (answer (recorded w (if bad then rowEccu w [⟨w.low, b, b⟩] else none) s₅))) ∧
  (∀ (s t : State) (w : Who) (g : Life) (core num b k i : Nat) (q : Fifo) (bad : Bool) (got : BitVec 32),
    SMap.get? (s.core core).fifos num = some q → k ≤ q.slots.length →
    drainTo w g core num b k i s = .ok ((bad, got), t) →
    ∃ q', SMap.get? (t.core core).fifos num = some q' ∧ q'.slots = q.slots.drop k) ∧
  (∀ (s s₁ : State) (w : Who) (n : Nat) (c : Cap) (owner core : Nat) (q : Fifo),
    leaveDirect w s = .ok ((), s₁) → s₁.capOf w n = some c → s₁.fifoOf w c = some (owner, core, q) →
    (q.slots = [] → ∃ r, popQueue w n s = .ok (r, s₁) ∧ (∀ i, r.1 i = 0 ∧ r.2 i = false)) ∧
    ∀ e rest, q.slots = e :: rest → ∃ r t q', popQueue w n s = .ok (r, t) ∧
      (∀ i, r.1 i = (e.words.getD i 0).setWidth 64 ∧ r.2 i = e.mask.getLsbD i) ∧
      SMap.get? (t.core core).fifos c.fifo = some q' ∧ q'.slots = rest ∧ q'.granted = q.granted ∧
      (t.core w.core).pts = max (s₁.core w.core).pts e.clk ∧ t.mem = s₁.mem) ∧
  ∀ (s : State) (w : Who) (n : Nat) (c : Cap) (q : Fifo) (vals : Nat → DWord),
    leaveDirect w s = .ok ((), s) → s.capOf w n = some c → s.fifoOf w c = some (w.life, w.core, q) →
    s.fifoRoom w.core c.fifo = true → (s.modeOf w = .tentative → s.needsFreed w.life w.core c.fifo = false) →
    ∃ t q' c', pushQueue w n vals s = .ok ((), t) ∧ SMap.get? (t.core w.core).fifos c.fifo = some q' ∧
      q'.slots = q.slots ++ [⟨(List.range 32).map fun i => if w.act.contains i then (vals i).setWidth 32 else 0,
        laneMask w.act, (s.core w.core).pts, w.life, n, w.core⟩] ∧
      t.capOf w n = some c' ∧ c'.out = c.out + 1 ∧ c'.allow = c.allow ∧ t.mem = s.mem

/-- CHANNEL AT A QUEUE REGISTER (R231, R232). Any instruction that passes R51, is not held, takes part in some lane and
pops a queue register through SA, SB or its third source (no form reads a queue register as DST), the pops before it in
that order being good, takes CHANNEL with the entry's number as UNIT and has no effect: with cause 1 where the entry is
not valid, and 2 where it lacks R. One that pushes takes CHANNEL likewise: with cause 1 where the entry is not valid, 2
where it lacks W, and 3 where OUT is not below ALLOW. That an entry which passes these and whose FIFO is destroyed
gives cause 1 is the model's choice (log entry 56). -/
def Obligations.QueueFaults : Prop :=
  ∀ (i : Instr) (s : State) (w₀ : Who) (fm : Form) (f : Fields) (n : BitVec 4),
    s.who? s.cur = some w₀ → form i = some fm → fields i = some f →
    let w := s.issuer i w₀ f
    illegalUse s w i fm f = false → s.held w fm f = false → w.takesPart = true →
    let turned (cause : Nat) : Prop := exec i s = .next (s.raiseTrap w fm.ends
      { kind := kCHANNEL, cause := cause, unit := n.toNat, mask := laneMask w.act })
    let third : Opnd := f.third.getD (.v 0)
    let good (sp : OpSpec) (o : Opnd) : Prop := ∀ m, o = .q m → sp.cls ≠ [] →
      ∃ c, s.capOf w m.toNat = some c ∧ c.r = true ∧ (s.fifoOf w c).isSome = true
    let sources : Prop := good fm.sa f.sa ∧ good fm.sb f.sb ∧ good fm.third third
    let pops : Prop := (fm.sa.cls ≠ [] ∧ f.sa = .q n) ∨
      (good fm.sa f.sa ∧ fm.sb.cls ≠ [] ∧ f.sb = .q n) ∨
      (good fm.sa f.sa ∧ good fm.sb f.sb ∧ fm.third.cls ≠ [] ∧ third = .q n)
    let pushes : Prop := sources ∧ fm.dst.cls ≠ [] ∧ fm.dstRead = false ∧ f.dst = .q n
    (pops → (s.capOf w n.toNat = none → turned 1) ∧ ∀ c, s.capOf w n.toNat = some c →
      (c.r = false → turned 2) ∧ (c.r = true → s.fifoOf w c = none → turned 1)) ∧
    (pushes → (s.capOf w n.toNat = none → turned 1) ∧ ∀ c, s.capOf w n.toNat = some c →
      (c.w = false → turned 2) ∧ (c.w = true → c.allow ≤ c.out → turned 3) ∧
      (c.w = true → c.out < c.allow → s.fifoOf w c = none → turned 1))

namespace Sys2Proof.Claims

/-- The tag that a lane of `btagr` reads, and whether its row or block is poisoned: a scratchpad row's, which first
meets the errors that wait in it, or a memory block's (R280, R281). -/
def laneTag (w : Who) (x : Acc) : M (BitVec 16 × Bool) :=
  if x.ea / 2 ^ 32 = 0xFFFFFFFF then fun s =>
    let a := x.ea % 2 ^ 32
    match s.laneSpad w.life a with
    | none => .ok ((0, false), s)
    | some g =>
      let t := runD (do let _ ← meetRow g a; pure ()) s
      .ok ((if t.spadPoison g a then 0 else t.spadTag g a, t.spadPoison g a), t)
  else genTag w x.va

/-- The tag that a lane of `btagw` writes; whether its row or block is poisoned, which takes nothing (R280, R282). -/
def laneSetTag (w : Who) (x : Acc) (v : BitVec 16) : M Bool :=
  if x.ea / 2 ^ 32 = 0xFFFFFFFF then fun s =>
    let a := x.ea % 2 ^ 32
    match s.laneSpad w.life a with
    | none => .ok (false, s)
    | some g => if s.spadPoison g a then .ok (true, s) else .ok (false, s.setSpadTag g a v)
  else genSetTag (w.only x.lane) x.va v

end Sys2Proof.Claims

/-- TAGS (R280 to R283): a lane names a memory block, or a scratchpad row by an address whose upper word is all ones.
Where no lane's check fails and each lane's tag can be read or written, `btagr` executes and starts the operation that
gives each lane its tag, and `btagw` executes, lane by lane in ascending order, and starts one that writes no register;
a failed check is taken at the instruction. Where a clause rests on a choice of the model, see log entry 37. -/
def Obligations.TagForms : Prop :=
  ∀ (s s₁ : State) (w : Who) (fm : Form) (f : Fields),
    (∀ (ea : Nat → Nat), Issues (.btagr f) s w fm f → readEa w f (onward s w fm) = .ok (ea, s₁) →
      let l := s₁.accs w false ea (accessLanes w f.dst)
      (∀ t, tagFault s₁ w false (splitAccs l).1 (splitAccs l).2 = some t →
        exec (.btagr f) s = .next (s.raiseTrap w fm.ends t)) ∧
      ∀ (got : List (BitVec 16 × Bool)) (s₂ : State), tagFault s₁ w false (splitAccs l).1 (splitAccs l).2 = none →
        collectM l (laneTag w) s₁ = .ok (got, s₂) →
        exec (.btagr f) s = .next (started w .load ((destRefs w f.dst false).map (·.2))
          (landings w f.dst false false fun lane =>
            match (l.zip got).find? fun e => e.1.lane = lane with
            | none => 0
            | some e => e.2.1.setWidth 64)
          (eccu w (((l.zip got).filter fun e => e.2.2).map (·.1))) [] s₂)) ∧
    ∀ (a b c : Nat → DWord), Issues (.btagw f) s w fm f →
      readSrcs w f.imm [srcPair f.sa, srcRaw f.sb, srcRaw f.dst] (onward s w fm) = .ok ([a, b, c], s₁) →
      let l := s₁.accs w false (fun i => (a i + ((b i).setWidth 32).signExtend 64).toNat) w.actors
      (∀ t, tagFault s₁ w true (splitAccs l).1 (splitAccs l).2 = some t →
        exec (.btagw f) s = .next (s.raiseTrap w fm.ends t)) ∧
      ∀ (bad : List Bool) (s₂ s₃ : State), tagFault s₁ w true (splitAccs l).1 (splitAccs l).2 = none →
        (if (splitAccs l).1 = [] then s₂ = s₁ else leaveDirect w s₁ = .ok ((), s₂)) →
        collectM l (fun x => laneSetTag w x ((c x.lane).setWidth 16)) s₂ = .ok (bad, s₃) →
        exec (.btagw f) s = .next (started w .store [] []
          (eccu w (((l.zip bad).filter fun e => e.2).map (·.1))) [] s₃)

/-! ## Append pages -/

/-- APPEND FORMS AT ISSUE (R127, R128, R130 to R132): `append` whose checks pass and whose frame and sources are known
sends its request and its gang waits before it, in no other way changed but for the ECCU of source rows in which an
error was just met; `tailr` and `sealq` start the operation that returns the settled tail, or the state and length;
`seal` commits, starts the sealing of each open frame that a lane names, and starts the operation that waits for the
frames to settle. A failed check is taken at the instruction. -/
def Obligations.AppendForms : Prop :=
  ∀ (s s₁ : State) (w : Who) (fm : Form) (f : Fields),
    (∀ (a b : Nat → DWord), Issues (.appendRow f) s w fm f →
      readSrcs w f.imm [srcPair f.sa, srcRaw f.sb] s = .ok ([a, b], s₁) →
      let n := f.imm.toNat
      let va := (a w.low).toNat
      let at0 : List Acc := (accessLanes w f.dst).map fun i => ⟨i, va, va⟩
      let src := spadAccs (fun i => (b i).toNat % 2 ^ 32) (accessLanes w f.dst)
      (∀ t, appendFault s₁ w n at0 src = some t → exec (.appendRow f) s = .next (s.raiseTrap w fm.ends t)) ∧
      ∀ (s₂ s₃ s₄ : State) (pl : Place) (srcs : List (AppendSrc × Bool)), appendFault s₁ w n at0 src = none →
        commitTask w s₁ = .ok ((), s₂) → placeOf w va s₂ = .ok (pl, s₃) →
        collectM src (fun x => do
          let g ← look fun s => s.laneSpad w.life x.ea
          match g with
          | none => pure (⟨List.replicate n 0, [], []⟩, false)
          | some g => appendSrc g x.ea n) s₃ = .ok (srcs, s₄) →
        let s₅ := recorded w (rowEccu w (((src.zip srcs).filter fun e => e.2.2).map (·.1))) s₄
        let r : AppendReq := ⟨va, pl.pa / 65536 * 65536, n, accessLanes w f.dst, w.act, srcs.map (·.1),
          src.filterMap fun x => s₅.namedLife w.life (spCore x.ea), f.dst, leafT pl.leaf,
          s₅.appendRoom w va, pl.entry.getD noEntry, f.yield⟩
        exec (.appendRow f) s = .next
          ((started w (.append r) ((destRefs w f.dst false).map (·.2)) [] none [] s₅).updGroup w.agent fun g =>
            g.updQuads w.quads fun q => { q with await := some s₅.serial })) ∧
    (∀ (i : Instr) (val : AppendRec → Nat) (ea : Nat → Nat),
      (i = .tailr f ∧ val = fun r => r.settled) ∨
        (i = .sealq f ∧ val = fun r => if r.st = 3 then 2 ^ 32 - 1 else r.st * 2 ^ 30 + r.tail % 2 ^ 17) →
      Issues i s w fm f → readEa w f (onward s w fm) = .ok (ea, s₁) →
      let l := s₁.accs w false ea (accessLanes w f.dst)
      let outside := l.filter fun a => !(s₁.inLease w a.va 1 [rightR])
      (∀ x, outside.head? = some x → exec i s = .next (s.raiseTrap w fm.ends
        { kind := kLEASE, cause := 1, mask := w.failMask (outside.map (·.lane)), addr := x.ea })) ∧
      ∀ (got : List (Nat × Nat)) (s₂ s₃ : State), outside = [] →
        collectM l (fun x => do
          let pl ← placeOf w x.va
          let c := leafClass pl.leaf
          if c = 3 || c = 4 || c = 5 then do
            let r ← readRec w (pl.pa / 65536 * 65536)
            pure (x.lane, val r)
          else pure (x.lane, 2 ^ 32 - 1)) s₁ = .ok (got, s₂) →
        reserveDst w f.dst s₂ = .ok ((), s₃) →
        exec i s = .next (started w .load ((destRefs w f.dst false).map (·.2))
          (landings w f.dst false false fun i => w64 (((got.find? fun e => e.1 = i).map (·.2)).getD 0)) none [] s₃)) ∧
    ∀ (ea : Nat → Nat), Issues (.sealPage f) s w fm f → readEa w f (onward s w fm) = .ok (ea, s₁) →
      let l := s₁.accs w false ea (accessLanes w f.dst)
      (∀ t, sealFault s₁ w l = some t → exec (.sealPage f) s = .next (s.raiseTrap w fm.ends t)) ∧
      ∀ (got : List (Nat × Nat)) (s₂ s₃ s₄ : State), sealFault s₁ w l = none → commitTask w s₁ = .ok ((), s₂) →
        collectM l (fun x => do
          let pl ← placeOf w x.va
          let frame := pl.pa / 65536 * 65536
          let rl ← look fun s => s.recLine w.part frame
          mergeLine w.part rl
          meetLine rl
          let r ← look fun s => s.frameRec w.part frame
          let starts ← look fun s => s.openStarts w.part frame
          if r.st = 0 then do
            let pts ← ptsOf w.core
            let ts ← appendWrite w.part pts frame ({ r with st := 1 }.settle starts)
            raisePts w.core ts
          else pure ()
          pure (x.lane, frame)) s₂ = .ok (got, s₃) →
        reserveDst w f.dst s₃ = .ok ((), s₄) →
        exec (.sealPage f) s = .next (started w
          (.seal ((dstRefs w f.dst).filterMap fun e => (got.find? fun g => g.1 = e.1).map fun g => (e.2, g.2)))
          ((destRefs w f.dst false).map (·.2)) [] none [] s₄)

/-- THE ANSWER TO AN APPEND (R127): a request on a sealed or sealing frame is answered with SEALED, one beyond the
frame's limit with APPENDLIM cause 1, one beyond what its issuer may write with LEASE cause 1, and any other is
granted: the tail rises by the lengths of all its lanes. -/
def Obligations.AppendAnswer : Prop :=
  ∀ (r : AppendReq) (a : AppendRec),
    let k := r.lanes.length * r.n
    let trap (kind cause : Nat) : Option Trap :=
      some { kind := kind, cause := cause, mask := laneMask r.lanes, addr := r.va }
    ((a.st = 1 ∨ a.st = 2) → grantFault r a = trap kSEALED 0) ∧
    (a.st ≠ 1 → a.st ≠ 2 → 64 * a.limit < a.tail + k → grantFault r a = trap kAPPENDLIM 1) ∧
    (a.st ≠ 1 → a.st ≠ 2 → a.tail + k ≤ 64 * a.limit → r.room < a.tail + k → grantFault r a = trap kLEASE 1) ∧
    (a.st ≠ 1 → a.st ≠ 2 → a.tail + k ≤ 64 * a.limit → a.tail + k ≤ r.room → grantFault r a = none) ∧
    ∀ starts, (a.settle starts).tail = a.tail ∧ (a.settle starts).settled ≤ a.tail ∧
      (∀ x ∈ starts, (a.settle starts).settled ≤ x) ∧ (a.settle []).settled = a.tail

/-- APPEND EVENTS (R123, R124, R127, R129, R131, R177): APPEND_GRANT answers a request. With a fault the request leaves
the table, its flag falls, and a gang that still waits takes the fault at its `append`. With a grant the request
becomes an operation that waits for its reservations, the core's clock rises, and a gang that still waits gets its
offsets and p14 and moves on: each lane its own, or a scalar DST the first and every lane that takes part p14 of it.
RESERVATION_COMPLETE sets D, lands a reservation's bytes and tags, but for a part of a poisoned line, which is ECCU of
the lane that wrote it, moves SETTLED and lets what waits for it go on. SEAL_COMPLETION waits until every frame has
settled and then completes with the lengths and the clock of the last event. -/
def Obligations.AppendEvents : Prop :=
  ∀ (s : State),
    (∀ (id : Nat) (o : Op) (r : AppendReq) (s₁ : State), SMap.get? s.ops id = some o → o.kind = .append r →
      let part := (s.partOfCore o.owner.core).getD 0
      (do mergeLine part (s.recLine part r.frame); meetLine (s.recLine part r.frame)) s = .ok ((), s₁) →
      let a := s₁.frameRec part r.frame
      (∀ t, grantFault r a = some t →
        let s₂ := ({ s₁ with ops := SMap.del s₁.ops id } : State).updOwner o.owner
          (fun g => match o.flag with | none => g | some n => g.setFlag n (g.flag n - 1)) fun p => p
        exec (.appendGrant id) s = .next (match s₁.awaiter id o.owner with
          | none => s₂
          | some w => s₂.raiseTrap w false t)) ∧
      ∀ (ids : List Nat) (ts : Nat) (s₂ : State), grantFault r a = none →
        grantAt part o.ts (((s₁.life? o.owner.life).map (·.launch)).getD 0) (((s₁.life? o.owner.life).map (·.ctx)).getD 0)
          r a s₁ = .ok ((ids, ts), s₂) →
        let s₃ := s₂.updCore o.owner.core fun k => { k with pts := maxN k.pts ts }
        let s₄ : State :=
          { s₃ with ops := SMap.put s₃.ops id { o with kind := .appended r.lives, ts := ts, waits := ids.map .res } }
        exec (.appendGrant id) s = .next (match s₁.awaiter id o.owner with
          | none => s₄
          | some w => (s₄.updGroup w.agent fun g =>
              (grantRegs r a g).updQuads w.quads fun q => { q with await := none }).passedAppend
                { w with young := r.young })) ∧
    (∀ (r : AppendReq) (a : AppendRec) (g : Group) (n : BitVec 9), (∀ i ∈ r.lanes, i < 32) → r.lanes.Nodup →
      g.lanes.length = 32 → r.dst = .v n → ∀ k i, r.lanes[k]? = some i →
        ((grantRegs r a g).lane i).reg n.toNat = w32 (a.tail + k * r.n) ∧
        ((grantRegs r a g).lane i).pred 14 = decide (a.tail + k * r.n + r.n = a.limit * 64)) ∧
    (∀ (r : AppendReq) (a : AppendRec) (g : Group) (n : BitVec 7), g.lanes.length = 32 → r.dst = .s n →
      (grantRegs r a g).scalar n.toNat = w32 a.tail ∧
      ∀ i ∈ r.act, i < 32 → ((grantRegs r a g).lane i).pred 14 = decide (a.tail + r.n = a.limit * 64)) ∧
    (∀ (part id : Nat) (p : Part) (r : Resv) (ts : List Nat) (s₁ s₂ s₄ : State) (last : Nat),
      s.part? part = some p → p.resvs.find? (fun r => r.id = id) = some r →
      setLeafBitAt part r.clk r.entry 7 s = .ok ((), s₁) →
      collectM (pieces r.start r.src.bytes.length) (fun e => do
        let l := (r.frame + e.1) / 64
        mergeLine part l
        if e.2 < 64 then meetLine l else pure ()
        stampWrite part l r.clk fun h => LineSt.dirtied { h with lastCore := none, lastMask := 0 } (some r.ctx)) s₁ =
        .ok (ts, s₂) →
      let s₃ := ((s₂.lateLost r (s₂.lostPieces r)).landBytes part r).updPart part fun p =>
        { p with resvs := p.resvs.filter fun x => x.id ≠ id }
      appendWrite part (ts.foldl maxN 0) r.frame ((s₃.frameRec part r.frame).settle (s₃.openStarts part r.frame)) s₃ =
        .ok (last, s₄) →
      exec (.reservationComplete part id) s = .next (s₄.waitOver (.res id) last)) ∧
    ∀ (id : Nat) (o : Op) (frames : List (RegRef × Nat)), SMap.get? s.ops id = some o → o.kind = .seal frames →
      let part := (s.partOfCore o.owner.core).getD 0
      let done (e : RegRef × Nat) : Prop :=
        1 ≤ (s.frameRec part e.2).st ∧ (s.frameRec part e.2).settled = (s.frameRec part e.2).tail
      ((∃ e ∈ frames, ¬done e) → exec (.sealCompletion id) s = .next s) ∧
      ∀ (tss : List Nat) (s₁ : State), (∀ e ∈ frames, done e) →
        collectM frames (fun e => do
          let r ← look fun s => s.frameRec part e.2
          if r.st = 1 then appendWrite part o.ts e.2 { r with st := 2 }
          else do
            let (wts, _) ← homeTs part ((← look fun s => s.recLine part e.2))
            pure wts) s = .ok (tss, s₁) →
        let o' : Op := { o with vals := frames.map fun e => (e.1, w64 (s₁.frameRec part e.2).tail),
                                ts := tss.foldl maxN o.ts }
        exec (.sealCompletion id) s = .next (({ s₁ with ops := SMap.put s₁.ops id o' } : State).finishOp id)

/-! ## Copy and matrix engines, gongs -/

/-- COPY FORMS AT ISSUE (R188 to R191, R200, R203, R204, R211). Each copy form is held where the pool has no room for
its commands, takes the first failed check of its issuers at the instruction, and otherwise executes: its commands are
accepted in order, their promises are written to DST, errors that wait in the rows of their records and lists are met,
and one operation that waits for them starts. An accepted command that moves bytes is queued with its record and index
list and a promise that is not before `$cyc`; one that moves none completes at once. `publish` likewise gives its
tickets, each command waiting for its event. `pstat` executes and reports. -/
def Obligations.CopyForms : Prop :=
  (∀ (i : Instr) (cf : CopyForm) (s s₁ : State) (w : Who) (fm : Form) (f : Fields) (a : Nat → DWord),
    (i, cf) ∈ [(.cpy f, .cpy), (.cpy2d f, .cpy2d), (.gather f, .gather), (.scatter f, .scatter), (.cfill f, .cfill)] →
    Issues i s w fm f → readSrcs w f.imm [srcRaw f.sa] (onward s w fm) = .ok ([a], s₁) →
    let issuers := copyIssuers w f.dst
    let l := issuers.map fun j =>
      (j, (a j).toNat % 2 ^ 32, CopyRec.ofBytes (s₁.recordBytes w ((a j).toNat % 2 ^ 32)))
    (Config.maxCmds < s₁.poolUse w.part + issuers.length → exec i s = .next s) ∧
    (s₁.poolUse w.part + issuers.length ≤ Config.maxCmds →
      (∀ t, firstFault w (l.map fun e => (e.1, copyCheckA s₁ w cf f.ty e.2.1 e.2.2)) = some t →
        exec i s = .next (s.raiseTrap w fm.ends t)) ∧
      (∀ t, copyChecks w cf f.ty l s₁ = .error (.trap t) → exec i s = .next (s.raiseTrap w fm.ends t)) ∧
      ∀ (idx : List (List Int)) (s₂ s₃ s₄ s₅ s₆ : State) (got : List (Nat × List Wait)),
        copyChecks w cf f.ty l s₁ = .ok (idx, s₂) → copyCommits w (l.map fun e => e.2.2) s₂ = .ok ((), s₃) →
        collectM (l.zip idx) (fun e => acceptCopy w cf f.ty e.1.2.1 e.1.2.2 e.2) s₃ = .ok (got, s₄) →
        writeDst w f.dst true false (fun j => w64 ((((issuers.zip got).find? fun e => e.1 = j).map (·.2.1)).getD 0)) s₄ =
          .ok ((), s₅) →
        copyTouches w cf l s₅ = .ok ((), s₆) →
        exec i s = .next (started w .engine [] [] none (got.flatMap (·.2)) s₆))) ∧
  (∀ (s t : State) (w : Who) (cf : CopyForm) (ty : Ty) (a x : Nat) (r : CopyRec) (idx : List Int) (ws : List Wait)
      (p : Part), s.part? w.part = some p → acceptCopy w cf ty a r idx s = .ok ((x, ws), t) →
    s.cyc ≤ x ∧ t.mem = s.mem ∧ ∃ q, t.part? w.part = some q ∧
      (moved cf ty r idx = 0 → q.cmds = p.cmds ∧ ws = [] ∧ x = s.cyc) ∧
      (moved cf ty r idx ≠ 0 → ∃ c, q.cmds = p.cmds ++ [c] ∧ c.form = cf ∧ c.ty = ty ∧ c.cr = r ∧ c.idx = idx ∧
        c.st = .queued ∧ c.promise = x ∧ c.done = [] ∧ c.ctx = w.ctx ∧ ws = [.cmd c.id])) ∧
  (∀ (s s₁ t : State) (w : Who) (fm : Form) (f : Fields) (a : Nat → DWord), Issues (.pstat f) s w fm f →
    readSrcs w f.imm [srcRaw f.sa] (onward s w fm) = .ok ([a], s₁) →
    writeDst w f.dst false false (fun i => (w32 (s₁.pstat w ((a i).toNat % 2 ^ 32))).setWidth 64) s₁ = .ok ((), t) →
    exec (.pstat f) s = .next t) ∧
  (∀ (s s₁ : State) (w : Who) (fm : Form) (f : Fields) (a : Nat → DWord), Issues (.publish f) s w fm f →
    readSrcs w f.imm [srcPair f.sa] (onward s w fm) = .ok ([a], s₁) →
    let issuers := copyIssuers w f.dst
    let faults := issuers.map fun i => (i, publishFault s₁ w (a i).toNat)
    (Config.maxCmds < s₁.poolUse w.part + issuers.length → exec (.publish f) s = .next s) ∧
    (s₁.poolUse w.part + issuers.length ≤ Config.maxCmds →
      (∀ t, firstFault w faults = some t → exec (.publish f) s = .next (s.raiseTrap w fm.ends t)) ∧
      ∀ (s₂ s₃ s₄ : State) (got : List (Nat × Nat)), firstFault w faults = none → commitTask w s₁ = .ok ((), s₂) →
        collectM issuers (fun i => acceptPublish w (a i).toNat) s₂ = .ok (got, s₃) →
        writeDst w f.dst false false (fun j => w64 ((((issuers.zip got).find? fun e => e.1 = j).map (·.2.1)).getD 0)) s₃ =
          .ok ((), s₄) →
        exec (.publish f) s = .next (started w .engine [] [] none (got.map fun e => .cmd e.2) s₄))) ∧
  ∀ (s t : State) (w : Who) (a n k : Nat) (p : Part), s.part? w.part = some p → acceptPublish w a s = .ok ((n, k), t) →
    t.mem = s.mem ∧ ∃ q c, t.part? w.part = some q ∧ q.cmds = p.cmds ++ [c] ∧ c.form = .publish ∧ c.cr.addrd = a ∧
      c.st = .waiting ∧ c.ctx = w.ctx ∧ c.ticket = n ∧ c.id = k

/-- COPY EVENTS (R188, R197 to R201, R203, R210, R211): a queued command is started by a free engine; a command whose
lines are all written ends and what waits for it goes on; a waiting command whose line may proceed runs again; a line
of a running command leaves it waiting where it is held, and is recorded as done once it has been moved otherwise; a
command that has not outlived its promise misses nothing, and one that has is counted and gets a new promise where no
fault is due, raises PROMISE to its issuer where that runs, and is otherwise marked as missed; a publish that something
precedes waits, and one that nothing precedes takes place and ends. Where a clause rests on a choice of the model, see
log entry 41. -/
def Obligations.CopyEvents : Prop :=
  ∀ (s : State) (part : Nat) (p : Part), s.part? part = some p →
    (∀ c, p.cmds.find? (fun c => c.st = .queued && c.form ≠ .publish) = some c →
      (p.cmds.filter fun c => c.form ≠ .publish && (c.st = .running || c.st = .waiting) && c.ticket ≠ 0).length < p.engines →
      exec (.copyCommandStart part) s =
        .next (s.updPart part fun p => p.updCmd c.id fun c => { c with st := .running })) ∧
    ∀ id c, s.cmd? part id = some c →
      (c.form ≠ .publish → c.st = .running → c.units ≤ c.done.length →
        exec (.copyCommandCompletion part id) s = .next (s.endCmd part id c.clk)) ∧
      (c.form ≠ .publish → c.st = .running → c.done.length < c.units →
        exec (.copyCommandCompletion part id) s = .next s) ∧
      (c.form ≠ .publish → c.st = .waiting →
        (match c.form with
          | .flush l => ∃ e ∈ (List.range l.length).zip l, e.1 ∉ c.done ∧ s.lineHeld part c e.2.va = false
          | _ => ∃ e ∈ dstRuns c.form c.ty c.cr c.idx, s.lineHeld part c e.1 = false) →
        exec (.shadowWriteRelease part id) s =
          .next (s.updPart part fun p => p.updCmd id fun c => { c with st := .running })) ∧
      (∀ line u, u = line % max c.places 1 → (p.pstate = 1 ∨ p.pstate = 2) → c.st = .running → u ∉ c.done →
        (∀ va, c.lineVa u = some va → s.lineHeld part c va = true → exec (.copyLineWrite part id line) s =
          .next (s.updPart part fun p => p.updCmd id fun c => { c with st := .waiting })) ∧
        ∀ s₁ clk, (∀ va, c.lineVa u = some va → s.lineHeld part c va = false) →
          (match c.form with
            | .flush l => ∃ st, l[u]? = some st ∧
                landOrStage (engineWho part c.ctx c.launch c.owner) (.cmd id) c.owner false c.clk st s = .ok (clk, s₁)
            | _ => c.pieces u ≠ [] ∧ moveLine part c (c.pieces u) s = .ok (clk, s₁)) →
          exec (.copyLineWrite part id line) s =
            .next (s₁.updPart part fun p => p.updCmd id fun c => { c with clk := clk, done := c.done ++ [u] })) ∧
      (c.overdue s.cyc = false → exec (.promiseMiss part id) s = .next s) ∧
      (c.overdue s.cyc = true →
        (∀ x s₁, c.cr.miss = true ∨ s.canStop c.owner = false →
          takePromise (moved c.form c.ty c.cr c.idx) 0 s = .ok (x, s₁) →
          s.cyc ≤ x ∧ exec (.promiseMiss part id) s = .next (s₁.updPart part fun q =>
            { q.updCmd id fun c => { c with promise := x, missed := true } with latecmd := q.latecmd + 1 })) ∧
        (c.cr.miss = false → s.canStop c.owner = true → s.runsNow c.owner = true →
          exec (.promiseMiss part id) s = .next
            ((s.updPart part fun q => q.updCmd c.id fun c => { c with missed := true, raised := true }).takeLate c.owner
              (promiseRec c.owner (s.waitIaddr (.cmd c.id)) c.ticket c.promise))) ∧
        (c.cr.miss = false → s.canStop c.owner = true → s.runsNow c.owner = false →
          exec (.promiseMiss part id) s = .next
            (s.updPart part fun q => q.updCmd id fun c => { c with missed := true }))) ∧
      ∀ sh, s.shadow part c.ctx c.cr.addrd = some sh → c.form = .publish → c.st ≠ .saved →
        (s.publishBlocked part c sh.2.2.2.1 sh.2.2.2.2 = true → exec (.publishEvent part id) s = .next s) ∧
        ∀ tp s₁, s.publishBlocked part c sh.2.2.2.1 sh.2.2.2.2 = false →
          publishAt part c.ctx c.clk [sh.1] s = .ok (tp, s₁) →
          exec (.publishEvent part id) s = .next (s₁.endCmd part id tp)

/-- MATRIX FORMS AND EVENTS (R314, R317, R318, R322, R323): each form whose command is accepted executes and starts one
operation that waits for it, changing no register; a failed check is taken at the instruction, and a full queue holds
it. An accepted command is the last of its core's queue. The engine reads the operand blocks of the command at the head,
one in each event, the last of which finds a FORMAT fault, then does its rows: 16 zeros, the row scaled by 2^n, or the
row of the product added to the accumulators, at the row's scratchpad address. A command whose 16 rows are done, or that
failed, leaves the queue and what waits for it goes on. -/
def Obligations.MatrixForms : Prop :=
  (∀ (i : Instr) (s s₁ : State) (w : Who) (fm : Form) (f : Fields) (vals : List (Nat → DWord)) (srcs : List SrcSpec)
      (mf : MatForm) (acc : Word), Issues i s w fm f → readSrcs w f.imm srcs (onward s w fm) = .ok (vals, s₁) →
    let x (k : Nat) : DWord := (vals.getD k fun _ => 0) w.low
    let k := kSteps (f.mod.getLsbD 0)
    (i ∈ [.mmaRr f, .mmaRs f, .mmaSr f, .mmaSs f] ∧ srcs = [srcRaw f.dst, srcPair f.sa, srcPair f.sb] ∧
        acc = (x 0).setWidth 32 ∧
        mf = .mma (f.mod.getLsbD 0) (f.mod.getLsbD 1) (matSrc s₁ w f.sa k (x 1)) (matSrc s₁ w f.sb k (x 2)) ∨
      i = .mzero f ∧ srcs = [srcRaw f.dst] ∧ acc = (x 0).setWidth 32 ∧ mf = .mzero ∨
      i = .mscale f ∧ srcs = [srcRaw f.dst, srcRaw f.sa] ∧ acc = (x 0).setWidth 32 ∧ mf = .mscale ((x 1).setWidth 32) ∨
      i = .mcvt f ∧ srcs = [srcPair f.dst, srcRaw f.sa, srcRaw f.sb] ∧ acc = (x 1).setWidth 32 ∧
        mf = .mcvt f.ty f.mod ((x 2).setWidth 32) (x 0)) →
    (∀ e, matFault s₁ w mf acc = some e → exec i s = .next (s.raiseTrap w fm.ends
      { kind := e.kind, cause := e.cause, mask := w.failMask w.act, addr := e.addr })) ∧
    (∀ t, matFault s₁ w mf acc = none → matFormat w mf = some t → exec i s = .next (s.raiseTrap w fm.ends t)) ∧
    (matFault s₁ w mf acc = none → matFormat w mf = none → Config.maxMat ≤ (s₁.core w.core).mq.length →
      exec i s = .next s) ∧
    ∀ y s₂, acceptMat w mf acc s₁ = .ok (y, s₂) → exec i s = .next (started w .engine [] [] none [y] s₂)) ∧
  (∀ (s t : State) (w : Who) (mf : MatForm) (acc : Word) (y : Wait),
    leaveDirect w s = .ok ((), s) → acceptMat w mf acc s = .ok (y, t) →
    t.mem = s.mem ∧ ∃ c, (t.core w.core).mq = (s.core w.core).mq ++ [c] ∧ c.form = mf ∧ c.acc = acc ∧ c.rows = 0 ∧
      c.blocks = [] ∧ c.owner = w.owner ∧ y = .mat w.core c.id) ∧
  (∀ (s s₁ : State) (core part : Nat) (c : MCmd) (a : Nat) (b : Block), s.matHead core = some c →
    s.partOfCore core = some part → c.failed = false → c.rows < 16 → c.blockAddrs[c.blocks.length]? = some a →
    c.row core a s = .ok (b, s₁) →
    let c' : MCmd := { c with blocks := c.blocks ++ [b] }
    (c'.blocks.length ≠ c'.blockAddrs.length ∨ c'.format = none →
      ∃ t, exec (.matrixCommandExecute core) s = .next t ∧ t.matHead core = some c' ∧ t.mem = s₁.mem) ∧
    ∀ x, c'.blocks.length = c'.blockAddrs.length → c'.format = some x →
      ∃ t, exec (.matrixCommandExecute core) s = .next t ∧ t.matHead core = some { c' with failed := true } ∧
        t.mem = s₁.mem) ∧
  (∀ (s s₁ : State) (core part : Nat) (c : MCmd) (a : Nat) (row : Block) (g : Life) (l : List Nat),
    s.matHead core = some c → s.partOfCore core = some part → c.failed = false → c.rows < 16 →
    c.blockAddrs.length ≤ c.blocks.length → (accRows c.acc)[c.rows]? = some a → c.row core a s = .ok (row, s₁) →
    s₁.cmdSpad c.owner.life a = some g →
    (match c.form with
      | .mma k4 sat _ _ => l = mmaRow (kSteps k4) sat c.operands.1 c.operands.2 c.rows (accElems row)
      | .mzero => l = List.replicate 16 0
      | .mscale n => l = (accElems row).map fun x => fscaleBits .f32 0 x n.toInt
      | .mcvt .. => False) →
    exec (.matrixCommandExecute core) s = .next ((s₁.setRow g (a / 64 * 64) (accBytes l)).updCore core fun k =>
      { k with mq := match k.mq with | [] => [] | c' :: t => { c' with rows := c.rows + 1 } :: t })) ∧
  (∀ (s t : State) (core part : Nat) (c : MCmd), s.matHead core = some c → s.partOfCore core = some part →
    c.failed = false → c.rows < 16 → c.blockAddrs.length ≤ c.blocks.length → matRow part core c s = .ok ((), t) →
    exec (.matrixCommandExecute core) s = .next t) ∧
  ∀ (s : State) (core : Nat) (c : MCmd), s.matHead core = some c →
    (c.failed = true ∨ 16 ≤ c.rows → exec (.matrixCommandCompletion core) s =
      .next ((s.updCore core fun k => { k with mq := k.mq.drop 1 }).waitOver (.mat core c.id) c.clk)) ∧
    (c.failed = false → c.rows < 16 → exec (.matrixCommandCompletion core) s = .next s)

/-- GONGS (R304 to R313). A gong that another team holds gives CHANNEL cause 4 to `gset`, `garm` and `sign`; `gset`
and `garm` with a nonzero count give cause 6, `garm` of a gong that no team holds and `sign` of one that is not armed
with a number give cause 5. Otherwise `gset` frees the gong with 0, gives cause 7 above 4095, and else sets its number;
`garm` arms a held gong with a record in the scratchpad, and gives ALIGN or LEASE where the record is misaligned or
outside; a `sign` that is not the last counts one and waits for its round; the last one issues the bound command, whose
end the whole round then waits for, and begins the next round; `gstat` reports without a fault. -/
def Obligations.Gongs : Prop :=
  ∀ (s s₁ : State) (w : Who) (fm : Form) (f : Fields) (a : Nat → DWord),
    let n := gongIndex f.dst
    let v : Word := (a w.low).setWidth 32
    (∀ i, i ∈ [.gset f, .garm f] → Issues i s w fm f → readSrcs w f.imm [srcRaw f.sa] (onward s w fm) = .ok ([a], s₁) →
      (∀ g, s₁.gong? w.core n = some g →
        (g.holder ≠ w.life → exec i s = .next (s.raiseTrap w fm.ends (gongTrap w n 4))) ∧
        (g.holder = w.life → g.count ≠ 0 → exec i s = .next (s.raiseTrap w fm.ends (gongTrap w n 6)))) ∧
      (i = .garm f → s₁.gong? w.core n = none → exec i s = .next (s.raiseTrap w fm.ends (gongTrap w n 5)))) ∧
    (Issues (.sign f) s w fm f →
      (∀ g, s.gong? w.core n = some g → g.holder ≠ w.life →
        exec (.sign f) s = .next (s.raiseTrap w fm.ends (gongTrap w n 4))) ∧
      ((∀ g, s.gong? w.core n = some g → g.holder = w.life ∧ (g.armed = false ∨ g.n = 0)) →
        exec (.sign f) s = .next (s.raiseTrap w fm.ends (gongTrap w n 5)))) ∧
    (Issues (.gset f) s w fm f → readSrcs w f.imm [srcRaw f.sa] (onward s w fm) = .ok ([a], s₁) →
      (∀ g, s₁.gong? w.core n = some g → g.holder = w.life ∧ g.count = 0) →
      (v.toNat = 0 → exec (.gset f) s = .next (s₁.updCore w.core fun k => { k with gongs := SMap.del k.gongs n })) ∧
      (4095 < v.toNat → exec (.gset f) s = .next (s.raiseTrap w fm.ends (gongTrap w n 7))) ∧
      (0 < v.toNat → v.toNat ≤ 4095 → exec (.gset f) s = .next (s₁.setGong w.core n
        { (s₁.gong? w.core n).getD ⟨w.life, false, 0, 0, 0, 0⟩ with n := v.toNat }))) ∧
    (∀ g, Issues (.garm f) s w fm f → readSrcs w f.imm [srcRaw f.sa] (onward s w fm) = .ok ([a], s₁) →
      s₁.gong? w.core n = some g → g.holder = w.life → g.count = 0 →
      let out := spadBad (s₁.laneSpad w.life v.toNat) v.toNat 64
      let fault (kind cause : Nat) : Trap := { kind := kind, cause := cause, mask := w.failMask w.act, addr := v.toNat }
      (v.toNat % 64 ≠ 0 → exec (.garm f) s = .next (s.raiseTrap w fm.ends (fault kALIGN 1))) ∧
      (v.toNat % 64 = 0 → out = true → exec (.garm f) s = .next (s.raiseTrap w fm.ends (fault kLEASE 3))) ∧
      (v.toNat % 64 = 0 → out = false →
        exec (.garm f) s = .next (s₁.setGong w.core n { g with armed := true, recAddr := v }))) ∧
    (∀ g, Issues (.sign f) s w fm f → s.gong? w.core n = some g → g.holder = w.life → g.armed = true → g.n ≠ 0 →
      let x : Wait := .gong w.life n g.gen
      let record := g.recAddr.toNat
      (g.count + 1 < g.n → exec (.sign f) s = .next (started w .engine [] [] none [x]
        ((onward s w fm).setGong w.core n { g with count := g.count + 1 }))) ∧
      (g.n ≤ g.count + 1 → spadBad ((onward s w fm).laneSpad w.life record) record 64 = true →
        exec (.sign f) s = .next (s.raiseTrap w fm.ends
          { kind := kLEASE, cause := 3, mask := w.failMask w.act, addr := record })) ∧
      ∀ ws s₂, g.n ≤ g.count + 1 → spadBad ((onward s w fm).laneSpad w.life record) record 64 = false →
        boundIssue w record ((onward s w fm).recordBytes w record) (onward s w fm) = .ok (ws, s₂) →
        let clk := ((onward s w fm).core w.core).pts
        let s₃ := runD (do let _ ← startOp w .engine [] [] none clk (x :: ws))
          (s₂.setGong w.core n { g with count := 0, gen := (g.gen + 1) % 2 ^ 32 })
        exec (.sign f) s = .next (({ s₃ with ops := SMap.map s₃.ops fun _ o =>
          if o.waits = [x] then { o with waits := x :: ws } else o } : State).waitOver x clk)) ∧
    ∀ t, Issues (.gstat f) s w fm f →
      writeDst w f.dst false false
        (fun _ => (w32 ((onward s w fm).gstat w (gongIndex f.sa))).setWidth 64) (onward s w fm) = .ok ((), t) →
      exec (.gstat f) s = .next t

/-! ## Tasks -/

/-- THE REGISTER POOL (R216, R368, R378 to R381). ALIGN cause 2 is taken where the count of an `alloc` or `claim` of
registers is 0 or takes the window beyond 512, that of an `alloc` of scratchpad is 0 or above 1,572,864, and that of a
`release` is 0, leaves no register or cuts into a carried one. Otherwise `alloc` and `claim` of n registers that the
side can give grow the group's window by n at once; `alloc` of scratchpad that the team's banks cover changes nothing,
and a team without banks takes as many free ones as hold n bytes, zeroed; an `alloc` that is not met and a `claim` that
is not met in a first phase that has not committed abort and split it; an `alloc` that is not met in any other task
takes GRAIN, and a `claim` parks its group, at lane level at the end of its side's queue. `release` of n registers
shrinks the window by n and loses exactly the registers above it. Where a clause rests on a choice of the model, see log
entry 27. -/
def Obligations.RegisterPool : Prop :=
  ∀ (i : Instr) (s s₁ : State) (w : Who) (fm : Form) (f : Fields) (a : Nat → DWord),
    Issues i s w fm f → readSrcs w f.imm [srcRaw f.sa] (onward s w fm) = .ok ([a], s₁) →
    let n := (a w.low).toNat % 2 ^ 32
    let win := (s₁.groupOf w).w
    let regs : Prop := i = .claim f ∨ i = .alloc f ∧ rawImm f.imm f.sb ≠ 1
    let bytes : Prop := i = .alloc f ∧ rawImm f.imm f.sb = 1
    let align : Host.Outcome State Fault Refusal :=
      .next (s.raiseTrap w fm.ends { kind := kALIGN, cause := 2, mask := w.failMask w.act })
    let unmet : Prop :=
      (s₁.firstOpen w = true →
        exec i s = .next (s.abortSplit w.team (faultRecOf w fm.ends { kind := kGRAIN, cause := 1 }))) ∧
      (i = .alloc f → s₁.firstOpen w = false → exec i s = .next (s.raiseTrap w fm.ends
        { kind := kGRAIN, cause := if s₁.modeOf w = .committed then 2 else 3, mask := w.failMask w.act,
          info := ((s₁.teamOf w).map (·.task.dom)).getD [] }))
    (regs → n = 0 ∨ 512 < win + n → exec i s = align) ∧
    (bytes → n = 0 ∨ 1572864 < n → exec i s = align) ∧
    (i = .releaseRegs f → n = 0 ∨ win < n + 1 ∨ win < n + s₁.carriedTop w → exec i s = align) ∧
    (regs → 0 < n → win + n ≤ 512 → s₁.canGrow w n = true →
      exec i s = .next ((s₁.updGroup w.agent fun g =>
        { g with w := g.w + n, alloc := g.alloc + (regsOf (g.w + n) - regsOf g.w), park := none }).poolChanged
          w.core (w.g % 2))) ∧
    (regs → 0 < n → win + n ≤ 512 → s₁.canGrow w n = false → unmet) ∧
    (i = .claim f → 0 < n → win + n ≤ 512 → s₁.canGrow w n = false → s₁.firstOpen w = false →
      let t := s₁.updGroup w.agent fun g => { g with park := some n }
      exec i s = .next (if w.level = .lane then
          (t.updCore w.core fun k => k.setClaimq (w.g % 2) (k.claimq (w.g % 2) ++ [(w.team, w.g)])).poolChanged
            w.core (w.g % 2)
        else t)) ∧
    (bytes → 0 < n → n ≤ 1572864 → w.level ≠ .lane → unmet) ∧
    (∀ g, bytes → w.level = .lane → s₁.life? w.life = some g → 0 < n → n ≤ 1572864 →
      (g.banks ≠ [] → n ≤ g.scratch → exec i s = .next s₁) ∧
      (g.banks ≠ [] → g.scratch < n → unmet) ∧
      (g.banks = [] → (s₁.freeBanks w.core).length * 32768 < n → unmet) ∧
      (g.banks = [] → n ≤ (s₁.freeBanks w.core).length * 32768 → ∃ bs : List Nat,
        bs.length = (n + 32767) / 32768 ∧ bs.Nodup ∧ (∀ b ∈ bs, b ∈ s₁.freeBanks w.core) ∧
        exec i s = .next (({ s₁ with free := s₁.free + 1 } : State).giveBanks w.life w.core n bs))) ∧
    (i = .releaseRegs f → 0 < n → n + 1 ≤ win → n + s₁.carriedTop w ≤ win → w.level ≠ .lane →
      ∃ t, exec i s = .next t ∧ ((s₁.group? w.agent).isSome → (t.groupOf w).w = win - n ∧
        ∀ j k, readRef t w (.v j k) = if k < win - n then readRef s₁ w (.v j k) else 0)) ∧
    (i = .releaseRegs f → 0 < n → n + 1 ≤ win → n + s₁.carriedTop w ≤ win → w.level = .lane →
      exec i s = .next ((s₁.updGroup w.agent fun g =>
        g.shrink n (decide (s₁.modeOf w = .tentative))).poolChanged w.core (w.g % 2)))

/-- COMMIT, TASKEND AND PHASE (R364, R373, R374): `commit` executes with the task's commit; `taskend` executes, halts
the team, ends its front programs and empties its bins, and ends every lane of the issuing gang; `phase` is held while
the team has a filed lane, takes ALIGN cause 3 where its front target is not a multiple of 48, and otherwise executes:
every lane that takes part has arrived with its resume target, and a front target other than 0 is written in the team's
phase record. Where a clause rests on a choice of the model, see log entry 27. -/
def Obligations.TaskForms : Prop :=
  ∀ (s : State) (w : Who) (fm : Form) (f : Fields),
    (∀ t, Issues (.commit f) s w fm f → commitTask w (onward s w fm) = .ok ((), t) → exec (.commit f) s = .next t) ∧
    (Issues (.taskend f) s w fm f → w.level = .lane → w.front = false → ∃ t, exec (.taskend f) s = .next t ∧
      (∀ i ∈ w.lanes, i < (s.groupOf w).lanes.length → ((t.groupOf w).lane i).st = .ended) ∧
      ∀ x, t.team? w.team = some x → x.ending = some .life ∧ x.bins = [] ∧ x.front.run = false ∧
        x.mseq.run = false ∧ x.cseq.run = false) ∧
    (∀ x, Issues (.phase f) s w fm f → (onward s w fm).teamOf w = some x → x.bins ≠ [] →
      exec (.phase f) s = .next s) ∧
    ∀ (a : Nat → DWord) (s₁ : State), Issues (.phase f) s w fm f →
      readSrcs w f.imm [srcPair f.sa] (onward s w fm) = .ok ([a], s₁) →
      (∀ x, (onward s w fm).teamOf w = some x → x.bins = []) →
      ((a w.low).toNat % 48 ≠ 0 → exec (.phase f) s = .next (s.raiseTrap w fm.ends
        { kind := kALIGN, cause := 3, mask := w.failMask w.act, addr := (a w.low).toNat % 2 ^ 56 })) ∧
      ((a w.low).toNat % 48 = 0 → ∃ t, exec (.phase f) s = .next t ∧
        (∀ i ∈ w.act, i < (s₁.groupOf w).lanes.length →
          ((t.groupOf w).lane i).st = .arrived ∧ ((t.groupOf w).lane i).tgt = unitTargetOf w f) ∧
        (∀ i, i ∉ w.act → (t.groupOf w).lane i = (s₁.groupOf w).lane i) ∧
        (∀ n, n ≠ w.life → t.life? n = s₁.life? n) ∧
        (a w.low ≠ 0 → w.level = .lane → ∀ l, t.life? w.life = some l → l.phase.nfront = (a w.low).toNat))

/-- LAUNCH AND SPAWN (R360, R370). `launch` takes the fault of the first check that fails for an issuer: ALIGN, then
LEASE, of its descriptor, LEASE of its ranges, and the checks of its status record; otherwise it reads them, commits,
walks to the status records, submits one launch for each issuer in order, records ECCU for the descriptors that could
not be read, and starts an operation. `spawn` takes the fault of the first record that fails; otherwise it commits,
pushes one record for each issuer in order, meets the errors that wait in the rows of the records, and starts an
operation that waits until each has a place. -/
def Obligations.LaunchAndSpawn : Prop :=
  (∀ (s s₁ : State) (w : Who) (fm : Form) (f : Fields) (ea : Nat → Nat), Issues (.launch f) s w fm f →
    readEaA w f (onward s w fm) = .ok (ea, s₁) →
    let l : List Acc := (srcIssuers w f.sa).map fun i => ⟨i, ea i, ea i⟩
    let first (s : State) : Option Trap :=
      failing w kALIGN 1 l (fun x => decide (x.ea % 64 ≠ 0)) <|>
        failing w kLEASE 1 l fun x => !s.inLease w x.va 64 [rightR]
    (∀ t, first s₁ = some t → exec (.launch f) s = .next (s.raiseTrap w fm.ends t)) ∧
    ∀ (hs : List (List Byte × Bool)) (s₂ : State), first s₁ = none →
      collectM l (fun x => genRun w x.va 64) s₁ = .ok (hs, s₂) →
      let ranges (i : Nat) : Nat := fieldOf ((((l.zip hs).find? fun e => e.1.lane = i).map fun e => e.2.1).getD []) 7 1
      let status : List Acc := (l.zip hs).map fun e => ⟨e.1.lane, fieldOf e.2.1 24 8, fieldOf e.2.1 24 8⟩
      let second : Option Trap :=
        failing w kLEASE 1 l (fun x => ranges x.lane ≠ 0 && decide (ranges x.lane ≤ 16) &&
          !s₂.inLease w (x.va + 64) (24 * ranges x.lane) [rightR]) <|> statusFault s₂ w status
      (∀ t, second = some t → exec (.launch f) s = .next (s.raiseTrap w fm.ends t)) ∧
      ∀ (rs : List (List Byte × Bool)) (s₃ s₄ s₅ : State), second = none →
        collectM l (fun x => if ranges x.lane ≤ 16 then genRun w (x.va + 64) (24 * ranges x.lane) else pure ([], false))
          s₂ = .ok (rs, s₃) →
        commitTask w s₃ = .ok ((), s₄) →
        each status (fun x => walkReads w.part w.core w.ctx x.va) s₄ = .ok ((), s₅) →
        let pts := (s₅.core w.core).pts
        let t := (l.zip (hs.zip rs)).foldl (fun s e => s.submit w.part w.ctx e.1.va (some w.launch) pts e.2.1.1 e.2.2.1
          (s.statusLeaf w (fieldOf e.2.1.1 24 8))) s₅
        let bad := ((l.zip (hs.zip rs)).filter fun e => e.2.1.2 || e.2.2.2).map (·.1)
        exec (.launch f) s = .next (startedAt w .engine [] [] (eccu w bad) pts t)) ∧
  ∀ (s s₁ : State) (w : Who) (fm : Form) (f : Fields) (a : Nat → DWord), Issues (.spawn f) s w fm f →
    readSrcs w f.imm [srcRaw f.sa] (onward s w fm) = .ok ([a], s₁) →
    let l := (srcIssuers w f.sa).map fun i => (i, (a i).toNat % 2 ^ 32)
    let fault := firstFault w (l.map fun e => (e.1, spawnCheck s₁ w e.2))
    (∀ t, fault = some t → exec (.spawn f) s = .next (s.raiseTrap w fm.ends t)) ∧
    ∀ s₂ u p, fault = none → commitTask w s₁ = .ok ((), s₂) → s₂.part? w.part = some p →
      let pts := (s₂.core w.core).pts
      let t := (l.map fun e => TaskRec.ofBytes (s₁.spawnBytes w e.2)).foldl (fun s r =>
        let n := s.freshRec w.part w.ctx { r with slot := ((s₂.launch? w.launch).map (·.slot)).getD 0 } pts
        n.2.pushRec w.part w.ctx w.launch n.1 none []) s₂
      touchRows w l 128 t = .ok ((), u) →
      exec (.spawn f) s = .next (startedAt w (.spawn w.part ((List.range l.length).map (p.nextOrder + ·))) [] [] none pts u)

/-- TASK EVENTS (R216, R358, R368, R372, R375 to R377): TASK_START where no record fits changes nothing and otherwise
starts the record it pops; a group with an arrived lane, none running or recorded, free flags and no late fault sets
its bit and TSMAX in the phase record, writes its area there, gives its window up and, where it is the last, finishes
the task; an allowance that has run out aborts and splits a first phase that has not committed and asks for the
pre-emption of any other; TASK_END of a committed task with no operation left ends its life or pushes its next phase;
banks of ended lives return. Where a clause rests on a choice of the model, see log entries 25, 26, 27. -/
def Obligations.TaskEvents : Prop :=
  ∀ (s : State),
    (∀ part core, s.popChoice part core = none → exec (.taskStart part core) s = .next s) ∧
    (∀ part core e t, s.popChoice part core = some e → e.resume = [] →
      (match e.life with
        | none => startFirsts part core e (s.popEntry part e) = .ok ((), t)
        | some l => startLater core l e (s.popEntry part e) = .ok ((), t)) →
      exec (.taskStart part core) s = .next t) ∧
    (∀ n, exec (.scratchBankRelease n) s = .next s.dropEnded) ∧
    (∀ t x, s.team? t = some x → x.allow = 0 → x.allowOut = false → x.fault = none → x.ending = none →
      (x.mode ≠ .committed → x.task.later = false → exec (.allowanceExpiry t) s = .next (s.abortSplit t noPlace)) ∧
      ((x.mode = .committed ∨ x.task.later = true) → exec (.allowanceExpiry t) s =
        .next ((s.updTeam t fun x => { x with allowOut := true }).requestSave t))) ∧
    (∀ t x, s.team? t = some x → x.allow ≠ 0 → exec (.allowanceExpiry t) s = .next s) ∧
    (∀ t g x y k u l, s.team? t = some x → SMap.get? x.groups g = some y → y.live = true → y.noPath = true →
      y.anyArrived = true → y.flags = [] → y.late = [] → x.ending = none →
      s.life? x.life = some l → (s.launch? l.launch).bind (·.kernel) = some k →
      let s₁ := (s.updPhase x.life fun p =>
        { p with arrived := p.arrived ||| BitVec.ofNat 64 (2 ^ g), tsmax := max p.tsmax (s.core x.core).pts }).putArea
          x.life g k (areaOf k y)
      let s₂ := s₁.updGroup (.lane t g 0) fun y => { y with hasArrived := true, live := false }
      finishTask t ((s₂.updTeam t Team.trimDq).poolChanged x.core (g % 2)) = .ok ((), u) →
      exec (.groupArrival t g) s = .next u) ∧
    ∀ t x f k, s.team? t = some x → x.fault = none → x.lateOf t = none → x.ending = some k → x.mode = .committed →
      x.groupsOver = true → s.life? x.life = some f → s.opsOf x.life x.gen = false →
      (k = .phase → exec (.taskEnd t) s = .next ((s.pushPhase x f).removeTeam t)) ∧
      ∀ u, k = .life → joinEnd f x.life x.core x.gen x.task s = .ok ((), u) →
        exec (.taskEnd t) s = .next ((u.removeTeam t).endLife x.life)

namespace Sys2Proof.Claims

/-- What LAUNCH_GRANT does last: a launch that has passed every check takes its slot, and no other one. -/
def toSlot (n : Nat) (u v : State) : Prop :=
  (∀ m, u.launch? n = some m → m.ready = true → grantSlot n m u = .ok ((), v)) ∧
  ((∀ m, u.launch? n = some m → m.ready = false) → v = u)

/-- What LAUNCH_GRANT does with a check that failed: the launch ends with the code and DETAIL, or posts a residency
request (R104, R106). -/
def turnedAway (n : Nat) (t : Stuck) (s u : State) : Prop :=
  match t with
  | .refuse code detail => endLaunch n code (some detail) s = .ok ((), u)
  | .absent va pages => ∃ l, s.launch? n = some l ∧ postResidency n l va pages s = .ok ((), u)

/-- Steps 5 to 7 of R104 from `s` to `u`: every entry of the walk read at home, the pins taken, the first failed check of
the walk or of the rights; none leaves the launch ready. -/
def walked (n : Nat) (l : Launch) (s u : State) : Prop :=
  let x := walkRanges s l l.ranges
  ∃ clk s₁, schedWalks l.part l.ctx l.clk (x.1.map (·.lo) ++ Stuck.at? x.2) s = .ok (clk, s₁) ∧
    let t := (s₁.updLaunch n fun l => { l with clk := max l.clk clk }).updLaunch n fun l => { l with pins := pinsOf x.1 }
    match x.2 <|> spanRights t l.part x.1 with
    | some e => turnedAway n e t u
    | none => u = t.updLaunch n fun l => { l with ready := true }

end Sys2Proof.Claims

/-- LAUNCH EVENTS (R104, R106, R108, R362, R469): LAUNCH_GRANT of a launch that is not pending or waits for an answer
changes nothing. That of one whose kernel has not been read reads it; a failed walk to it or a failed check of steps 1
to 4 refuses the launch or posts a residency request, and a launch that passes is walked. The checks refuse with 0x10
more than 16 ranges or a bad one, with 0x18 a bad shape, with 0x11 an overlap; what passes them has none of these, a
covered entry clause, and lies inside its parent's ranges. That of one whose kernel is read walks its ranges, and
refuses the launch, posts a residency request, or goes on to the slot of a launch that passed; a residency answer of 1
lets the launch be walked again, one of 2 refuses it and any other leaves it waiting; a granted launch with nothing
left of it ends with status 2, or 3 where something of it was killed, and that of a host in a context in checkpoint
mode is checkpointed first, or rolled back. Where a clause rests on a choice of the model, see log entries 26, 29. -/
def Obligations.LaunchEvents : Prop :=
  ∀ (s : State) (n : Nat) (l : Launch) (p : Part), s.launch? n = some l → s.part? l.part = some p →
    (p.pstate ≠ 1 ∨ l.st ≠ .pending ∨ l.waiting.isSome → exec (.launchGrant n) s = .next s) ∧
    (∀ t, p.pstate = 1 → l.st = .pending → l.waiting = none → l.ready = true → grantSlot n l s = .ok ((), t) →
      exec (.launchGrant n) s = .next t) ∧
    (∀ u v, p.pstate = 1 → l.st = .pending → l.waiting = none → l.ready = false → l.kernel.isSome = true →
      walked n l s u → toSlot n u v → exec (.launchGrant n) s = .next v) ∧
    (∀ t off s₁ u v, p.pstate = 1 → l.st = .pending → l.waiting = none → l.ready = false → l.kernel = none →
      readKernel n l s = .ok ((t, off), s₁) → toSlot n u v →
      (∀ e, t = some e → turnedAway n e s₁ u → exec (.launchGrant n) s = .next v) ∧
      ∀ l₁ k, t = none → s₁.launch? n = some l₁ → l₁.kernel = some k →
        let rs := k.ranges ++ l.ranges
        (∀ e, declareCheck s₁ l₁ k off rs = some e → turnedAway n e s₁ u → exec (.launchGrant n) s = .next v) ∧
        (declareCheck s₁ l₁ k off rs = none →
          walked n { l₁ with ranges := rs } (s₁.updLaunch n fun _ => { l₁ with ranges := rs }) u →
          exec (.launchGrant n) s = .next v)) ∧
    (∀ (k : Kernel) (off : Nat) (rs : List Range),
      let many := k.ranges.length + l.rangen
      let code (c : Nat) : Prop := ∃ d, declareCheck s l k off rs = some (.refuse c d)
      (16 < many → code 0x10) ∧
      (many ≤ 16 → (∃ r ∈ rs, r.bad = true) → code 0x10) ∧
      (many ≤ 16 → (∀ r ∈ rs, r.bad = false) → badShape l k = true → code 0x18) ∧
      (many ≤ 16 → (∀ r ∈ rs, r.bad = false) → badShape l k = false →
        (∃ i r, rs[i]? = some r ∧ ∃ q ∈ rs.take i, overlaps q.base q.size r.base r.size = true) → code 0x11) ∧
      (declareCheck s l k off rs = none → many ≤ 16 ∧ (∀ r ∈ rs, r.bad = false) ∧ badShape l k = false ∧
        k.entry % 48 = 0 ∧ coveredBy rs [rightX] k.entry 48 17 = true ∧
        (l.args ≠ 0 → ∃ r ∈ rs, r.has l.args [rightR] = true) ∧
        ∀ m parent, l.parent = some m → s.launch? m = some parent → ∀ r ∈ rs, r.inside parent.ranges = true)) ∧
    (∀ slot r s₁, p.resq.find? (fun r => r.slot = slot) = some r → p.pstate = 1 →
      mergeLine l.part ((p.cfg.resq + 32 * slot) / 64) s = .ok ((), s₁) →
      let answer := s₁.le (p.cfg.resq + 32 * slot) 4
      let t := (s₁.updPart l.part fun p => { p with resq := p.resq.filter fun x => x ≠ r }).updLaunch r.launch
        fun l => { l with waiting := none }
      (answer = 1 → exec (.residencyAnswerPoll l.part slot) s = .next t) ∧
      (∀ u, answer = 2 → endLaunch r.launch 0x17 (some r.va) t = .ok ((), u) →
        exec (.residencyAnswerPoll l.part slot) s = .next u) ∧
      (answer ≠ 1 → answer ≠ 2 → exec (.residencyAnswerPoll l.part slot) s = .next s₁)) ∧
    (l.st ≠ .granted ∨ s.launchBusy n l = true → exec (.leaseEnd n) s = .next s) ∧
    (l.st = .granted → s.launchBusy n l = false →
      let ck := l.host && s.ctxCkpt p l.ctx
      (∀ t, l.killed = none → ck = false → endLaunch n 2 none s = .ok ((), t) → exec (.leaseEnd n) s = .next t) ∧
      (∀ s₁ t, l.killed = none → ck = true → checkpoint n l s = .ok ((), s₁) → endLaunch n 2 none s₁ = .ok ((), t) →
        exec (.leaseEnd n) s = .next t) ∧
      (∀ a t, l.killed = some a → ck = false → endLaunch n 3 (some a) s = .ok ((), t) →
        exec (.leaseEnd n) s = .next t) ∧
      ∀ a t, l.killed = some a → ck = true → rollbackContext l.part l.ctx s = .ok ((), t) →
        exec (.leaseEnd n) s = .next t)

/-! ## Announcements -/

/-- ANNOUNCEMENT FORMS (R401, R402, R409 to R413). A failed check of an access is taken at the instruction; where the
records that `ann` or `bcas` needs are not free, APPENDLIM cause 3 is taken and the commit stays. Otherwise the task
commits and the form executes: `ann` announces lane by lane and starts the operation that gives the handles, unless it
is detached; `help` acts access by access and gives 1 where a record was applied; `collect` gives lane by lane the
result that it takes and p14, 0 where it takes none; `annq` gives for each lane the state of the record that its handle
names; `bcas` takes its argument blocks and two records for each lane and starts the operation that makes its steps.
THE WALKER (R407) does nothing to a record before 8,192 cycles have passed since it was announced, and then applies a
record that is still announced and forgets one that is not. Where a clause rests on a choice of the model, see log
entry 21. -/
def Obligations.AnnounceForms : Prop :=
  (∀ (s s₁ : State) (w : Who) (fm : Form) (f : Fields),
    (∀ (a : Nat → DWord) (s₂ s₃ s₄ : State), Issues (.annq f) s w fm f →
      readSrcs w f.imm [srcRaw f.sa] (onward s w fm) = .ok ([a], s₁) → commitTask w s₁ = .ok ((), s₂) →
      each (accessLanes w f.dst) (fun i => meetRecord w.part w.ctx ((a i).toNat % 2 ^ 32)) s₂ = .ok ((), s₃) →
      reserveDst w f.dst s₃ = .ok ((), s₄) →
      exec (.annq f) s = .next (started w .load ((destRefs w f.dst false).map (·.2))
        (landings w f.dst false false fun i => w64 (annqValue s₃ w.part w.ctx ((a i).toNat % 2 ^ 32))) none [] s₄)) ∧
    (∀ (ea : Nat → Nat), Issues (.helpObj f) s w fm f → readEaA w f (onward s w fm) = .ok (ea, s₁) →
      let l := s₁.accs w false ea (accessLanes w f.dst)
      let fault := failing w kLEASE 1 l fun a => !s₁.inLease w a.va 1 [rightR, rightW]
      (∀ t, fault = some t → exec (.helpObj f) s = .next (s.raiseTrap w fm.ends t)) ∧
      ∀ (got : List (Acc × Bool × Bool)) (s₂ s₃ s₄ : State), fault = none → commitTask w s₁ = .ok ((), s₂) →
        collectM l (helpLane w) s₂ = .ok (got, s₃) → reserveDst w f.dst s₃ = .ok ((), s₄) →
        exec (.helpObj f) s = .next (started w .load ((destRefs w f.dst false).map (·.2))
          (landings w f.dst false false fun i => if ∃ g ∈ got, g.1.lane = i ∧ g.2.1 = true then 1 else 0)
          (eccu w ((got.filter fun g => g.2.2).map (·.1))) [] s₄)) ∧
    (∀ (op : AOp) (a c e : Nat → DWord), Issues (.ann op f) s w fm f →
      readSrcs w f.imm [srcPair f.sa, srcTyped f.ty f.sb,
        if op = .cas then srcTyped f.ty (thirdOf f) else srcRaw (.v 0)] (onward s w fm) = .ok ([a, c, e], s₁) →
      let l := s₁.accs w false (fun i => (a i).toNat) (accessLanes w f.dst)
      (∀ t, objFault s₁ w f.ty.bytes l = some t → exec (.ann op f) s = .next (s.raiseTrap w fm.ends t)) ∧
      ∀ s₂, objFault s₁ w f.ty.bytes l = none → commitTask w s₁ = .ok ((), s₂) →
        (∀ u, meetLine (s₂.atab w.part w.ctx / 64) s₂ = .ok ((), u) →
          u.isPoison (s₂.atab w.part w.ctx / 64) = true ∨ u.annAlloc w.part w.ctx l.length = none →
          exec (.ann op f) s = .next ((runD (commitTask w) s).raiseTrap w fm.ends (tooFew w l))) ∧
        ∀ (is : List Nat) (got : List (Acc × Nat × Bool)) (s₃ s₄ : State), takeRecords w l.length l s₂ = .ok (is, s₃) →
          collectM (l.zip is) (fun x => annLane w op f.ty (decide (f.dst = .p 15)) x.1 x.2 (c x.1.lane) (e x.1.lane)) s₃ =
            .ok (got, s₄) →
          let handle (i : Nat) : DWord := w64 (((got.find? fun g => g.1.lane = i).map fun g => g.2.1).getD 0)
          let late := eccu w ((got.filter fun g => g.2.2).map (·.1))
          (f.dst = .p 15 → exec (.ann op f) s = .next (started w .load [] [] late [] s₄)) ∧
          (f.dst ≠ .p 15 → exec (.ann op f) s = .next (started w .load ((destRefs w f.dst false).map (·.2))
            (landings w f.dst false false handle) late [] s₄))) ∧
    (∀ (a : Nat → DWord) (s₀ : State), Issues (.collect f) s w fm f →
      readSrcs w f.imm [srcRaw f.sa] (onward s w fm) = .ok ([a], s₀) →
      let h (i : Nat) : Nat := (a i).toNat % 2 ^ 32
      let lanes := accessLanes w f.dst
      each lanes (fun i => meetRecord w.part w.ctx (h i)) s₀ = .ok ((), s₁) →
      let l := (lanes.filterMap fun i => (s₁.annTakes w.part w.ctx (h i)).map fun r => (i, r)).map
        fun e => (⟨e.1, s₁.annGet w.part w.ctx e.2 24 8, e.2⟩ : Acc)
      let fault := failing w kLEASE 1 l fun x => s₁.annState w.part w.ctx x.va = 1 &&
        !s₁.inLease w x.ea (s₁.annWidth w.part w.ctx x.va) [rightR, rightW]
      (∀ t, fault = some t → exec (.collect f) s = .next (s.raiseTrap w fm.ends t)) ∧
      ∀ (got : List (DWord × Bool × Bool)) (s₂ s₃ : State), fault = none → commitTask w s₁ = .ok ((), s₂) →
        collectM lanes (fun i => collectLane w (h i)) s₂ = .ok (got, s₃) →
        let of (i : Nat) : DWord × Bool × Bool := (((lanes.zip got).find? fun g => g.1 = i).map (·.2)).getD (0, false, false)
        let flags : List (RegRef × DWord) :=
          if w.front then [] else lanes.map fun i => (.p i 14, if (of i).2.1 then 1 else 0)
        exec (.collect f) s = .next (started w .load ((destRefs w f.dst true).map (·.2) ++ flags.map (·.1))
          (landings w f.dst true false (fun i => (of i).1) ++ flags) (eccu w (l.filter fun x => (of x.lane).2.2)) [] s₃)) ∧
    ∀ (a b c : Nat → DWord), Issues (.bcas f) s w fm f →
      readSrcs w f.imm [srcPair f.sa, srcPair f.sb, srcRaw (thirdOf f)] (onward s w fm) = .ok ([a, b, c], s₁) →
      let lanes := accessLanes w f.dst
      let xs := s₁.accs w false (fun i => (a i).toNat) lanes
      let ys := s₁.accs w false (fun i => (b i).toNat) lanes
      let cs := spadAccs (fun i => (c i).toNat % 2 ^ 32) lanes
      let fault := objFault s₁ w f.ty.bytes ((xs.zip ys).flatMap fun e => [e.1, e.2]) <|> spadFault s₁ w 32 32 cs
      (∀ t, fault = some t → exec (.bcas f) s = .next (s.raiseTrap w fm.ends t)) ∧
      ∀ (args : List (List Byte × Bool)) (s₂ s₃ s₄ : State), fault = none → reserveDst w f.dst s₁ = .ok ((), s₂) →
        commitTask w s₂ = .ok ((), s₃) → collectM cs (fun x => bcasArgs w x.ea) s₃ = .ok (args, s₄) →
        (∀ u, meetLine (s₄.atab w.part w.ctx / 64) s₄ = .ok ((), u) →
          u.isPoison (s₄.atab w.part w.ctx / 64) = true ∨ u.annAlloc w.part w.ctx (2 * lanes.length) = none →
          exec (.bcas f) s = .next ((runD (commitTask w) s).raiseTrap w fm.ends (tooFew w xs))) ∧
        ∀ (is : List Nat) (parts : List BcasPart) (s₅ s₆ : State), takeRecords w (2 * lanes.length) xs s₄ = .ok (is, s₅) →
          collectM (((xs.zip ys).zip (cs.zip args)).zip (List.range lanes.length)) (fun e =>
            bcasPart w f.dst e.1.1.1 e.1.1.2 e.1.2.1.ea (is.getD (2 * e.2) 0) (is.getD (2 * e.2 + 1) 0) e.1.2.2.1 e.1.2.2.2)
            s₅ = .ok (parts, s₆) →
          exec (.bcas f) s = .next (started w (.bcas w.ctx f.ty (lateRec w { kind := kECCU }) parts)
            ((destRefs w f.dst false).map (·.2)) [] none [] s₆)) ∧
  (∀ (s : State) (w : Who) (h i : Nat),
    (s.annTakes w.part w.ctx h = none → collectLane w h s = .ok ((0, false, false), s)) ∧
    (s.annTakes w.part w.ctx h = some i → s.annState w.part w.ctx i = 2 → ∃ t, collectLane w h s = .ok
      (if bitN (s.annGet w.part w.ctx i 11 1) 3 then (0, false, true)
        else (w64 (s.annGet w.part w.ctx i 40 8), true, false), t))) ∧
  ∀ (s : State) (part ctx i t : Nat) (p : Part), s.part? part = some p →
    let key := ctx * 65536 + i
    SMap.get? p.annSince key = some t →
    (s.cyc < t + Config.walkerAge → exec (.annWalkerApply part ctx i) s = .next s) ∧
    (t + Config.walkerAge ≤ s.cyc → s.annState part ctx i ≠ 1 → exec (.annWalkerApply part ctx i) s =
      .next (s.updPart part fun p => { p with walker := key, annSince := SMap.del p.annSince key })) ∧
    ∀ s₁, t + Config.walkerAge ≤ s.cyc → s.annState part ctx i = 1 → walkRecord part ctx i s = .ok ((), s₁) →
      exec (.annWalkerApply part ctx i) s = .next (s₁.updPart part fun p =>
        { p with walker := key, annSince := if s₁.annState part ctx i = 1 then p.annSince else SMap.del p.annSince key })

/-! ## Clauses, gangs and clocks -/

/-- CLAUSES, GANGS AND BINS (R38, R40, R326 to R331, R334, R344, R383, R384): CLAUSE_START settles the paths of the
agent's group, and then starts nothing for an agent that may not start and the clause of one that stands before it; a
hold that has not lasted its time starts nothing and one that has starts the clause; CLAUSE_BOUNDARY makes the boundary
choice of its quad and changes no other state but its group's or its team's bins. At a boundary a quad's live lanes
stand on paths, no two of them at one place; a path that none recorded before has waited from now on. Of the paths one
is chosen: where the timer stands at 64, or `yield` asks, the recorded one that has waited longest, the lowest PC
first, else that with the lowest PC; the others are recorded, and the timer goes back to 0 where the current path
changes. Of more than three paths those above the chosen and the two lowest are filed, and where no bin takes one the
quad goes solo; in solo mode it passes to the next live lane, and leaves it once no more than three paths remain.
SLEEPTO_WAKE clears exactly the deadlines that `$cyc` has reached; GANG_AGE_PROMOTION before 1,024 cycles, or of a gang
that is not ready, changes nothing and otherwise makes every quad of the gang the oldest of its side; a bin that is
neither full nor aged is not drawn, one that is, is drawn into the slot found, and where there is none an aged bin
gives its lanes back to their old groups, but for those whose group cannot take them. Where a clause rests on a choice
of the model, see log entries 17, 18, 19, 45, 55. -/
def Obligations.ClauseEvents : Prop :=
  (∀ (s : State) (a : Agent), let t := s.pathsSettled a
    (t.mayStart a = false ∨ t.starter a = none → exec (.clauseStart a) s = .next t) ∧
    ∀ u w pc, t.mayStart a = true → t.starter a = some (w, pc) → startClause w pc t = .ok ((), u) →
      exec (.clauseStart a) s = .next u) ∧
  (∀ (s : State) (a : Agent) (n : Nat), s.holdSince a true = some n →
    (s.cyc < n + Config.parkLimit → exec (.parkqTimeout a) s = .next s) ∧
    (n + Config.parkLimit ≤ s.cyc → exec (.parkqTimeout a) s = exec (.clauseStart a) s)) ∧
  (∀ (s : State) (a : Agent) (n : Nat), s.holdSince a false = some n →
    (s.cyc < n + Config.reconvLimit → exec (.reconvHoldTimeout a) s = .next s) ∧
    (n + Config.reconvLimit ≤ s.cyc → exec (.reconvHoldTimeout a) s = exec (.clauseStart a) s)) ∧
  (∀ (s : State) (t g q : Nat), ∃ u, exec (.clauseBoundary t g q) s = .next u ∧ u.mem = s.mem ∧ u.cores = s.cores ∧
    u.parts = s.parts ∧ u.ops = s.ops ∧ (∀ n, n ≠ t → u.team? n = s.team? n) ∧
    ∀ x y, s.team? t = some x → u.team? t = some y → y.front = x.front ∧ y.mode = x.mode ∧ y.tent = x.tent ∧
      ∀ k, k ≠ g → SMap.get? y.groups k = SMap.get? x.groups k) ∧
  (∀ (s : State) (t g q : Nat) (y : Group), s.group? (.lane t g q) = some y → (y.quad q).bound = true →
    (y.quad q).latch = none →
    let a : Agent := .lane t g q
    let x := y.quad q
    let l := y.paths q s.cyc
    let s₁ := (overPaths x.timer x.force l).foldl (fun s p => s.filePath a q p) s
    (∀ y₁, x.solo = none → s₁.group? a = some y₁ → (y₁.paths q s₁.cyc).length ≤ 3 → exec (.clauseBoundary t g q) s =
      .next (s₁.updGroup a fun y => (y.updQuad q fun x => x.settle (y.paths q s₁.cyc)).joinGang q)) ∧
    (∀ y₁ p i, x.solo = none → s₁.group? a = some y₁ → 3 < (y₁.paths q s₁.cyc).length →
      lowestPath (y₁.paths q s₁.cyc) = some p → p.mask.getLsbD i = true → (∀ j < i, p.mask.getLsbD j = false) →
      exec (.clauseBoundary t g q) s = .next (s₁.updGroup a fun y => y.updQuad q fun x => x.toSolo i)) ∧
    (∀ i, x.solo = some i → l.length ≤ 3 → ∃ u h, exec (.clauseBoundary t g q) s = .next u ∧ u.group? a = some h ∧
      (q < y.quads.length → (h.quad q).solo = none ∧ (h.quad q).timer = 0 ∧
        ∀ c, choosePath 0 x.force l = some c → (h.quad q).cur = c.mask)) ∧
    ∀ i k, x.solo = some i → 3 < l.length → y.soloNext q i = some k →
      exec (.clauseBoundary t g q) s = .next (s.updGroup a fun y => y.updQuad q fun x => x.toSolo k)) ∧
  (∀ (y : Group) (q now i : Nat), i < 4 → (y.lane (4 * q + i)).st = .live →
    ∃ p ∈ y.paths q now, p.mask.getLsbD i = true) ∧
  (∀ (y : Group) (q now : Nat), ∀ p ∈ y.paths q now,
    (∀ r ∈ y.paths q now, p.pc = r.pc → p.base = r.base → p = r) ∧
    (p.since = now ∨ ∃ r ∈ (y.quad q).recs, p.since = r.since) ∧
    (p.old = true → ∃ r ∈ (y.quad q).recs, p.mask &&& r.mask ≠ 0)) ∧
  (∀ (timer : Nat) (force : Bool) (l : List Path) (c : Path), choosePath timer force l = some c →
    c ∈ l ∧
    ((64 ≤ timer ∨ force = true) → (∃ p ∈ l, p.old = true) →
      c.old = true ∧ ∀ p ∈ l, p.old = true → c.since < p.since ∨ c.since = p.since ∧ c.pc ≤ p.pc) ∧
    ((timer < 64 ∧ force = false ∨ ∀ p ∈ l, p.old = false) → ∀ p ∈ l, c.pc ≤ p.pc) ∧
    ∀ x : Quad, x.timer = timer → x.force = force → (x.settle l).cur = c.mask ∧ (x.settle l).solo = none ∧
      (x.settle l).recs = ((l.filter fun p => p.mask ≠ c.mask).map fun p => ⟨p.mask, p.since⟩) ∧
      (x.settle l).timer = if c.mask = x.cur then timer else 0) ∧
  (∀ (timer : Nat) (force : Bool) (l : List Path), (l.length ≤ 3 → overPaths timer force l = []) ∧
    ∀ p ∈ overPaths timer force l, p ∈ l ∧ ∃ c, choosePath timer force l = some c ∧ p.mask ≠ c.mask ∧
      ∃ d ∈ l, ∃ e ∈ l, d.mask ≠ c.mask ∧ e.mask ≠ c.mask ∧ d.mask ≠ e.mask ∧ p.mask ≠ d.mask ∧ p.mask ≠ e.mask ∧
        d.pc ≤ p.pc ∧ e.pc ≤ p.pc) ∧
  (∀ (s : State) (t g q i : Nat) (x : Team) (y : Group) (p : Path), s.team? t = some x → SMap.get? x.groups g = some y →
    p.lanes q = [i] → s.filePath (.lane t g q) q p = match x.fileLane g i p.pc y.w s.cyc with
      | none => s
      | some x' => s.updTeam t fun _ => x') ∧
  (∀ (y : Group) (q i k : Nat), y.soloNext q i = some k → ∃ d < 4, k = (i + 1 + d) % 4 ∧
    (y.lane (4 * q + k)).st = .live ∧ ∀ e < d, (y.lane (4 * q + (i + 1 + e) % 4)).st ≠ .live) ∧
  (∀ (s : State) (t g q : Nat) (y : Group), s.mayStart (.lane t g q) = true → s.group? (.lane t g q) = some y →
    ∃ u h, exec (.sleeptoWake (.lane t g q)) s = .next u ∧ u.group? (.lane t g q) = some h ∧ h.lanes = y.lanes ∧
      ∀ (k : Nat) (d : Nat), k < y.quads.length → (y.quad k).sleep = some d →
        (h.quad k).sleep = if s.cyc < d then some d else none) ∧
  (∀ (s : State) (a : Agent) (y : Group), s.group? a = some y →
    (s.cyc < (y.quad (agentQuad a)).lastCyc + 1024 → exec (.gangAgePromotion a) s = .next s) ∧
    (∀ w, s.who? a = some w → s.ready w = false → exec (.gangAgePromotion a) s = .next s) ∧
    ∀ w, s.who? a = some w → s.ready w = true → (y.quad (agentQuad a)).lastCyc + 1024 ≤ s.cyc →
      exec (.gangAgePromotion a) s = .next ((s.agedSide w.core (w.g % 2)).updGroup a fun g =>
        g.updQuads (g.gangOf (agentQuad a)) fun x => { x with age := 0 })) ∧
  ∀ (s : State) (t bin : Nat) (x : Team) (b : Bin), s.team? t = some x → SMap.get? x.bins bin = some b → x.fault = none →
    (b.lanes.length < 32 → s.cyc < b.since + Config.binAge → exec (.binDraw t bin) s = .next s) ∧
    (∀ g, s.drawSlot x b = some g → (32 ≤ b.lanes.length ∨ b.since + Config.binAge ≤ s.cyc) →
      exec (.binDraw t bin) s = .next (s.drawBin t bin g b)) ∧
    (∀ g, s.drawSlot x b = some g → b.since + Config.binAge ≤ s.cyc →
      exec (.binAgeExpiry t bin) s = .next (s.drawBin t bin g b)) ∧
    (s.drawSlot x b = none → exec (.binDraw t bin) s = .next s) ∧
    (∀ no u, s.drawSlot x b = none → b.since + Config.binAge ≤ s.cyc →
      collectM b.lanes (fun f => returnLane t b f) (s.updTeam t fun x => { x with bins := SMap.del x.bins bin }) =
        .ok (no, u) →
      let stay := ((b.lanes.zip no).filter fun e => e.2).map (·.1)
      exec (.binAgeExpiry t bin) s = .next (if stay = [] then u
        else u.updTeam t fun x => { x with bins := SMap.put x.bins bin { b with lanes := stay } })) ∧
    (s.cyc < b.since + Config.binAge → exec (.binAgeExpiry t bin) s = .next s)

/-- CLOCKS, DELIVERIES, SWEEPS AND PREFETCHES (R112, R162, R169, R233, R234, R347, R354, R367): PTS_TICK, where no
error waits in a directory entry, advances `$cyc` by its cycles, every core's clock of every partition by the quarters
passed and its three counts of lost picks by at most four a cycle together; of the pushes that may arrive, one arrives
and enters the FIFO it was sent to; a sweep leaves every line that its slice homes with the epoch of the current base,
every other line as it was, and ends; a prefetch inside the lease fetches into one of its core's caches and one outside
changes only DROPSPEC. Where a clause rests on a choice of the model, see log entries 2, 36. -/
def Obligations.DeviceEvents : Prop :=
  (∀ (s : State) (n : Nat), (∀ l, Upset.dir l ∉ s.upsets) → ∃ t, exec (.ptsTick n) s = .next t ∧ t.cyc = s.cyc + n ∧
    t.mem = s.mem ∧
    (∀ c, c < 384 → (s.partOfCore c).isSome → (t.core c).pts = (s.core c).pts + ((s.cyc + n) / 4 - s.cyc / 4)) ∧
    (∀ c, c < 384 → (s.partOfCore c).isSome →
      ((t.core c).ifstall0 - (s.core c).ifstall0).toNat + ((t.core c).ifstall1 - (s.core c).ifstall1).toNat +
        ((t.core c).ifstall2 - (s.core c).ifstall2).toNat ≤ 4 * n) ∧
    (∀ m x, s.team? m = some x → ∃ y, t.team? m = some y ∧ y.allow = x.allow - n ∧ y.groups = x.groups)) ∧
  (∀ (s : State) (core : Nat),
    (s.oldestPushes core = [] → exec (.queueDelivery core) s = .next { s with free := s.free + 1 }) ∧
    (s.oldestPushes core ≠ [] → ∃ t i x, exec (.queueDelivery core) s = .next t ∧ (i, x) ∈ s.oldestPushes core ∧
      (t.core core).inflight = (s.core core).inflight.take i ++ (s.core core).inflight.drop (i + 1) ∧ t.mem = s.mem ∧
      t.teams = s.teams ∧
      ∀ n q, SMap.get? (s.core core).fifos n = some q → ∃ r, SMap.get? (t.core core).fifos n = some r ∧
        r.slots = if n = x.fifo ∧ q.owner = x.life then q.slots ++ [x.entry] else q.slots)) ∧
  (∀ (s : State) (n j : Nat) (p : Part), (s.slice n).sweep = true → s.partOfTwelfth (twelfthOfSlice n) = some j →
    s.part? j = some p → ∃ t, exec (.rebaseSweepComplete n) s = .next t ∧ (t.slice n).sweep = false ∧ t.mem = s.mem ∧
      (t.slice n).base0 = (s.slice n).base0 ∧ (t.slice n).base1 = (s.slice n).base1 ∧
      ∀ line l, SMap.get? s.lines line = some l →
        (homedAt j p.size n line = true → (t.line line).e = (s.slice n).cb) ∧
        (homedAt j p.size n line = false → t.line line = l)) ∧
  ∀ (s : State) (core t va : Nat) (w : Who), s.teamWho t = some w → w.core = core →
    let a := va % 2 ^ 56
    let b := a / 48 * 48
    let inside : Bool := s.inLease w a 1 [rightR]
    let s' : State := { s with free := s.free + 1 }
    (inside = false → exec (.hardwarePrefetch core t va) s =
      .next (s.updPart w.part fun p => { p with dropspec := p.dropspec + 1 })) ∧
    (∀ u c, inside = true → (s.peekLeaf w a).map leafClass = some c → c ≠ 0 → prefetchLine w a .near s' = .ok ((), u) →
      ∃ v, exec (.hardwarePrefetch core t va) s = .next v ∧ (v = u ∨ v = s')) ∧
    (∀ u pl s₁ s₂, inside = true → (s.peekLeaf w a).map leafClass = some 0 → prefetchLine w a .near s' = .ok ((), u) →
      tryPlace w a s' = .ok (some pl, s₁) → meetLine (pl.pa / 64) s₁ = .ok ((), s₂) → s₂.isPoison (pl.pa / 64) = false →
      (∀ tile, ∃ r v, pathLine w.part core (pl.pa / 64) tile true true s₂ = .ok (r, v)) →
      ∃ v, exec (.hardwarePrefetch core t va) s = .next v ∧
        (v = u ∨ ∃ tile r, pathLine w.part core (pl.pa / 64) tile true true s₂ = .ok (r, v))) ∧
    let ahead : Prop := ∃ x, s.team? t = some x ∧ x.front.run = true
    (¬ahead → exec (.speculativeFetch t va) s = .next s) ∧
    (∀ u, ahead → s.inLease w b 48 [rightX] = true → fetchBlock w 0 b s = .ok ((), u) →
      exec (.speculativeFetch t va) s = .next u) ∧
    (ahead → s.inLease w b 48 [rightX] = false → exec (.speculativeFetch t va) s = .next (s.updPart w.part fun p =>
      { p with dropspec := p.dropspec + if b / 65536 = (b + 47) / 65536 then 1 else 2 }))

/-! ## Handlers -/

namespace Sys2Proof.Claims

/-- The window writes of some lanes, in ascending lane order (R428): the module after them, and for each lane
whether its item took the value. -/
def windowWrites (w : Who) (a c : Nat → DWord) : List Nat → State → State × List (Nat × Bool)
  | [], s => (s, [])
  | i :: rest, s =>
    let r := (s.windowOn w.core).bind fun t => (itemOf ((a i).toNat % 2 ^ 32)).bind fun it =>
      s.winWrite w.core t it ((c i).toNat % 2 ^ 32)
    let n := windowWrites w a c rest (r.getD s)
    (n.1, (i, r.isSome) :: n.2)

/-- The kinds of fault whose `fix` only resumes the team (R429). -/
def plainKind (r : FaultRec) : Prop :=
  r.kind ≠ kPROMISE ∧ r.kind ≠ kTRAP ∧ r.kind ≠ kCLAIMLOCK ∧ ¬(r.kind = kGRAIN ∧ r.cause = 1)

end Sys2Proof.Claims

/-- HANDLER FORMS (R422, R425 to R431): `trap` takes KIND 13 with its operand in INFO0; `hwin` executes, writes 0 and
opens the window where its token names a stopped team or the stopped handler group of its core, and writes 1 and
closes it otherwise; `hwrd` executes, gives each lane the item that its address names and p14 true, or 0 and p14 false
where there is none; `hwwr` executes and writes lane by lane; `dispose` ends the handler group and disposes of its
team; `trapret` of a handler skips, and of firmware goes back to the handler group below; HANDLER_START starts the
next stopped team's handler at its context's HENTRY with 32 lanes, the stop token in s0 and word 0 of the record in
s1, does nothing where the slot is taken by a group that no fault has halted, and enters firmware for one that has
halted. Where a clause rests on a choice of the model, see log entries 22, 23. -/
def Obligations.HandlerForms : Prop :=
  (∀ (s s₁ : State) (w : Who) (fm : Form) (f : Fields) (a : Nat → DWord),
    (Issues (.trap f) s w fm f → readSrcs w f.imm [srcRaw f.sa] (onward s w fm) = .ok ([a], s₁) →
      exec (.trap f) s = .next (s.raiseTrap w fm.ends
        { kind := 13, mask := w.failMask w.act, info := [(a w.low).setWidth 32] })) ∧
    (∀ t, Issues (.hwin f) s w fm f → readSrcs w f.imm [srcRaw f.sa] (onward s w fm) = .ok ([a], s₁) →
      let tok := (a w.low).toNat % 2 ^ 32
      let found := s₁.tokenOf w.core tok
      writeDst w f.dst false false (fun _ => if found.isSome then 0 else 1) (s₁.updCore w.core fun k =>
        { k with handler := k.handler.map fun h => { h with window := found.map fun _ => tok } }) = .ok ((), t) →
      exec (.hwin f) s = .next t) ∧
    (∀ t, Issues (.hwrd f) s w fm f → readSrcs w f.imm [srcRaw f.sa] (onward s w fm) = .ok ([a], s₁) →
      let val (i : Nat) : Option Nat := (s₁.windowOn w.core).bind fun t =>
        (itemOf ((a i).toNat % 2 ^ 32)).bind fun it => s₁.winRead w.core t it
      writeDst w f.dst false false (fun i => (w32 ((val i).getD 0)).setWidth 64) s₁ = .ok ((), t) →
      exec (.hwrd f) s = .next (t.putP14 w (w.act.map fun i => (i, (val i).isSome)))) ∧
    ∀ c, Issues (.hwwr f) s w fm f → readSrcs w f.imm [srcRaw f.sa, srcRaw f.sb] (onward s w fm) = .ok ([a, c], s₁) →
      exec (.hwwr f) s = .next ((windowWrites w a c w.act s₁).1.putP14 w (windowWrites w a c w.act s₁).2)) ∧
  (∀ (s : State) (w : Who) (fm : Form) (f : Fields) (h : Handler), ((onward s w fm).core w.core).handler = some h →
    (Issues (.dispose f) s w fm f → exec (.dispose f) s = .next
      (((onward s w fm).updCore w.core fun k => { k with handler := none }).disposeOf h.team (rawImm 0 f.sa).toNat)) ∧
    (Issues (.trapret f) s w fm f → w.level = .handler → exec (.trapret f) s = .next
      (((onward s w fm).updCore w.core fun k => { k with handler := none }).disposeOf h.team 1)) ∧
    ∀ g r k win, Issues (.trapret f) s w fm f → w.level = .firmware → h.below = some (g, r, k, win) →
      ∃ t u, exec (.trapret f) s = .next t ∧ (t.core w.core).handler = some u ∧ u.level = .handler ∧ u.below = none ∧
        u.window = win ∧ u.team = h.team ∧ u.group.sreg = g.sreg ∧ (∀ i, (u.group.lane i).v = (g.lane i).v) ∧
        t.mem = s.mem) ∧
  ∀ (s : State) (c : Nat),
    (∀ h, (s.core c).handler = some h → h.halt = none → exec (.handlerStart c) s = .next s) ∧
    (∀ h, (s.core c).handler = some h → h.halt ≠ none → exec (.handlerStart c) s = .next (s.enterFirmware c)) ∧
    ((s.core c).handler = none → (s.core c).stops = [] → exec (.handlerStart c) s = .next s) ∧
    ∀ t rest x l r p tok, (s.core c).handler = none → (s.core c).stops = t :: rest → s.team? t = some x →
      s.life? x.life = some l → x.fault = some r → s.part? l.part = some p → x.token = some tok →
      ∃ u h, exec (.handlerStart c) s = .next u ∧ (u.core c).handler = some h ∧ (u.core c).stops = rest ∧
        h.team = t ∧ h.level = .handler ∧ h.ctx = l.ctx ∧ h.window = none ∧
        h.group.scalar 0 = w32 tok ∧ h.group.scalar 1 = w32 (r.kind + 256 * r.cause) ∧
        (∀ i < 32, (h.group.lane i).st = .live ∧ (h.group.lane i).pc = s.ctxField p l.ctx 64 8 % 2 ^ 56) ∧
        u.mem = s.mem ∧ u.teams = s.teams

/-- TAKING A FAULT AND GOING ON (R415, R416, R418, R419, R422, R424, R429). At lane level the first fault of a team
fills its record (kind, cause, mask, address, the instruction's own address, precise), halts the team and leaves every
register, PC and byte of memory as it was; where no agent of the team stands in a clause any more the team takes the
next stop token and its place before the handler slot; a later fault stays pending with its group and leaves the team's
record. A fault of a handler group halts it; once no gang of it stands in a clause, firmware is entered at FENTRY with
a record of KIND 14, or 13 for a `trap`, the group kept below; a fault of firmware stops the partition with FWFAULT.
`fix` of a plain fault with nothing pending clears the record and lets the team run; `kill` removes it. Where a clause
rests on a choice of the model, see log entries 20, 23. -/
def Obligations.FaultsAndDispositions : Prop :=
  (∀ (s : State) (a : Agent) (w : Who) (ends : Bool) (t : Trap) (x : Team), s.who? a = some w → w.level = .lane →
    s.team? w.team = some x →
    ∃ y, (s.raiseTrap w ends t).team? w.team = some y ∧ y.mode = x.mode ∧
      (s.raiseTrap w ends t).mem = s.mem ∧ (∀ r, readRef (s.raiseTrap w ends t) w r = readRef s w r) ∧
      (∀ i, (((s.raiseTrap w ends t).groupOf w).lane i).pc = ((s.groupOf w).lane i).pc) ∧
      (∀ n, n ≠ w.team → (s.raiseTrap w ends t).team? n = s.team? n) ∧
      (x.fault = none → y.run = .halting ∧ (∃ r, y.fault = some r ∧ r.kind = t.kind ∧ r.cause = t.cause ∧
        r.mask = t.mask ∧ r.addr = t.addr ∧ r.info = t.info ∧ r.iaddr = w.latch.start + 12 * w.latch.slot ∧
        r.src = w.src ∧ r.precise = true)) ∧
      (x.fault = none → x.token = none → y.quiet = true → y.token = some (s.core x.core).nextTok ∧
        ((s.raiseTrap w ends t).core x.core).stops = (s.core x.core).stops ++ [w.team]) ∧
      ∀ r, x.fault = some r → y.fault = some r ∧
        (w.front = false → (s.groupOf w).pfault = none →
          ∃ p, ((s.raiseTrap w ends t).groupOf w).pfault = some p ∧ p.kind = t.kind)) ∧
  (∀ (s : State) (c j : Nat) (p : Part) (h : Handler) (r : FaultRec), (s.core c).handler = some h →
    s.partOfCore c = some j → s.part? j = some p →
    (h.level = .firmware → s.escalate c r = s.resetPart j false true) ∧
    (h.level ≠ .firmware → h.halt = none → (∀ q ∈ h.group.quads, q.latch = none ∨ q.sleep ≠ none) →
      ∃ u g rec', ((s.escalate c r).core c).handler = some u ∧ u.level = .firmware ∧ u.halt = none ∧
        u.below = some (g, rec', (s.core c).nextTok, h.window) ∧ g.lanes = h.group.lanes ∧ g.sreg = h.group.sreg ∧
        rec'.kind = (if r.kind = 13 then 13 else 14) ∧ rec'.src = 0 ∧ rec'.iaddr = r.iaddr ∧
        u.group.scalar 0 = w32 (s.core c).nextTok ∧ u.group.scalar 1 = w32 (rec'.kind + 256 * rec'.cause) ∧
        (∀ i < 32, (u.group.lane i).st = .live ∧ (u.group.lane i).pc = p.cfg.fentry) ∧ (s.escalate c r).mem = s.mem ∧
        (s.escalate c r).teams = s.teams) ∧
    (h.level ≠ .firmware → (∃ q ∈ h.group.quads, q.latch ≠ none ∧ q.sleep = none) →
      ∃ u rec', ((s.escalate c r).core c).handler = some u ∧ u.level = h.level ∧ u.halt = some rec' ∧
        (h.halt = none → rec' = r.escalated) ∧ (∀ r₀, h.halt = some r₀ → rec' = r₀) ∧ u.below = h.below ∧
        u.group.lanes = h.group.lanes ∧ u.group.sreg = h.group.sreg ∧ (s.escalate c r).mem = s.mem)) ∧
  (∀ (s : State) (t : Nat) (x : Team) (r : FaultRec), s.team? t = some x → x.fault = some r → x.pending = none →
    plainKind r → ∃ y, (s.disposeOf t 0).team? t = some y ∧ y.fault = none ∧ y.token = none ∧
      (x.ending = none → y.run = .running) ∧ (s.disposeOf t 0).mem = s.mem ∧
      ∀ g z, SMap.get? x.groups g = some z → ∃ z', SMap.get? y.groups g = some z' ∧ z'.lanes = z.lanes ∧ z'.sreg = z.sreg) ∧
  ∀ (s : State) (t : Nat) (x : Team) (l : Life) (r : FaultRec), s.team? t = some x → s.life? x.life = some l →
    l.ended = false → x.fault = some r → (s.disposeOf t 3).team? t = none

/-! ## Time slices and contexts -/

/-- PRE-EMPTION, SAVE AND RESUMPTION (R433 to R436): a slice that has expired while records wait, or an allowance that
has run out, requests the cluster's save; one that has expired with nothing waiting starts again; a running slice with
neither requests nothing; 24,000 cycles after the request, and not before, the agents are halted; a cluster whose teams
have not all stopped, or with a matrix command outstanding, is not saved, and one whose first phase has not committed
is pushed again; a team alone in its cluster waits for its values on their way, and then, where its later phase has not
committed, leaves its core with that phase pushed again, and where its task has committed, leaves its core if it finds
a save slot, with a resume entry that names it pushed, and goes on where it finds none; a core where no resume entry
fits resumes nothing, and one where an entry fits makes every team of it resident. Where a clause rests on a choice of
the model, see log entry 25. -/
def Obligations.Preemption : Prop :=
  (∀ (s : State) (t : Nat) (x : Team), s.team? t = some x →
    let part := ((s.life? x.life).map (·.part)).getD 0
    let free : Prop := s.saving x.life = false ∧
      ∀ m ∈ s.mates t, ∀ y, s.team? m = some y → y.leaving = false
    (x.run ≠ .running ∨ x.fault.isSome ∨ x.ending.isSome → exec (.sliceExpiry t) s = .next s) ∧
    (x.run = .running → x.fault = none → x.ending = none → free →
      (x.slice = 0 ∧ s.recordsWait part x.core = true ∨ x.allowOut = true →
        exec (.sliceExpiry t) s = .next (s.requestSave t)) ∧
      (x.slice = 0 → s.recordsWait part x.core = false → x.allowOut = false → ∃ u, exec (.sliceExpiry t) s = .next u ∧
        ∃ y, u.team? t = some y ∧ y.run = .running ∧ ∀ p, s.part? part = some p → y.slice = p.cfg.tslice) ∧
      (x.slice ≠ 0 → x.allowOut = false → exec (.sliceExpiry t) s = .next s)) ∧
    (x.run = .running → x.fault = none → x.ending = none → s.saving x.life = true → ∃ u, exec (.sliceExpiry t) s = .next u ∧
      ∃ y, u.team? t = some y ∧ y.run = .preempting s.cyc ∧ y.groups = x.groups) ∧
    (∀ n, x.run = .preempting n → (s.cyc < n + 24000 → exec (.forcedSaveTimeout t) s = .next s) ∧
      (n + 24000 ≤ s.cyc → ∃ u y, exec (.forcedSaveTimeout t) s = .next u ∧ u.team? t = some y ∧ y.run = .halting ∧
        y.fault = x.fault ∧ u.mem = s.mem)) ∧
    ((∀ m ∈ s.mates t, ∃ y, s.team? m = some y ∧ (s.life? y.life).isSome) →
      ((∃ m ∈ s.mates t, ∃ y, s.team? m = some y ∧ y.stopped = false) → exec (.preemptSave t) s = .next s) ∧
      ((∀ m ∈ s.mates t, ∀ y, s.team? m = some y → y.stopped = true) →
        (∃ m ∈ s.mates t, ∃ y, s.team? m = some y ∧ y.leaving = true) →
        s.matFlight (((s.mates t).filterMap s.team?).map (·.life)) = false →
        ∀ m, (s.mates t).find? (fun m => ((s.team? m).map fun y => y.mode ≠ .committed && !y.task.later).getD false) =
          some m → exec (.preemptSave t) s = .next (s.rebirth m id)) ∧
      (s.matFlight (((s.mates t).filterMap s.team?).map (·.life)) = true → exec (.preemptSave t) s = .next s)) ∧
    ∀ part core, s.popChoice part core = none → exec (.teamResume part core) s = .next s) ∧
  (∀ (s : State) (t : Nat) (x : Team) (l : Life), s.team? t = some x →
    s.life? x.life = some l → s.mates t = [t] → x.stopped = true → x.leaving = true → s.matFlight [x.life] = false →
    ((x.mode = .committed ∨ x.task.later = true) → s.inFlight [x.life] = true → exec (.preemptSave t) s = .next s) ∧
    (x.mode ≠ .committed → x.task.later = true → s.inFlight [x.life] = false →
      exec (.preemptSave t) s = .next (s.rephase t) ∧ (s.rephase t).team? t = none) ∧
    (∀ p, x.mode = .committed → s.inFlight [x.life] = false → s.saveSlots l.part l.ctx 1 = [] → s.part? l.part = some p →
      exec (.preemptSave t) s =
        .next ((s.updTeam t fun x => { x with slice := p.cfg.tslice, run := .halting }).resumeTeam t)) ∧
    ∀ n ids u, x.mode = .committed → s.inFlight [x.life] = false → s.saveSlots l.part l.ctx 1 = [n] →
      s.saveTeams (if s.saving x.life then 2 else 1) [(t, n)] = (ids, u) →
      exec (.preemptSave t) s = .next (u.pushRec l.part l.ctx l.launch { x.task with affin := 0 } none ids) ∧
        u.team? t = none ∧ ids.length = 1) ∧
  ∀ (s u : State) (part core : Nat) (e : QEnt) (l : List (Nat × Nat × Saved)), s.popChoice part core = some e →
    e.resume ≠ [] → s.resumePlaces core e = some l →
    each l (fun x => resumeOne part x.1 x.2.1 x.2.2) (s.popEntry part e) = .ok ((), u) →
    exec (.teamResume part core) s = .next u

/-- CONTEXT FORMS (R258, R432, R442 to R444): `ctxsave` answers 1 for a saved context, 2 for one that is not valid and 3
where it has more teams than save slots, and otherwise stops its records and asks its teams from the progress index on
to leave; CTXSAVE_COMPLETE waits while a team of the context is resident or a value of one is on its way, and then saves
its commands and sets SAVED; `ctxload` answers 1 where the context is not saved and 2 where it is not valid, and
otherwise clears SAVED and lets its records, commands and saved teams from the progress index on go on; both answer 0 at
once where the progress index stands at the end; `tlbinv` executes and drops the entries of its scope in the cores from
the progress index on, and nothing where its operand is malformed, after the records of dropped pages that class 2 has
left are applied. Where a clause rests on a choice of the model, see log entries 21, 24, 52. -/
def Obligations.ContextForms : Prop :=
  (∀ (s s₁ : State) (w : Who) (fm : Form) (f : Fields) (a : Nat → DWord) (p : Part),
    readSrcs w f.imm [srcRaw f.sa] (onward s w fm) = .ok ([a], s₁) → s₁.part? w.part = some p →
    let c := (a w.low).toNat % 2 ^ 32
    let answer (n : Nat) : State := started w .engine ((destRefs w f.dst false).map (·.2))
      (landings w f.dst false false fun _ => w64 n) none [] s₁
    (Issues (.ctxsave f) s w fm f →
      (c < p.cfg.nctx → s₁.ctxSaved p c = true → exec (.ctxsave f) s = .next (answer 1)) ∧
      (s₁.ctxValid p c = false → (c < p.cfg.nctx → s₁.ctxSaved p c = false) → exec (.ctxsave f) s = .next (answer 2)) ∧
      (s₁.ctxValid p c = true → s₁.ctxSaved p c = false →
        s₁.ctxField p c 100 4 < (s₁.teamsOfCtx w.part c).length + (s₁.savedOfCtx w.part c).length →
        exec (.ctxsave f) s = .next (answer 3)) ∧
      (saveRefusal s₁ w.part c = none → w.pix ≠ 0 → (s₁.teamsOfCtx w.part c).length ≤ w.pix →
        exec (.ctxsave f) s = .next (answer 0)) ∧
      (saveRefusal s₁ w.part c = none → w.pix = 0 ∨ w.pix < (s₁.teamsOfCtx w.part c).length → exec (.ctxsave f) s = .next
        (started w (.ctxsave c) ((destRefs w f.dst false).map (·.2)) (landings w f.dst false false fun _ => 0) none []
          (s₁.beginSave w.part c w.pix)))) ∧
    (Issues (.ctxload f) s w fm f →
      (c < p.cfg.nctx → s₁.ctxSaved p c = false → exec (.ctxload f) s = .next (answer 1)) ∧
      (c < p.cfg.nctx → s₁.ctxSaved p c = true → s₁.ctxValid p c = false → exec (.ctxload f) s = .next (answer 2)) ∧
      (p.cfg.nctx ≤ c → exec (.ctxload f) s = .next (answer 1)) ∧
      (s₁.ctxSaved p c = true → s₁.ctxValid p c = true → w.pix ≠ 0 → (s₁.savedOfCtx w.part c).length ≤ w.pix →
        exec (.ctxload f) s = .next (answer 0)) ∧
      (s₁.ctxSaved p c = true → s₁.ctxValid p c = true → w.pix = 0 ∨ w.pix < (s₁.savedOfCtx w.part c).length →
        exec (.ctxload f) s = .next
        (started w .engine ((destRefs w f.dst false).map (·.2)) (landings w f.dst false false fun _ => 0) none []
          (s₁.loadCtx w.part p c w.pix))))) ∧
  (∀ (s s₁ : State) (w : Who) (fm : Form) (f : Fields) (a b : Nat → DWord), Issues (.tlbinv f) s w fm f →
    readSrcs w f.imm [srcPair f.sa, srcRaw f.sb] (onward s w fm) = .ok ([a, b], s₁) →
    let x := (b w.low).toNat % 2 ^ 32
    (2 ^ 18 ≤ x ∨ x / 2 ^ 16 = 3 → exec (.tlbinv f) s = .next (started w .engine [] [] none [] s₁)) ∧
    (x < 2 ^ 18 → x / 2 ^ 16 ≠ 3 → ∀ p s₂,
      settleLeaves w.part (s₁.leftShared w.part w.pix (x / 2 ^ 16) (x % 2 ^ 16) (a w.low).toNat) s₁ = .ok ((), s₂) →
      s₂.part? w.part = some p → ∃ t, exec (.tlbinv f) s = .next t ∧
      t.mem = s₂.mem ∧ ∀ c k, SMap.get? s₂.cores c = some k → 32 * w.part + w.pix ≤ c → c < 32 * (w.part + p.size) →
        (t.core c).tlb = k.tlb.filter fun e =>
          if x / 2 ^ 16 = 0 then !(e.ctx = x % 2 ^ 16 && decide (e.va ≤ (a w.low).toNat) &&
            decide ((a w.low).toNat < e.va + e.size))
          else if x / 2 ^ 16 = 1 then !(decide (e.ctx = x % 2 ^ 16)) else false)) ∧
  ∀ (s : State) (id ctx : Nat) (o : Op) (p : Part), SMap.get? s.ops id = some o → o.kind = .ctxsave ctx →
    let part := (s.partOfCore o.owner.core).getD 0
    s.part? part = some p →
    (s.teamsOfCtx part ctx ≠ [] ∨ s.inFlight (s.ctxLives part ctx) = true →
      exec (.ctxsaveComplete id) s = .next s) ∧
    (s.teamsOfCtx part ctx = [] → s.inFlight (s.ctxLives part ctx) = false →
      exec (.ctxsaveComplete id) s = .next ((s.endSave part p ctx).finishOp id))

/-! ## Partitions and the host -/

/-- THE PARTITION'S DRIVER (R107, R456, R457, R459 to R461, R464, R467, R469). START outside PSTATE 0 and 3 gives ERR
2 and with a bad PCFG ERR 1; otherwise PSTATE 1, the sticky bits cleared and PCFG kept and measured. STOP outside
PSTATE 1 gives ERR 2 and otherwise PSTATE 2; STOP_COMPLETE waits until all has drained and then gives PSTATE 3 with no
frame dirty. RESET in PSTATE 4 gives ERR 2; otherwise nothing of the partition runs any more, its queues are empty and
PCFG stays. ROLLBACK gives ERR 2 outside PSTATE 1 and ERR 3 for a context not in checkpoint mode. CLEAR clears SUBERR.
A PCMD write carries out its command; PCFG takes a driver's write in PSTATE 0 and 3 only. A submission or free request
that is refused is dropped with SUBERR; one that is taken is submitted or queued. FREE_SERVE does nothing without a
request, answers 2 where a frame may not be freed, and answers 1 and counts the request once every frame is freed.
Where a clause rests on a choice of the model, see log entries 28, 29. -/
def Obligations.PartitionCommands : Prop :=
  ∀ (s : State) (j : Nat) (p : Part), s.part? j = some p →
    (p.pstate ≠ 0 → p.pstate ≠ 3 → exec (.startPart j) s = .next (s.updPart j fun p => { p with err := 2 })) ∧
    (p.pstate = 0 ∨ p.pstate = 3 → p.cfgOk j = false →
      exec (.startPart j) s = .next (s.updPart j fun p => { p with err := 1 })) ∧
    (p.pstate = 0 ∨ p.pstate = 3 → p.cfgOk j = true → ∃ t q, exec (.startPart j) s = .next t ∧ t.part? j = some q ∧
      q.pstate = 1 ∧ q.err = 0 ∧ q.clockout = false ∧ q.fwfault = false ∧ q.cfg = p.cfg ∧ q.measured = some p.cfg ∧
      q.heldVec = [] ∧ (p.pstate = 0 → t.mem = s.mem)) ∧
    (p.pstate ≠ 1 → exec (.stopPart j) s = .next (s.updPart j fun p => { p with err := 2 })) ∧
    (p.pstate = 1 → ∃ t q, exec (.stopPart j) s = .next t ∧ t.part? j = some q ∧ q.pstate = 2 ∧ q.cfg = p.cfg) ∧
    (p.pstate ≠ 2 ∨ s.drained j p = false → exec (.stopComplete j) s = .next s) ∧
    (p.pstate = 2 → s.drained j p = true → ∃ t q, exec (.stopComplete j) s = .next t ∧ t.part? j = some q ∧
      q.pstate = 3 ∧ q.dirtyFrames = [] ∧ q.cfg = p.cfg) ∧
    (p.pstate = 4 → exec (.resetPart j) s = .next (s.updPart j fun p => { p with err := 2 })) ∧
    (p.pstate ≠ 4 → ∃ t q, exec (.resetPart j) s = .next t ∧ t.part? j = some q ∧
      q.pstate = (if p.lost then 4 else 0) ∧ q.cfg = p.cfg ∧ q.queue = [] ∧ q.pushq = [] ∧ q.cmds = [] ∧ q.resvs = [] ∧
      (∀ n x, t.team? n = some x → ¬(j ≤ x.core / 32 ∧ x.core / 32 < j + p.size)) ∧
      ∀ n l, t.launch? n = some l → l.part ≠ j) ∧
    (∀ c, (p.pstate ≠ 1 → exec (.rollback j c) s = .next (s.updPart j fun p => { p with err := 2 })) ∧
      (p.pstate = 1 → (c < p.cfg.nctx → s.ctxCkpt p c = false) →
        exec (.rollback j c) s = .next (s.updPart j fun p => { p with err := 3 })) ∧
      ∀ t, p.pstate = 1 → c < p.cfg.nctx → s.ctxCkpt p c = true → rollbackContext j c s = .ok ((), t) →
        exec (.rollback j c) s = .next t) ∧
    exec (.clearErr j) s = .next (s.updPart j fun p => { p with suberr := false }) ∧
    (∀ v : DWord, exec (.registerWrite j 0x108 8 1) s = exec (.startPart j) s ∧
      exec (.registerWrite j 0x108 8 2) s = exec (.stopPart j) s ∧
      exec (.registerWrite j 0x108 8 3) s = exec (.resetPart j) s ∧
      exec (.registerWrite j 0x108 8 5) s = exec (.clearErr j) s ∧
      (∀ c : BitVec 16, exec (.registerWrite j 0x108 8 (c.setWidth 64 * 65536 + 4)) s = exec (.rollback j c.toNat) s) ∧
      (6 ≤ v.toNat % 256 → exec (.registerWrite j 0x108 8 v) s = .next (s.updPart j fun p => { p with err := 2 })) ∧
      (∀ size ∈ [4, 8], exec (.registerWrite j 0x200 size v) s =
        .next (s.updPart j fun p => { p with lsubctx := v.setWidth 32 })) ∧
      exec (.registerWrite j 0x208 8 v) s = exec (.lsubdescWrite j 8 v) s ∧
      exec (.registerWrite j 0x210 8 v) s = exec (.freedescWrite j 8 v) s ∧
      (p.pstate = 0 ∨ p.pstate = 3 → ∃ t q, exec (.registerWrite j 64 8 v) s = .next t ∧ t.part? j = some q ∧
        q.cfg.astab = v.toNat ∧ q.pstate = p.pstate ∧ t.mem = s.mem) ∧
      (p.pstate ≠ 0 → p.pstate ≠ 3 → ∀ off size, off < 0x100 → 0 < size → size ≤ 8 →
        ∃ t, exec (.registerWrite j off size v) s = .next t ∧ t.part? j = some p ∧ t.mem = s.mem)) ∧
    ((∃ q, (s.dropSubmission j).part? j = some q ∧ q.suberr = true) ∧ (p.suberr = true → s.dropSubmission j = s)) ∧
    (∀ (size : Nat) (v : DWord), size ≠ 8 ∨ s.takesLaunch p v.toNat = false →
      exec (.lsubdescWrite j size v) s = .next (s.dropSubmission j)) ∧
    (∀ (v : DWord) (h recs : List Byte) (bad bad' : Bool) (clk clk' ts : Nat) (s₁ s₂ s₃ : State) (pin : Pin),
      s.takesLaunch p v.toNat = true → schedRead j p.lsubctx.toNat p.hostclk v.toNat 64 s = .ok (some (h, bad, clk), s₁) →
      fieldOf h 7 1 ≤ 16 →
      schedRead j p.lsubctx.toNat clk (v.toNat + 64) (24 * fieldOf h 7 1) s₁ = .ok (some (recs, bad', clk'), s₂) →
      timedWalk j clk' p.lsubctx.toNat (fieldOf h 24 8) s₂ = .ok (ts, s₃) →
      s₃.hostStatus j p.lsubctx.toNat (fieldOf h 24 8) = some pin →
      exec (.lsubdescWrite j 8 v) s = .next ((s₃.updPart j fun p => { p with hostclk := maxN p.hostclk ts }).submit j
        p.lsubctx.toNat v.toNat none ts h recs pin)) ∧
    (∀ (size : Nat) (v : DWord), size ≠ 8 ∨ v.toNat % 32 ≠ 0 ∨ inPartHbm j p.size v.toNat 32 = false →
      exec (.freedescWrite j size v) s = .next (s.dropSubmission j)) ∧
    (∀ v : DWord, v.toNat % 32 = 0 → inPartHbm j p.size v.toNat 32 = true →
      exec (.freedescWrite j 8 v) s = .next (s.updPart j fun p => { p with freeq := p.freeq ++ [v.toNat] })) ∧
    (p.freeq = [] ∨ p.pstate = 4 → exec (.freeServe j) s = .next s) ∧
    ∀ a rest, p.freeq = a :: rest → p.pstate ≠ 4 →
      (∀ s₁, p.freeing = none → (∃ f ∈ s.requestFrames a, p.frameKept j f = true) → writeFreeStatus j a 2 s = .ok ((), s₁) →
        exec (.freeServe j) s = .next (s₁.updPart j fun p => { p with freeq := rest, freeing := none })) ∧
      (∀ s₁, p.freeing = none → (∀ f ∈ s.requestFrames a, p.frameKept j f = false) →
        beginFree j (s.requestFrames a) s = .ok ((), s₁) → exec (.freeServe j) s = .next s₁) ∧
      (∀ n f, p.freeing = some n → (s.requestFrames a)[n]? = some f →
        let r := s.frameRec j f
        (s.frameHeld j f = true ∨ r.st ≠ 3 ∧ r.settled ≠ r.tail → exec (.freeServe j) s = .next s) ∧
        ∀ s₁ s₂, s.frameHeld j f = false → r.st = 3 ∨ r.settled = r.tail →
          each (s.recordsIn j p f 65536) (fun e => settleRecord j e.1 e.2) s = .ok ((), s₁) →
          scrubFrame j f s₁ = .ok ((), s₂) →
          exec (.freeServe j) s = .next (s₂.updPart j fun p => { p with freeing := some (n + 1) })) ∧
      ∀ n s₁, p.freeing = some n → (s.requestFrames a).length ≤ n → writeFreeStatus j a 1 s = .ok ((), s₁) →
        exec (.freeServe j) s = .next (((s₁.updPart j fun p => { p with freeq := rest, freeing := none }).updPart j fun p =>
          { p with freedone := p.freedone + 1 }).vector j 4)

/-- THE HOST AND THE PEERS (R465, R466, R470, R471, R477): a host read inside one line of the device's range answers
its bytes and raises the host's clock, one of a poisoned or lost line or beyond the range answers poison and changes no
byte; a host write of a poisoned or lost line or beyond the range makes a record of KIND 8 and changes no byte, and any
other inside one line writes; a snoop of a line that the host-line cache holds answers its data, and of one that it
does not hold a miss, one that invalidates drops the line, and a write of a lost line is dropped with a record of KIND
8; an access by a peer that the partition's table does not name is refused, and a peer's atomic on a line is one read
and write at its home, which answers the old bytes; unmasking a vector sends it where it is pending; a port that is
down stays down. Where a clause rests on a choice of the model, see log entries 5, 30, 34. -/
def Obligations.HostEvents : Prop :=
  ∀ (s : State) (j : Nat) (p : Part), s.part? j = some p →
    (∀ d n s₁, pieces d n = [(d, n)] → d < 2 * p.size * Config.stackBytes →
      let pa := (2 * j + d / Config.stackBytes) * Config.stackStride + d % Config.stackBytes
      s.lostLine j p.size (pa / 64) = false → s.upsets = [] →
      (s.isPoison (pa / 64) = true → exec (.hostMemRead j d n) s = .next (s.send (.memPoison j))) ∧
      ∀ ts, s.isPoison (pa / 64) = false → deviceRead j p.hostclk (pa / 64) s = .ok (ts, s₁) →
        exec (.hostMemRead j d n) s =
          .next (((s₁.raiseHost j ts).holdByHost (pa / 64)).send (.memData j (s₁.bytes pa n)))) ∧
    (∀ d n, pieces d n = [(d, n)] → 2 * p.size * Config.stackBytes ≤ d ∨
        s.lostLine j p.size (((2 * j + d / Config.stackBytes) * Config.stackStride + d % Config.stackBytes) / 64) = true →
      exec (.hostMemRead j d n) s = .next (s.send (.memPoison j))) ∧
    (∀ d bs, pieces d bs.length = [(d, bs.length)] → 2 * p.size * Config.stackBytes ≤ d →
      exec (.hostMemWrite j d bs) s = .next ((s.errRec (some j) 8 0 0 0 none).send (.memDone j))) ∧
    (∀ d bs s₁, pieces d bs.length = [(d, bs.length)] → d < 2 * p.size * Config.stackBytes →
      let pa := (2 * j + d / Config.stackBytes) * Config.stackStride + d % Config.stackBytes
      (s.lostLine j p.size (pa / 64) = true ∨ s.upsets = [] ∧ s.isPoison (pa / 64) = true →
        exec (.hostMemWrite j d bs) s = .next ((s.errRec (some j) 8 0 (64 * (pa / 64)) (unitOf pa) none).send (.memDone j))) ∧
      ∀ ts, s.lostLine j p.size (pa / 64) = false → s.upsets = [] → s.isPoison (pa / 64) = false →
        deviceWrite j p.hostclk none pa bs { s with hostHeld := s.hostHeld.filter fun l => l ≠ pa / 64 } = .ok (ts, s₁) →
        let t := s₁.raiseHost j ts
        exec (.hostMemWrite j d bs) s =
          .next ((if pa / 64 ∈ s.hostHeld then t.holdByHost (pa / 64) else t).send (.memDone j))) ∧
    (∀ line bs, isHostWin (64 * line) = true → 64 * line - Config.hostBase < p.cfg.hsize → s.hlcPoison = [] →
      (SMap.get? s.hlc (key6 j line) = none → exec (.hostSnoop j line .data bs) s = .next (s.send (.snoopMiss j))) ∧
      ∀ st d, SMap.get? s.hlc (key6 j line) = some (st, d) → ∃ t, exec (.hostSnoop j line .data bs) s = .next t ∧
        t.outbox = s.outbox ++ [.snoopData j d] ∧ SMap.get? t.hlc (key6 j line) = some (.s, d) ∧
        (st ≠ .m → t.mem = s.mem) ∧ (st = .m → t.mem = (s.setBytes (hostMem (hostAddr p (64 * line))) d).mem)) ∧
    (∀ line bs, isHostWin (64 * line) = true → 64 * line - Config.hostBase < p.cfg.hsize →
      (key6 j line ∉ s.hlcPoison ∨ bs = [] → ∃ t, exec (.hostSnoop j line .inv bs) s = .next t ∧
        SMap.get? t.hlc (key6 j line) = none ∧ key6 j line ∉ t.hlcPoison) ∧
      (key6 j line ∈ s.hlcPoison → bs ≠ [] → exec (.hostSnoop j line .inv bs) s =
        .next ((s.send (.memPoison j)).errRec (some j) 8 0 (64 * line) (unitOf (64 * line)) none))) ∧
    (∀ peer part o n q, p.namesPeer peer part = false ∨ p.lost = true ∨ inPartHbm j p.size o (peerSize n q) = false →
      exec (.peerAccessServe j peer part o n q) s = .next (s.send .peerRefused)) ∧
    (∀ peer part o n q t, p.namesPeer peer part = true → p.lost = false → inPartHbm j p.size o (peerSize n q) = true →
      each (pieces o (peerSize n q)) (fun e => peerLine j e.1 e.2 (peerFrom q (e.1 - o))) s = .ok ((), t) →
      exec (.peerAccessServe j peer part o n q) s = .next t) ∧
    (∀ (u t : State) (pa n ts : Nat) (ty : Ty) (op : AOp) (c e : Nat), s.lostLine j p.size (pa / 64) = false →
      s.upsets = [] → s.isPoison (pa / 64) = false → mergeLine j (pa / 64) s = .ok ((), u) →
      deviceWrite j 0 none pa (leBytesOf n (atomicOp op ty (leOf (u.bytes pa n)) c e)) u = .ok (ts, t) →
      peerLine j pa n (.atomic ty op c e) s = .ok ((), t.send (.peerData (u.bytes pa n)))) ∧
    (∀ v, v < 2048 → ∃ t q, exec (.msixVectorUnmask j v) s = .next t ∧ t.part? j = some q ∧ v ∈ q.unmasked ∧
      v ∉ q.pendVec ∧ t.outbox = if p.pendVec.contains v then s.outbox ++ [.vector j v] else s.outbox) ∧
    ∀ port, (port < 12 → exec (.axeelPortDown port) s = .next { s with portsDown := insertNat s.portsDown port }) ∧
      (12 ≤ port → exec (.axeelPortDown port) s = .next s)

/-- MANAGEMENT (R452 to R455, R472, R474, R479 to R483). An ASSIGN that overlaps, has an illegal run or changes a
partition outside PSTATE 0 is refused with no other effect; a first one on a module without partitions makes the
partition it names, in PSTATE 0, with the peer table it gives, reserved bits zero. GET_VERSION answers SPDM 1.2, every
attestation request of a device that does not exist nothing, and of one that exists one answer; firmware runs exactly
where its signature verifies and its security version is at least the fused minimum; ERRLOG answers at most 32 records;
a patrol scrub of a stack where no error waits changes nothing; a die fails once; FRZ, FREEZE and an error in hub state
freeze the module at the current cycle; a signed debug token that names the module opens the network only in its
window; an instrument is read only from a frozen module; POWER_ON tests the firmware's signature and version, leaves no
partition and every stack zero, and keeps the retired frames and fuses. Where a clause rests on a choice of the model,
see log entries 31, 32, 33, 55. -/
def Obligations.ManagementEvents : Prop :=
  ∀ (s : State),
    (∀ l, s.assignOk l = false → exec (.assign l) s = .next (s.send (.fm false))) ∧
    (∀ l a b, a ∈ s.plans l → b ∈ s.plans l → a.j0 < b.j0 → (b.j0 < a.j0 + a.size ∧ 0 < b.size ∨ a.units &&& b.units ≠ 0) →
      exec (.assign l) s = .next (s.send (.fm false))) ∧
    (∀ a : AssignPart, s.parts = [] → s.assignOk [a] = true → a.size ≠ 0 → s.deadDies = [] →
      ∃ t q, exec (.assign [a]) s = .next t ∧ t.outbox.getLast? = some (.fm true) ∧ t.part? a.j0 = some q ∧
        q.size = a.size ∧ q.pstate = 0 ∧ q.cfg.hbase = a.hbase.toNat ∧ q.cfg.hsize = a.hsize.toNat ∧
        q.cfg.cemask = a.units ∧ q.cfg.qosHost = a.qosHost.toNat ∧ q.cfg.qosCE = a.qosCE.toNat ∧
        ∀ i < 16, q.peers.getD i 0 = a.peers.getD i 0 &&& 0x8FFFFFFF00000F00) ∧
    (∀ ld n d, s.hasLd ld = true →
      exec (.getVersion ld) s = .next (s.send (.spdm ld 4 [0x12])) ∧
      (∃ x, exec (.getCapabilities ld) s = .next (s.send (.spdm ld 0x61 x))) ∧
      (∃ x, exec (.negotiateAlgorithms ld) s = .next (s.send (.spdm ld 0x63 (384 :: x)))) ∧
      (∃ x, exec (.getDigests ld) s = .next (s.send (.spdm ld 1 x))) ∧
      (∃ x, exec (.getCertificate ld) s = .next (s.send (.spdm ld 2 x))) ∧
      (∃ x y, exec (.challenge ld n) s = .next (s.send (.spdm ld 3 [x, n, y]))) ∧
      ∃ x, exec (.getMeasurements ld d n) s = .next (s.send (.spdm ld 0x60 ([d, n, x] ++
        (if d = 0 then [3] else if d = 255 then s.measurement ld 1 ++ s.measurement ld 2 ++ s.measurement ld 3
         else s.measurement ld d)))) ∧ s.measurement ld 1 = [s.fwImage]) ∧
    (∀ j n d, s.part? j = none → exec (.getVersion (some j)) s = .next s ∧ exec (.challenge (some j) n) s = .next s ∧
      exec (.getMeasurements (some j) d n) s = .next s ∧ exec (.errlog (some j) n) s = .next s) ∧
    (∀ digest sig v, exec (.firmwareImageLoad digest sig v) s =
      .next (if Config.sigVerifies digest sig = true ∧ s.fwMin ≤ v
        then ({ s with fwImage := digest, fwSig := sig, fwVer := v } : State).send (.firmware true)
        else s.send (.firmware false))) ∧
    (∀ n, ∃ t l, exec (.errlog none n) s = .next t ∧ t.outbox = s.outbox ++ [.errlog none l] ∧ l.length ≤ 32 ∧
      t.fmErrs.lost = 0 ∧ t.fmErrs.recs = s.fmErrs.recs ∧ ∀ e ∈ l, e.1 ∈ s.fmErrs.recs ∧ n ≤ e.1.seq) ∧
    (∀ j p n, s.part? j = some p → ∃ t q l, exec (.errlog (some j) n) s = .next t ∧
      t.outbox = s.outbox ++ [.errlog (some j) l] ∧ l.length ≤ 32 ∧ t.part? j = some q ∧ q.errs.lost = 0 ∧
      q.errs.recs = p.errs.recs) ∧
    (∀ n, s.upsets = [] → exec (.patrolScrub n) s = .next s) ∧
    (∀ n line, s.upsets = [.block line false] → stackOf (64 * line) = n → ∃ t, exec (.patrolScrub n) s = .next t ∧
      t.upsets = [] ∧ t.isPoison line = true ∧ t.mem = s.mem) ∧
    (∀ d, (d ∈ s.deadDies ∨ 6 ≤ d → exec (.dieFailure d) s = .next s) ∧
      (d ∉ s.deadDies → d < 6 → ∃ t, exec (.dieFailure d) s = .next t ∧ d ∈ t.deadDies ∧
        ∀ j p q, s.parts = [(j, p)] → j < 2 * d + 2 → 2 * d < j + p.size → t.part? j = some q →
          q.lost = true ∧ q.pstate = 4)) ∧
    (∃ t, exec .frzInput s = .next t ∧ t.frozen = true ∧ t.frzSrc = 1 ∧ t.frzCyc = s.cyc ∧ t.mem = s.mem ∧
      t.teams = s.teams) ∧
    (∃ t, exec .freeze s = .next t ∧ t.frozen = true ∧ t.frzSrc = 2 ∧ t.frzCyc = s.cyc ∧ t.mem = s.mem ∧
      t.teams = s.teams) ∧
    (∀ n, s.upsets = [.hub] → ∃ t, exec (.ptsTick n) s = .next t ∧ t.frozen = true ∧ t.frzSrc = 3 ∧ t.frzCyc = s.cyc + n ∧
      t.upsets = [] ∧ t.mem = s.mem) ∧
    (∀ digest sig, exec (.debugToken digest sig) s =
      .next (if s.tokenWindow = true ∧ Config.sigVerifies digest sig = true ∧ Config.tokenNamesModule digest = true
        then { s with debugOpen := true } else s)) ∧
    (∀ i arg, (s.frozen = false → exec (.instrumentRead i arg) s = .next s) ∧
      (s.frozen = true → i = .frzstat →
        exec (.instrumentRead i arg) s = .next (s.send (.instrument .frzstat [s.frzCyc, s.frzSrc]))) ∧
      (s.frozen = true → s.debugOpen = false → i ≠ .ident → i ≠ .frzstat → exec (.instrumentRead i arg) s = .next s)) ∧
    ∀ l, ∃ t, exec (.powerOn l) s = .next t ∧ t.parts = [] ∧ t.teams = [] ∧ t.cyc = 0 ∧ t.frozen = false ∧
      (∀ a, a < 2 ^ 52 → t.byte a = 0) ∧ (∀ a, 2 ^ 52 ≤ a → t.byte a = s.byte a) ∧ t.retired = s.retired ∧
      t.fwMin = s.fwMin ∧ t.tokenWindow = true ∧
      .firmware (decide (Config.sigVerifies s.fwImage s.fwSig = true ∧ s.fwMin ≤ s.fwVer)) ∈ t.outbox

/-! ## Issue and the step -/

/-- WHEN AN INSTRUCTION IS EXECUTED (R17, R25, R34, R37, R39, R47, R50, R51, R231, R232, R341, R431). An instruction
that fails a check of R51 takes ILLEGAL, whatever its guard; one that passes and whose guard is true in no lane only
moves its issuer on; any other one that names a pending register, among them those that `reform` carries, or binds a
flag that stands at 63 is held and changes nothing; one whose queue operands fail takes CHANNEL before any effect. A
static fault of the word, an E form that is not last in its clause, an F form of a lane, a guard of the front thread,
an H or W form below its level, a register at or above the window of a lane, and a `trap` of firmware fail R51. That
ILLEGAL has MASK 0 is the model's reading (log entry 20, DEDUCED). -/
def Obligations.IssueRules : Prop :=
  ∀ (i : Instr) (s : State) (w₀ w : Who) (fm : Form) (f : Fields), s.who? s.cur = some w₀ → form i = some fm →
    fields i = some f → w = s.issuer i w₀ f →
    (illegalUse s w i fm f = true → exec i s = .next (s.raiseTrap w fm.ends { kind := 1 })) ∧
    (illegalUse s w i fm f = false → w.takesPart = false → exec i s = .next (onward s w fm)) ∧
    (illegalUse s w i fm f = false → w.takesPart = true → s.held w fm f = true → exec i s = .next s) ∧
    (illegalUse s w i fm f = false → w.takesPart = true → s.held w fm f = false → ∀ t,
      channelChecks s w fm f = some t → t.kind = 5 ∧ exec i s = .next (s.raiseTrap w fm.ends t)) ∧
    ((∃ e ∈ operands fm f, ∃ r ∈ operandRefs w f.mod e, r ∈ s.pendingRefs w) → s.held w fm f = true) ∧
    (i = .reform f → (∃ n < f.imm.toNat, ∃ l ∈ w.act, RegRef.v l n ∈ s.pendingRefs w) → s.held w fm f = true) ∧
    (∀ n, fm.long = true → w.takesPart = true → w.latch.flag = some n → 63 ≤ s.flag w n → s.held w fm f = true) ∧
    (staticCheck i ≠ none ∨ (fm.ends = true ∧ w.latch.slot ≠ w.latch.hdr.count.toNat) ∨
      (fm.frontOnly = true ∧ w.front = false) ∨ (w.front = true ∧ (f.neg = true ∨ f.pred ≠ 15)) ∨
      (fm.level = .handler ∧ w.level = .lane) ∨ (fm.level = .firmware ∧ w.level ≠ .firmware) ∨
      (w.front = false ∧ overWindow i fm f (s.groupOf w).w = true) ∨ (i = .trap f ∧ w.level = .firmware) →
      illegalUse s w i fm f = true)

/-- A STEP RUNS THE DECODED INSTRUCTION (R16, R33, R51, R110, R125, R133, R335, R481). Where the agent that goes next
stands at an instruction and may issue, its twelve bytes are fetched where an execute range covers them, and the step
is `exec` of what they decode to, followed by the check of R162 on the partitions' clocks where it lost no dirty line
(R476); bytes that are no instruction take ILLEGAL, bytes outside every execute range take LEASE with cause 2 and the
address of the instruction. The bytes are those that home gives, or the twelfth's replica, and zero from SETTLED on. An
agent that stands at none, or that a deadline or an answer holds, does nothing; an event runs its meaning; a frozen
module with nothing to answer stays as it is. Where a clause rests on a choice of the model, see log entry 1. -/
def Obligations.StepRunsDecoded : Prop :=
  (∀ (s : State) (a : Agent) (rest : List Act), s.frozen = false → s.agenda = .issue a :: rest →
    let s₀ : State := { s with agenda := rest, cur := a }
    (s₀.who? a = none → step s = .next s₀.settle) ∧
    ∀ w, s₀.who? a = some w →
      (s₀.mayIssue w = false → step s = .next s₀.settle) ∧
      (s₀.mayIssue w = true →
        (∀ bs s₁ i, fetchBytes w w.iaddr s₀ = .ok (some bs, s₁) → decodeBytes bs = .ok i →
          step s = settled (exec i (s₁.meetRegs w))) ∧
        (∀ bs s₁ e, fetchBytes w w.iaddr s₀ = .ok (some bs, s₁) → decodeBytes bs = .error e →
          step s = .next (s₁.raiseTrap w false { kind := 1 }).settle) ∧
        (∀ t, fetchBytes w w.iaddr s₀ = .error (.trap t) → step s = .next (s₀.raiseTrap w false t).settle) ∧
        ∀ s₁, fetchBytes w w.iaddr s₀ = .ok (none, s₁) →
          step s = .next (s₁.raiseTrap w false
            { kind := 2, cause := 2, addr := w.iaddr, mask := laneMask w.lanes }).settle)) ∧
  (∀ (s : State) (i : Instr) (rest : List Act), s.frozen = false → s.agenda = .event i :: rest →
    step s = settled (exec i { s with agenda := rest })) ∧
  (∀ (s : State) (w : Who) (va : Nat), s.inLease w va 12 [rightX] = false → fetchBytes w va s = .ok (none, s)) ∧
  (∀ (s s₁ s₂ : State) (w : Who) (va : Nat) (a : Place), s.inLease w va 12 [rightX] = true →
    va / 65536 = (va + 11) / 65536 → placeOf w va s = .ok (a, s₁) → leafClass a.leaf = 5 →
    replicate w.part w.core (a.pa / 65536 * 65536) s₁ = .ok ((), s₂) →
    fetchBytes w va s = .ok (some (s₂.codeBytes w a 12), s₂) ∧
    (a.pa % 65536 + 12 ≤ (s₂.frameRec w.part (a.pa / 65536 * 65536)).settled → (∀ l, s₂.servedLine w.part w.core l = l) →
      s₂.codeBytes w a 12 = (List.range 12).map fun i => s₂.homeByte (a.pa + i))) ∧
  (∀ s : State, s.strikes = [] → (∀ e ∈ s.parts, e.2.clkmax < 2 ^ 63) → s.settle = { s with pick := s.pick + 1 }) ∧
  (∀ (s : State) (w : Who), s.upsets = [] → s.meetRegs w = s) ∧
  ∀ s : State, s.frozen = true →
    (s.agenda = [] → step s = .next s) ∧
    ∀ a rest, s.agenda = a :: rest → frozenAllows a = false → step s = .next { s with agenda := rest }

/-- WORDS WRITTEN OUT FROM THE SPEC decode to the instructions that they stand for: the worked encodings of the
section on decoding. -/
def Obligations.DecodedWords : Prop :=
  decode (word96 0x00000000 0x00F05200 0x1001E00C) =
    .ok (.add ⟨false, 15, .v 3, .v 1, .immS 5, .i32, false, false, false, .near, 0, 0⟩) ∧
  decode (word96 0x00000000 0x03007A01 0x30026020) =
    .ok (.fadd ⟨true, 3, .v 8, .v 6, .v 7, .f32, false, false, false, .near, 1, 0⟩) ∧
  decode (word96 0x00000003 0x00802200 0x1015E010) =
    .ok (.mad ⟨false, 15, .v 4, .v 1, .v 2, .i32, false, false, false, .near, 0, 3⟩) ∧
  decode (word96 0xFFFFFFFE 0x00000000 0x0005E000) =
    .ok (.bra ⟨false, 15, .v 0, .v 0, .v 0, .i8, false, false, false, .near, 0, 0xFFFFFFFE⟩) ∧
  decodeHeader (word96 0x00000000 0x00400000 0xFF200188) =
    some ⟨2, 1, some 1, none, none, 0, true, 0⟩

/-- THE MODULE AFTER BRING-UP (R163, R169, R214, R455, R479, R483): every byte at a device address and every tag reads
zero and nothing is poisoned; no partition exists, nothing runs and nothing is outstanding; every line counts from base
0 with both timestamps 0 and lease length 3, held by no core; every slice has both bases and CB zero; every core's
banks 0 to 15 are cache and 16 to 47 scratchpad; error records count from 1; memory is in its canonical form. -/
def Obligations.ResetState : Prop :=
  let s := State.reset
  (∀ a, a < 2 ^ 52 → s.byte a = 0 ∧ s.homeByte a = 0) ∧ (∀ n, s.tag n = 0 ∧ s.isPoison n = false) ∧
  s.parts = [] ∧ s.teams = [] ∧ s.lives = [] ∧ s.launches = [] ∧ s.saved = [] ∧ s.ops = [] ∧ s.frozen = false ∧
  (∀ a, s.who? a = none) ∧
  (∀ n, (s.line n).e = 0 ∧ (s.line n).wts = 0 ∧ (s.line n).rts = 0 ∧ (s.line n).lam = 3 ∧ (s.line n).holders = []) ∧
  (∀ n, (s.slice n).base0 = 0 ∧ (s.slice n).base1 = 0 ∧ (s.slice n).cb = 0) ∧
  (∀ c b, (b < 16 → (s.core c).bankMode b = .cache) ∧ (16 ≤ b → b < 48 → (s.core c).bankMode b = .scratch)) ∧
  s.fmErrs.recs = [] ∧ s.fmErrs.next = 1 ∧ Memory.wf s.mem

/-! ## Memory as a whole -/

namespace Sys2Proof.Claims

/-- Every line's privatised holders stand in order: one for each core, masks that share no byte, and dirty bytes,
each once, inside the holder's mask (R172). -/
structure Tidy (s : State) : Prop where
  cores : ∀ n, ((s.line n).holders.map (·.core)).Nodup
  dirty : ∀ n, ∀ h ∈ (s.line n).holders,
    SMap.rising none h.dirty = true ∧ ∀ e ∈ h.dirty, e.1 < 64 ∧ h.mask.getLsbD e.1 = true
  apart : ∀ n, (s.line n).holders.Pairwise fun g h => g.mask &&& h.mask = 0

/-- No byte changes from one state to another, as home gives bytes, outside those that a test selects. -/
def SameBytes (s t : State) (except : Nat → Prop) : Prop := ∀ a, ¬except a → t.homeByte a = s.homeByte a

/-- The eight bytes of the leaf entry of a place (R93). -/
def InEntry (pl : Place) (a : Nat) : Prop := ∃ e, pl.entry = some e ∧ e ≤ a ∧ a < e + 8

end Sys2Proof.Claims

/-- MEMORY KEEPS ITS CANONICAL FORM: whatever the step is, from every state whose memory is canonical. -/
def Obligations.MemoryCanonical : Prop :=
  ∀ s s' : State, Memory.wf s.mem → step s = .next s' → Memory.wf s'.mem

/-- WHAT AN ACCESS OF A CLASS 0 PAGE DOES TO MEMORY (R96, R144, R146, R150, R172, R173), byte by byte as home gives
them. A read leaves every byte of memory and every register of every agent as it was. A write of bytes that lie in one
line that is not poisoned puts them at the address of its place and changes no other byte but those of the leaf entry
whose D bit it sets, and no register. An atomic does the same with the value that its operation gives for the old one,
and answers the old one. -/
def Obligations.MemoryFrame : Prop :=
  (∀ (s t : State) (w : Who) (va n : Nat) (pl : Place) (keep : Bool) (r : List Byte × Bool),
    Tidy s → s.upsets = [] → leafClass pl.leaf = 0 → readPlace w va pl n keep s = .ok (r, t) →
    SameBytes s t (fun _ => False) ∧ ∀ v x, readRef t v x = readRef s v x) ∧
  (∀ (s t : State) (w : Who) (pl : Place) (bs : List Byte) (bad : Bool),
    Tidy s → s.upsets = [] → leafClass pl.leaf = 0 → pl.pa % 64 + bs.length ≤ 64 → s.isPoison (pl.pa / 64) = false →
    writePlace w pl bs s = .ok (bad, t) →
    bad = false ∧ (∀ i < bs.length, t.homeByte (pl.pa + i) = bs.getD i 0) ∧
    SameBytes s t (fun a => (pl.pa ≤ a ∧ a < pl.pa + bs.length) ∨ InEntry pl a) ∧
    ∀ v x, readRef t v x = readRef s v x) ∧
  ∀ (s s₁ t : State) (w : Who) (va : Nat) (ty : Ty) (op : AOp) (c e : Nat) (pl : Place)
    (pr : Option (Nat × Nat × Nat)) (old : Nat) (bad : Bool),
    let n := ty.bytes
    storePlace w va false s = .ok ((pl, pr), s₁) → Tidy s₁ → s₁.upsets = [] → leafClass pl.leaf = 0 →
    pl.pa % 64 + n ≤ 64 → s₁.isPoison (pl.pa / 64) = false → genAtomic w va ty op c e s = .ok ((old, bad), t) →
    bad = false ∧ (∀ i < n, t.homeByte (pl.pa + i) = (leBytesOf n (atomicOp op ty old c e)).getD i 0) ∧
    ((∀ a, InEntry pl a → a < pl.pa ∨ pl.pa + n ≤ a) → old = s₁.homeLe pl.pa n) ∧
    SameBytes s₁ t (fun a => (pl.pa ≤ a ∧ a < pl.pa + n) ∨ InEntry pl a) ∧
    ∀ v x, readRef t v x = readRef s₁ v x

/-- A LOAD RETURNS WHAT ITS CORE STORED (R164 to R167, R169, R172, R173). A generic-path write by a core of bytes of
one line leaves home giving those bytes and every other byte as before; and a read of those bytes by the same core,
whether it is served by the core's privatised copy, by its L1 copy or at home, returns them and changes no byte. The
premises say what the protocol keeps of the line as its first access converts it: no copy of this core has a lease
beyond the line's own, a privatised line has one timestamp, and the timestamps are below the limit of R162. -/
def Obligations.StoreThenLoad : Prop :=
  ∀ (s t u : State) (part c ctx line o ts : Nat) (bs : List Byte) (priv keep : Bool) (got : List Byte × Nat)
    (p : Part),
    s.part? part = some p → Tidy s → o + bs.length ≤ 64 → bs ≠ [] →
    let sl := s.slice (homeSlice part p.size line)
    let l := (s.line line).conv sl
    l.absWts sl < 2 ^ 63 → l.absRts sl < 2 ^ 63 → (∀ h ∈ l.holders, h.ts < 2 ^ 63) →
    (l.holders ≠ [] → l.absRts sl = l.absWts sl) →
    (∀ x, SMap.get? (s.core c).l1 line = some x → x.stable = none → x.lease ≤ l.absRts sl ∧ x.wts ≤ l.absRts sl) →
    coherentWrite part c ctx line o bs priv s = .ok (ts, t) → ts < 2 ^ 63 →
    coherentRead part c line o bs.length keep t = .ok (got, u) →
    (∀ i < bs.length, t.homeByte (64 * line + o + i) = bs.getD i 0) ∧
    SameBytes s t (fun a => 64 * line + o ≤ a ∧ a < 64 * line + o + bs.length) ∧
    got.1 = bs ∧ SameBytes t u (fun _ => False)
end

