-- ==== Sys2Proof/Laws/Map.lean ====
section
/-!
SUPPORT. Reading a sparse table after a write, and the canonical form that every update of a table keeps.
-/

namespace Sys2Proof

variable {α : Type}

/-! ## Reads after writes -/

@[simp] theorem SMap.get?_nil (k : Nat) : SMap.get? ([] : SMap α) k = none := rfl

@[simp] theorem SMap.get?_put_self (m : SMap α) (k : Nat) (x : α) : SMap.get? (SMap.put m k x) k = some x := by
  induction m with
  | nil => simp [SMap.put, SMap.get?]
  | cons e t ih =>
    obtain ⟨j, y⟩ := e
    simp only [SMap.put]
    split
    · simp [SMap.get?]
    · split
      · simp [SMap.get?]
      · rename_i h
        simp [SMap.get?, Ne.symm h, ih]

@[simp] theorem SMap.get?_put_ne (m : SMap α) {k k' : Nat} (x : α) (h : k' ≠ k) :
    SMap.get? (SMap.put m k x) k' = SMap.get? m k' := by
  induction m with
  | nil => simp [SMap.put, SMap.get?, h.symm]
  | cons e t ih =>
    obtain ⟨j, y⟩ := e
    simp only [SMap.put]
    split
    · simp [SMap.get?, h.symm]
    · split
      · rename_i hj; subst hj; simp [SMap.get?, h.symm]
      · simp only [SMap.get?]; split <;> simp [ih]

theorem SMap.get?_put (m : SMap α) (k k' : Nat) (x : α) :
    SMap.get? (SMap.put m k x) k' = if k' = k then some x else SMap.get? m k' := by
  by_cases h : k' = k
  · subst h; simp
  · simp [h]

/-- A filter on keys keeps what it keeps and drops the rest. -/
theorem SMap.get?_filterKey (m : SMap α) (p : Nat → Bool) (k : Nat) :
    SMap.get? (m.filter fun e => p e.1) k = if p k then SMap.get? m k else none := by
  induction m with
  | nil => simp
  | cons e t ih =>
    obtain ⟨j, y⟩ := e
    cases hp : p j with
    | true =>
      simp only [List.filter_cons, hp, if_true, SMap.get?, ih]
      by_cases hj : j = k
      · subst hj; simp [hp]
      · simp [hj]
    | false =>
      simp only [List.filter_cons, hp, Bool.false_eq_true, if_false, SMap.get?]
      rw [ih]
      by_cases hj : j = k
      · subst hj; simp [hp]
      · simp [hj]

@[simp] theorem SMap.get?_del_self (m : SMap α) (k : Nat) : SMap.get? (SMap.del m k) k = none := by
  have h := SMap.get?_filterKey m (fun j => decide (j ≠ k)) k
  simpa [SMap.del] using h

@[simp] theorem SMap.get?_del_ne (m : SMap α) {k k' : Nat} (h : k' ≠ k) :
    SMap.get? (SMap.del m k) k' = SMap.get? m k' := by
  have h' := SMap.get?_filterKey m (fun j => decide (j ≠ k)) k'
  simpa [SMap.del, h] using h'

theorem SMap.get?_drop (m : SMap α) (p : Nat → Bool) (k : Nat) :
    SMap.get? (SMap.drop m p) k = if p k then none else SMap.get? m k := by
  have h := SMap.get?_filterKey m (fun j => !p j) k
  by_cases hp : p k <;> simpa [SMap.drop, hp] using h

theorem SMap.get?_modify (m : SMap α) (k k' : Nat) (f : α → α) :
    SMap.get? (SMap.modify m k f) k' = if k' = k then (SMap.get? m k).map f else SMap.get? m k' := by
  unfold SMap.modify
  cases h : SMap.get? m k with
  | none => by_cases hk : k' = k <;> simp [hk, h]
  | some x => simp [SMap.get?_put]

@[simp] theorem SMap.getD_putD_self [DecidableEq α] (d : α) (m : SMap α) (k : Nat) (x : α) :
    SMap.getD d (SMap.putD d m k x) k = x := by
  unfold SMap.putD SMap.getD
  split
  · rename_i h; simp [h]
  · simp

@[simp] theorem SMap.getD_putD_ne [DecidableEq α] (d : α) (m : SMap α) {k k' : Nat} (x : α) (h : k' ≠ k) :
    SMap.getD d (SMap.putD d m k x) k' = SMap.getD d m k' := by
  unfold SMap.putD SMap.getD
  split <;> simp [h]

theorem SMap.get?_map (m : SMap α) (f : Nat → α → α) (k : Nat) :
    SMap.get? (SMap.map m f) k = (SMap.get? m k).map (f k) := by
  induction m with
  | nil => rfl
  | cons e t ih =>
    obtain ⟨j, y⟩ := e
    by_cases hj : j = k
    · subst hj; simp [SMap.map, SMap.get?]
    · simp only [SMap.map, List.map_cons, SMap.get?, hj, if_false]
      exact ih

/-! ## Rising keys and canonical form -/

/-- Rising keys above a bound, as a fact about the list. -/
theorem SMap.rising_some_iff (lo : Nat) (m : SMap α) :
    SMap.rising (some lo) m = true ↔ (∀ e ∈ m, lo < e.1) ∧ SMap.rising none m = true := by
  induction m generalizing lo with
  | nil => simp [SMap.rising]
  | cons e t ih =>
    obtain ⟨j, y⟩ := e
    simp only [SMap.rising, Bool.and_eq_true, decide_eq_true_eq, List.mem_cons, forall_eq_or_imp, Bool.true_and]
    constructor
    · rintro ⟨h, ht⟩
      exact ⟨⟨h, fun e he => Nat.lt_trans h (((ih j).1 ht).1 e he)⟩, ht⟩
    · rintro ⟨⟨h, -⟩, ht⟩
      exact ⟨h, ht⟩

theorem SMap.rising_none_cons (j : Nat) (y : α) (t : SMap α) :
    SMap.rising none ((j, y) :: t) = true ↔ (∀ e ∈ t, j < e.1) ∧ SMap.rising none t = true := by
  simpa [SMap.rising] using SMap.rising_some_iff j t

/-- The keys of a table after a write are its own and the written one. -/
theorem SMap.mem_put {m : SMap α} {k : Nat} {x : α} {e : Nat × α} (h : e ∈ SMap.put m k x) :
    e = (k, x) ∨ e ∈ m := by
  induction m with
  | nil => simp [SMap.put] at h; exact .inl h
  | cons d t ih =>
    obtain ⟨j, y⟩ := d
    simp only [SMap.put] at h
    split at h
    · simpa using h
    · split at h
      · rcases List.mem_cons.1 h with h | h
        · exact .inl h
        · exact .inr (List.mem_cons_of_mem _ h)
      · rcases List.mem_cons.1 h with h | h
        · exact .inr (h ▸ List.mem_cons_self ..)
        · rcases ih h with h | h
          · exact .inl h
          · exact .inr (List.mem_cons_of_mem _ h)

theorem SMap.rising_put {m : SMap α} (k : Nat) (x : α) (h : SMap.rising none m = true) :
    SMap.rising none (SMap.put m k x) = true := by
  induction m with
  | nil => rfl
  | cons d t ih =>
    obtain ⟨j, y⟩ := d
    obtain ⟨hj, ht⟩ := (SMap.rising_none_cons j y t).1 h
    simp only [SMap.put]
    split
    · rename_i hk
      exact (SMap.rising_none_cons _ _ _).2
        ⟨fun e he => by rcases List.mem_cons.1 he with he | he
                        · exact he ▸ hk
                        · exact Nat.lt_trans hk (hj e he), h⟩
    · split
      · rename_i hk; subst hk; exact (SMap.rising_none_cons _ _ _).2 ⟨hj, ht⟩
      · rename_i h1 h2
        refine (SMap.rising_none_cons _ _ _).2 ⟨fun e he => ?_, ih ht⟩
        rcases SMap.mem_put he with he | he
        · subst he; show j < k; omega
        · exact hj e he

theorem SMap.rising_filter {m : SMap α} (p : Nat × α → Bool) (h : SMap.rising none m = true) :
    SMap.rising none (m.filter p) = true := by
  induction m with
  | nil => rfl
  | cons d t ih =>
    obtain ⟨j, y⟩ := d
    obtain ⟨hj, ht⟩ := (SMap.rising_none_cons j y t).1 h
    simp only [List.filter_cons]
    split
    · exact (SMap.rising_none_cons _ _ _).2 ⟨fun e he => hj e (List.mem_filter.1 he).1, ih ht⟩
    · exact ih ht

variable [DecidableEq α] (d : α)

theorem SMap.canon_iff (m : SMap α) :
    SMap.canon d m = true ↔ SMap.rising none m = true ∧ ∀ e ∈ m, e.2 ≠ d := by
  simp [SMap.canon]

theorem SMap.canon_nil : SMap.canon d ([] : SMap α) = true := rfl

/-- Every filter of a canonical table is canonical. -/
theorem SMap.canon_filter {m : SMap α} (p : Nat × α → Bool) (h : SMap.canon d m = true) :
    SMap.canon d (m.filter p) = true := by
  obtain ⟨hr, hd⟩ := (SMap.canon_iff d m).1 h
  exact (SMap.canon_iff d _).2 ⟨SMap.rising_filter p hr, fun e he => hd e (List.mem_filter.1 he).1⟩

theorem SMap.canon_drop {m : SMap α} (p : Nat → Bool) (h : SMap.canon d m = true) :
    SMap.canon d (SMap.drop m p) = true := SMap.canon_filter d _ h

theorem SMap.canon_del {m : SMap α} (k : Nat) (h : SMap.canon d m = true) :
    SMap.canon d (SMap.del m k) = true := SMap.canon_filter d _ h

/-- Every write of a canonical table is canonical: a write of the absent value removes the entry. -/
theorem SMap.canon_putD {m : SMap α} (k : Nat) (x : α) (h : SMap.canon d m = true) :
    SMap.canon d (SMap.putD d m k x) = true := by
  unfold SMap.putD
  split
  · exact SMap.canon_del d k h
  · rename_i hx
    obtain ⟨hr, hd⟩ := (SMap.canon_iff d m).1 h
    refine (SMap.canon_iff d _).2 ⟨SMap.rising_put k x hr, fun e he => ?_⟩
    rcases SMap.mem_put he with he | he
    · subst he; exact hx
    · exact hd e he

/-- Two canonical tables that read alike everywhere are the same table. -/
theorem SMap.canon_ext {m n : SMap α} (hm : SMap.canon d m = true) (hn : SMap.canon d n = true)
    (h : ∀ k, SMap.getD d m k = SMap.getD d n k) : m = n := by
  obtain ⟨rm, dm⟩ := (SMap.canon_iff d m).1 hm
  obtain ⟨rn, dn⟩ := (SMap.canon_iff d n).1 hn
  have above : ∀ (l : SMap α) (k : Nat), (∀ e ∈ l, k < e.1) → SMap.get? l k = none := by
    intro l k hl
    induction l with
    | nil => rfl
    | cons e t ih =>
      obtain ⟨j, y⟩ := e
      have := hl (j, y) (by simp)
      simp only [SMap.get?]
      rw [if_neg (by simp at this; omega)]
      exact ih fun e he => hl e (List.mem_cons_of_mem _ he)
  induction m generalizing n with
  | nil =>
    cases n with
    | nil => rfl
    | cons e t =>
      obtain ⟨j, y⟩ := e
      have := h j
      simp [SMap.getD, SMap.get?] at this
      exact absurd this.symm (dn (j, y) (by simp))
  | cons a s ih =>
    obtain ⟨i, x⟩ := a
    obtain ⟨hi, rs⟩ := (SMap.rising_none_cons i x s).1 rm
    cases n with
    | nil =>
      have := h i
      simp [SMap.getD, SMap.get?] at this
      exact absurd this (dm (i, x) (by simp))
    | cons e t =>
      obtain ⟨j, y⟩ := e
      obtain ⟨hj, rt⟩ := (SMap.rising_none_cons j y t).1 rn
      have hij : i = j := by
        rcases Nat.lt_trichotomy i j with hlt | heq | hgt
        · have := h i
          simp only [SMap.getD, SMap.get?, if_true] at this
          rw [if_neg (by omega), above t i fun e he => Nat.lt_trans hlt (hj e he)] at this
          exact absurd this (dm (i, x) (by simp))
        · exact heq
        · have := h j
          simp only [SMap.getD, SMap.get?, if_true] at this
          rw [if_neg (by omega), above s j fun e he => Nat.lt_trans hgt (hi e he)] at this
          exact absurd this.symm (dn (j, y) (by simp))
      subst hij
      have hxy : x = y := by have := h i; simpa [SMap.getD, SMap.get?] using this
      subst hxy
      have cs := (SMap.canon_iff d s).2 ⟨rs, fun e he => dm e (List.mem_cons_of_mem _ he)⟩
      have ct := (SMap.canon_iff d t).2 ⟨rt, fun e he => dn e (List.mem_cons_of_mem _ he)⟩
      refine congrArg _ (ih cs ct (fun k => ?_) rs (fun e he => dm e (List.mem_cons_of_mem _ he)) rt
        fun e he => dn e (List.mem_cons_of_mem _ he))
      · by_cases hk : i = k
        · subst hk; simp [SMap.getD, above s i hi, above t i hj]
        · have := h k; simpa [SMap.getD, SMap.get?, hk] using this

end Sys2Proof
end

