-- ==== Sys2Proof/Laws/State.lean ====
section
/-!
SUPPORT. What each update of the module's state leaves of every field, one lemma for each field of each
update, so that no proof unfolds a record update.
-/

namespace Sys2Proof.Machine

variable (s : State)

/-! ### setCore -/

@[simp] theorem State.setCore_cyc (c : Nat) (x : Core) : (s.setCore c x).cyc = s.cyc := rfl
@[simp] theorem State.setCore_mem (c : Nat) (x : Core) : (s.setCore c x).mem = s.mem := rfl
@[simp] theorem State.setCore_tags (c : Nat) (x : Core) : (s.setCore c x).tags = s.tags := rfl
@[simp] theorem State.setCore_poison (c : Nat) (x : Core) : (s.setCore c x).poison = s.poison := rfl
@[simp] theorem State.setCore_upsets (c : Nat) (x : Core) : (s.setCore c x).upsets = s.upsets := rfl
@[simp] theorem State.setCore_strikes (c : Nat) (x : Core) : (s.setCore c x).strikes = s.strikes := rfl
@[simp] theorem State.setCore_lines (c : Nat) (x : Core) : (s.setCore c x).lines = s.lines := rfl
@[simp] theorem State.setCore_slices (c : Nat) (x : Core) : (s.setCore c x).slices = s.slices := rfl
@[simp] theorem State.setCore_hlc (c : Nat) (x : Core) : (s.setCore c x).hlc = s.hlc := rfl
@[simp] theorem State.setCore_hlcPoison (c : Nat) (x : Core) : (s.setCore c x).hlcPoison = s.hlcPoison := rfl
@[simp] theorem State.setCore_home6 (c : Nat) (x : Core) : (s.setCore c x).home6 = s.home6 := rfl
@[simp] theorem State.setCore_hostHeld (c : Nat) (x : Core) : (s.setCore c x).hostHeld = s.hostHeld := rfl
@[simp] theorem State.setCore_parts (c : Nat) (x : Core) : (s.setCore c x).parts = s.parts := rfl
@[simp] theorem State.setCore_cores (c : Nat) (x : Core) : (s.setCore c x).cores = SMap.put s.cores c x := rfl
@[simp] theorem State.setCore_teams (c : Nat) (x : Core) : (s.setCore c x).teams = s.teams := rfl
@[simp] theorem State.setCore_lives (c : Nat) (x : Core) : (s.setCore c x).lives = s.lives := rfl
@[simp] theorem State.setCore_launches (c : Nat) (x : Core) : (s.setCore c x).launches = s.launches := rfl
@[simp] theorem State.setCore_saved (c : Nat) (x : Core) : (s.setCore c x).saved = s.saved := rfl
@[simp] theorem State.setCore_ops (c : Nat) (x : Core) : (s.setCore c x).ops = s.ops := rfl
@[simp] theorem State.setCore_retired (c : Nat) (x : Core) : (s.setCore c x).retired = s.retired := rfl
@[simp] theorem State.setCore_corrErr (c : Nat) (x : Core) : (s.setCore c x).corrErr = s.corrErr := rfl
@[simp] theorem State.setCore_rtc (c : Nat) (x : Core) : (s.setCore c x).rtc = s.rtc := rfl
@[simp] theorem State.setCore_fmErrs (c : Nat) (x : Core) : (s.setCore c x).fmErrs = s.fmErrs := rfl
@[simp] theorem State.setCore_deadDies (c : Nat) (x : Core) : (s.setCore c x).deadDies = s.deadDies := rfl
@[simp] theorem State.setCore_frozen (c : Nat) (x : Core) : (s.setCore c x).frozen = s.frozen := rfl
@[simp] theorem State.setCore_frzSrc (c : Nat) (x : Core) : (s.setCore c x).frzSrc = s.frzSrc := rfl
@[simp] theorem State.setCore_frzCyc (c : Nat) (x : Core) : (s.setCore c x).frzCyc = s.frzCyc := rfl
@[simp] theorem State.setCore_debugOpen (c : Nat) (x : Core) : (s.setCore c x).debugOpen = s.debugOpen := rfl
@[simp] theorem State.setCore_tokenWindow (c : Nat) (x : Core) : (s.setCore c x).tokenWindow = s.tokenWindow := rfl
@[simp] theorem State.setCore_portsDown (c : Nat) (x : Core) : (s.setCore c x).portsDown = s.portsDown := rfl
@[simp] theorem State.setCore_fwImage (c : Nat) (x : Core) : (s.setCore c x).fwImage = s.fwImage := rfl
@[simp] theorem State.setCore_fwSig (c : Nat) (x : Core) : (s.setCore c x).fwSig = s.fwSig := rfl
@[simp] theorem State.setCore_fwVer (c : Nat) (x : Core) : (s.setCore c x).fwVer = s.fwVer := rfl
@[simp] theorem State.setCore_fwMin (c : Nat) (x : Core) : (s.setCore c x).fwMin = s.fwMin := rfl
@[simp] theorem State.setCore_outbox (c : Nat) (x : Core) : (s.setCore c x).outbox = s.outbox := rfl
@[simp] theorem State.setCore_agenda (c : Nat) (x : Core) : (s.setCore c x).agenda = s.agenda := rfl
@[simp] theorem State.setCore_cur (c : Nat) (x : Core) : (s.setCore c x).cur = s.cur := rfl
@[simp] theorem State.setCore_free (c : Nat) (x : Core) : (s.setCore c x).free = s.free := rfl
@[simp] theorem State.setCore_pick (c : Nat) (x : Core) : (s.setCore c x).pick = s.pick := rfl
@[simp] theorem State.setCore_serial (c : Nat) (x : Core) : (s.setCore c x).serial = s.serial := rfl

/-! ### updCore -/

@[simp] theorem State.updCore_cyc (c : Nat) (f : Core → Core) : (s.updCore c f).cyc = s.cyc := rfl
@[simp] theorem State.updCore_mem (c : Nat) (f : Core → Core) : (s.updCore c f).mem = s.mem := rfl
@[simp] theorem State.updCore_tags (c : Nat) (f : Core → Core) : (s.updCore c f).tags = s.tags := rfl
@[simp] theorem State.updCore_poison (c : Nat) (f : Core → Core) : (s.updCore c f).poison = s.poison := rfl
@[simp] theorem State.updCore_upsets (c : Nat) (f : Core → Core) : (s.updCore c f).upsets = s.upsets := rfl
@[simp] theorem State.updCore_strikes (c : Nat) (f : Core → Core) : (s.updCore c f).strikes = s.strikes := rfl
@[simp] theorem State.updCore_lines (c : Nat) (f : Core → Core) : (s.updCore c f).lines = s.lines := rfl
@[simp] theorem State.updCore_slices (c : Nat) (f : Core → Core) : (s.updCore c f).slices = s.slices := rfl
@[simp] theorem State.updCore_hlc (c : Nat) (f : Core → Core) : (s.updCore c f).hlc = s.hlc := rfl
@[simp] theorem State.updCore_hlcPoison (c : Nat) (f : Core → Core) : (s.updCore c f).hlcPoison = s.hlcPoison := rfl
@[simp] theorem State.updCore_home6 (c : Nat) (f : Core → Core) : (s.updCore c f).home6 = s.home6 := rfl
@[simp] theorem State.updCore_hostHeld (c : Nat) (f : Core → Core) : (s.updCore c f).hostHeld = s.hostHeld := rfl
@[simp] theorem State.updCore_parts (c : Nat) (f : Core → Core) : (s.updCore c f).parts = s.parts := rfl
@[simp] theorem State.updCore_cores (c : Nat) (f : Core → Core) :
    (s.updCore c f).cores = SMap.put s.cores c (f (s.core c)) := rfl
@[simp] theorem State.updCore_teams (c : Nat) (f : Core → Core) : (s.updCore c f).teams = s.teams := rfl
@[simp] theorem State.updCore_lives (c : Nat) (f : Core → Core) : (s.updCore c f).lives = s.lives := rfl
@[simp] theorem State.updCore_launches (c : Nat) (f : Core → Core) : (s.updCore c f).launches = s.launches := rfl
@[simp] theorem State.updCore_saved (c : Nat) (f : Core → Core) : (s.updCore c f).saved = s.saved := rfl
@[simp] theorem State.updCore_ops (c : Nat) (f : Core → Core) : (s.updCore c f).ops = s.ops := rfl
@[simp] theorem State.updCore_retired (c : Nat) (f : Core → Core) : (s.updCore c f).retired = s.retired := rfl
@[simp] theorem State.updCore_corrErr (c : Nat) (f : Core → Core) : (s.updCore c f).corrErr = s.corrErr := rfl
@[simp] theorem State.updCore_rtc (c : Nat) (f : Core → Core) : (s.updCore c f).rtc = s.rtc := rfl
@[simp] theorem State.updCore_fmErrs (c : Nat) (f : Core → Core) : (s.updCore c f).fmErrs = s.fmErrs := rfl
@[simp] theorem State.updCore_deadDies (c : Nat) (f : Core → Core) : (s.updCore c f).deadDies = s.deadDies := rfl
@[simp] theorem State.updCore_frozen (c : Nat) (f : Core → Core) : (s.updCore c f).frozen = s.frozen := rfl
@[simp] theorem State.updCore_frzSrc (c : Nat) (f : Core → Core) : (s.updCore c f).frzSrc = s.frzSrc := rfl
@[simp] theorem State.updCore_frzCyc (c : Nat) (f : Core → Core) : (s.updCore c f).frzCyc = s.frzCyc := rfl
@[simp] theorem State.updCore_debugOpen (c : Nat) (f : Core → Core) : (s.updCore c f).debugOpen = s.debugOpen := rfl
@[simp] theorem State.updCore_tokenWindow (c : Nat) (f : Core → Core) :
    (s.updCore c f).tokenWindow = s.tokenWindow := rfl
@[simp] theorem State.updCore_portsDown (c : Nat) (f : Core → Core) : (s.updCore c f).portsDown = s.portsDown := rfl
@[simp] theorem State.updCore_fwImage (c : Nat) (f : Core → Core) : (s.updCore c f).fwImage = s.fwImage := rfl
@[simp] theorem State.updCore_fwSig (c : Nat) (f : Core → Core) : (s.updCore c f).fwSig = s.fwSig := rfl
@[simp] theorem State.updCore_fwVer (c : Nat) (f : Core → Core) : (s.updCore c f).fwVer = s.fwVer := rfl
@[simp] theorem State.updCore_fwMin (c : Nat) (f : Core → Core) : (s.updCore c f).fwMin = s.fwMin := rfl
@[simp] theorem State.updCore_outbox (c : Nat) (f : Core → Core) : (s.updCore c f).outbox = s.outbox := rfl
@[simp] theorem State.updCore_agenda (c : Nat) (f : Core → Core) : (s.updCore c f).agenda = s.agenda := rfl
@[simp] theorem State.updCore_cur (c : Nat) (f : Core → Core) : (s.updCore c f).cur = s.cur := rfl
@[simp] theorem State.updCore_free (c : Nat) (f : Core → Core) : (s.updCore c f).free = s.free := rfl
@[simp] theorem State.updCore_pick (c : Nat) (f : Core → Core) : (s.updCore c f).pick = s.pick := rfl
@[simp] theorem State.updCore_serial (c : Nat) (f : Core → Core) : (s.updCore c f).serial = s.serial := rfl

/-! ### updPart -/

@[simp] theorem State.updPart_cyc (j : Nat) (f : Part → Part) : (s.updPart j f).cyc = s.cyc := rfl
@[simp] theorem State.updPart_mem (j : Nat) (f : Part → Part) : (s.updPart j f).mem = s.mem := rfl
@[simp] theorem State.updPart_tags (j : Nat) (f : Part → Part) : (s.updPart j f).tags = s.tags := rfl
@[simp] theorem State.updPart_poison (j : Nat) (f : Part → Part) : (s.updPart j f).poison = s.poison := rfl
@[simp] theorem State.updPart_upsets (j : Nat) (f : Part → Part) : (s.updPart j f).upsets = s.upsets := rfl
@[simp] theorem State.updPart_strikes (j : Nat) (f : Part → Part) : (s.updPart j f).strikes = s.strikes := rfl
@[simp] theorem State.updPart_lines (j : Nat) (f : Part → Part) : (s.updPart j f).lines = s.lines := rfl
@[simp] theorem State.updPart_slices (j : Nat) (f : Part → Part) : (s.updPart j f).slices = s.slices := rfl
@[simp] theorem State.updPart_hlc (j : Nat) (f : Part → Part) : (s.updPart j f).hlc = s.hlc := rfl
@[simp] theorem State.updPart_hlcPoison (j : Nat) (f : Part → Part) : (s.updPart j f).hlcPoison = s.hlcPoison := rfl
@[simp] theorem State.updPart_home6 (j : Nat) (f : Part → Part) : (s.updPart j f).home6 = s.home6 := rfl
@[simp] theorem State.updPart_hostHeld (j : Nat) (f : Part → Part) : (s.updPart j f).hostHeld = s.hostHeld := rfl
@[simp] theorem State.updPart_parts (j : Nat) (f : Part → Part) : (s.updPart j f).parts = SMap.modify s.parts j f := rfl
@[simp] theorem State.updPart_cores (j : Nat) (f : Part → Part) : (s.updPart j f).cores = s.cores := rfl
@[simp] theorem State.updPart_teams (j : Nat) (f : Part → Part) : (s.updPart j f).teams = s.teams := rfl
@[simp] theorem State.updPart_lives (j : Nat) (f : Part → Part) : (s.updPart j f).lives = s.lives := rfl
@[simp] theorem State.updPart_launches (j : Nat) (f : Part → Part) : (s.updPart j f).launches = s.launches := rfl
@[simp] theorem State.updPart_saved (j : Nat) (f : Part → Part) : (s.updPart j f).saved = s.saved := rfl
@[simp] theorem State.updPart_ops (j : Nat) (f : Part → Part) : (s.updPart j f).ops = s.ops := rfl
@[simp] theorem State.updPart_retired (j : Nat) (f : Part → Part) : (s.updPart j f).retired = s.retired := rfl
@[simp] theorem State.updPart_corrErr (j : Nat) (f : Part → Part) : (s.updPart j f).corrErr = s.corrErr := rfl
@[simp] theorem State.updPart_rtc (j : Nat) (f : Part → Part) : (s.updPart j f).rtc = s.rtc := rfl
@[simp] theorem State.updPart_fmErrs (j : Nat) (f : Part → Part) : (s.updPart j f).fmErrs = s.fmErrs := rfl
@[simp] theorem State.updPart_deadDies (j : Nat) (f : Part → Part) : (s.updPart j f).deadDies = s.deadDies := rfl
@[simp] theorem State.updPart_frozen (j : Nat) (f : Part → Part) : (s.updPart j f).frozen = s.frozen := rfl
@[simp] theorem State.updPart_frzSrc (j : Nat) (f : Part → Part) : (s.updPart j f).frzSrc = s.frzSrc := rfl
@[simp] theorem State.updPart_frzCyc (j : Nat) (f : Part → Part) : (s.updPart j f).frzCyc = s.frzCyc := rfl
@[simp] theorem State.updPart_debugOpen (j : Nat) (f : Part → Part) : (s.updPart j f).debugOpen = s.debugOpen := rfl
@[simp] theorem State.updPart_tokenWindow (j : Nat) (f : Part → Part) :
    (s.updPart j f).tokenWindow = s.tokenWindow := rfl
@[simp] theorem State.updPart_portsDown (j : Nat) (f : Part → Part) : (s.updPart j f).portsDown = s.portsDown := rfl
@[simp] theorem State.updPart_fwImage (j : Nat) (f : Part → Part) : (s.updPart j f).fwImage = s.fwImage := rfl
@[simp] theorem State.updPart_fwSig (j : Nat) (f : Part → Part) : (s.updPart j f).fwSig = s.fwSig := rfl
@[simp] theorem State.updPart_fwVer (j : Nat) (f : Part → Part) : (s.updPart j f).fwVer = s.fwVer := rfl
@[simp] theorem State.updPart_fwMin (j : Nat) (f : Part → Part) : (s.updPart j f).fwMin = s.fwMin := rfl
@[simp] theorem State.updPart_outbox (j : Nat) (f : Part → Part) : (s.updPart j f).outbox = s.outbox := rfl
@[simp] theorem State.updPart_agenda (j : Nat) (f : Part → Part) : (s.updPart j f).agenda = s.agenda := rfl
@[simp] theorem State.updPart_cur (j : Nat) (f : Part → Part) : (s.updPart j f).cur = s.cur := rfl
@[simp] theorem State.updPart_free (j : Nat) (f : Part → Part) : (s.updPart j f).free = s.free := rfl
@[simp] theorem State.updPart_pick (j : Nat) (f : Part → Part) : (s.updPart j f).pick = s.pick := rfl
@[simp] theorem State.updPart_serial (j : Nat) (f : Part → Part) : (s.updPart j f).serial = s.serial := rfl

/-! ### updTeam -/

@[simp] theorem State.updTeam_cyc (t : Nat) (f : Team → Team) : (s.updTeam t f).cyc = s.cyc := rfl
@[simp] theorem State.updTeam_mem (t : Nat) (f : Team → Team) : (s.updTeam t f).mem = s.mem := rfl
@[simp] theorem State.updTeam_tags (t : Nat) (f : Team → Team) : (s.updTeam t f).tags = s.tags := rfl
@[simp] theorem State.updTeam_poison (t : Nat) (f : Team → Team) : (s.updTeam t f).poison = s.poison := rfl
@[simp] theorem State.updTeam_upsets (t : Nat) (f : Team → Team) : (s.updTeam t f).upsets = s.upsets := rfl
@[simp] theorem State.updTeam_strikes (t : Nat) (f : Team → Team) : (s.updTeam t f).strikes = s.strikes := rfl
@[simp] theorem State.updTeam_lines (t : Nat) (f : Team → Team) : (s.updTeam t f).lines = s.lines := rfl
@[simp] theorem State.updTeam_slices (t : Nat) (f : Team → Team) : (s.updTeam t f).slices = s.slices := rfl
@[simp] theorem State.updTeam_hlc (t : Nat) (f : Team → Team) : (s.updTeam t f).hlc = s.hlc := rfl
@[simp] theorem State.updTeam_hlcPoison (t : Nat) (f : Team → Team) : (s.updTeam t f).hlcPoison = s.hlcPoison := rfl
@[simp] theorem State.updTeam_home6 (t : Nat) (f : Team → Team) : (s.updTeam t f).home6 = s.home6 := rfl
@[simp] theorem State.updTeam_hostHeld (t : Nat) (f : Team → Team) : (s.updTeam t f).hostHeld = s.hostHeld := rfl
@[simp] theorem State.updTeam_parts (t : Nat) (f : Team → Team) : (s.updTeam t f).parts = s.parts := rfl
@[simp] theorem State.updTeam_cores (t : Nat) (f : Team → Team) : (s.updTeam t f).cores = s.cores := rfl
@[simp] theorem State.updTeam_teams (t : Nat) (f : Team → Team) : (s.updTeam t f).teams = SMap.modify s.teams t f := rfl
@[simp] theorem State.updTeam_lives (t : Nat) (f : Team → Team) : (s.updTeam t f).lives = s.lives := rfl
@[simp] theorem State.updTeam_launches (t : Nat) (f : Team → Team) : (s.updTeam t f).launches = s.launches := rfl
@[simp] theorem State.updTeam_saved (t : Nat) (f : Team → Team) : (s.updTeam t f).saved = s.saved := rfl
@[simp] theorem State.updTeam_ops (t : Nat) (f : Team → Team) : (s.updTeam t f).ops = s.ops := rfl
@[simp] theorem State.updTeam_retired (t : Nat) (f : Team → Team) : (s.updTeam t f).retired = s.retired := rfl
@[simp] theorem State.updTeam_corrErr (t : Nat) (f : Team → Team) : (s.updTeam t f).corrErr = s.corrErr := rfl
@[simp] theorem State.updTeam_rtc (t : Nat) (f : Team → Team) : (s.updTeam t f).rtc = s.rtc := rfl
@[simp] theorem State.updTeam_fmErrs (t : Nat) (f : Team → Team) : (s.updTeam t f).fmErrs = s.fmErrs := rfl
@[simp] theorem State.updTeam_deadDies (t : Nat) (f : Team → Team) : (s.updTeam t f).deadDies = s.deadDies := rfl
@[simp] theorem State.updTeam_frozen (t : Nat) (f : Team → Team) : (s.updTeam t f).frozen = s.frozen := rfl
@[simp] theorem State.updTeam_frzSrc (t : Nat) (f : Team → Team) : (s.updTeam t f).frzSrc = s.frzSrc := rfl
@[simp] theorem State.updTeam_frzCyc (t : Nat) (f : Team → Team) : (s.updTeam t f).frzCyc = s.frzCyc := rfl
@[simp] theorem State.updTeam_debugOpen (t : Nat) (f : Team → Team) : (s.updTeam t f).debugOpen = s.debugOpen := rfl
@[simp] theorem State.updTeam_tokenWindow (t : Nat) (f : Team → Team) :
    (s.updTeam t f).tokenWindow = s.tokenWindow := rfl
@[simp] theorem State.updTeam_portsDown (t : Nat) (f : Team → Team) : (s.updTeam t f).portsDown = s.portsDown := rfl
@[simp] theorem State.updTeam_fwImage (t : Nat) (f : Team → Team) : (s.updTeam t f).fwImage = s.fwImage := rfl
@[simp] theorem State.updTeam_fwSig (t : Nat) (f : Team → Team) : (s.updTeam t f).fwSig = s.fwSig := rfl
@[simp] theorem State.updTeam_fwVer (t : Nat) (f : Team → Team) : (s.updTeam t f).fwVer = s.fwVer := rfl
@[simp] theorem State.updTeam_fwMin (t : Nat) (f : Team → Team) : (s.updTeam t f).fwMin = s.fwMin := rfl
@[simp] theorem State.updTeam_outbox (t : Nat) (f : Team → Team) : (s.updTeam t f).outbox = s.outbox := rfl
@[simp] theorem State.updTeam_agenda (t : Nat) (f : Team → Team) : (s.updTeam t f).agenda = s.agenda := rfl
@[simp] theorem State.updTeam_cur (t : Nat) (f : Team → Team) : (s.updTeam t f).cur = s.cur := rfl
@[simp] theorem State.updTeam_free (t : Nat) (f : Team → Team) : (s.updTeam t f).free = s.free := rfl
@[simp] theorem State.updTeam_pick (t : Nat) (f : Team → Team) : (s.updTeam t f).pick = s.pick := rfl
@[simp] theorem State.updTeam_serial (t : Nat) (f : Team → Team) : (s.updTeam t f).serial = s.serial := rfl

/-! ### updLife -/

@[simp] theorem State.updLife_cyc (l : Nat) (f : Life → Life) : (s.updLife l f).cyc = s.cyc := rfl
@[simp] theorem State.updLife_mem (l : Nat) (f : Life → Life) : (s.updLife l f).mem = s.mem := rfl
@[simp] theorem State.updLife_tags (l : Nat) (f : Life → Life) : (s.updLife l f).tags = s.tags := rfl
@[simp] theorem State.updLife_poison (l : Nat) (f : Life → Life) : (s.updLife l f).poison = s.poison := rfl
@[simp] theorem State.updLife_upsets (l : Nat) (f : Life → Life) : (s.updLife l f).upsets = s.upsets := rfl
@[simp] theorem State.updLife_strikes (l : Nat) (f : Life → Life) : (s.updLife l f).strikes = s.strikes := rfl
@[simp] theorem State.updLife_lines (l : Nat) (f : Life → Life) : (s.updLife l f).lines = s.lines := rfl
@[simp] theorem State.updLife_slices (l : Nat) (f : Life → Life) : (s.updLife l f).slices = s.slices := rfl
@[simp] theorem State.updLife_hlc (l : Nat) (f : Life → Life) : (s.updLife l f).hlc = s.hlc := rfl
@[simp] theorem State.updLife_hlcPoison (l : Nat) (f : Life → Life) : (s.updLife l f).hlcPoison = s.hlcPoison := rfl
@[simp] theorem State.updLife_home6 (l : Nat) (f : Life → Life) : (s.updLife l f).home6 = s.home6 := rfl
@[simp] theorem State.updLife_hostHeld (l : Nat) (f : Life → Life) : (s.updLife l f).hostHeld = s.hostHeld := rfl
@[simp] theorem State.updLife_parts (l : Nat) (f : Life → Life) : (s.updLife l f).parts = s.parts := rfl
@[simp] theorem State.updLife_cores (l : Nat) (f : Life → Life) : (s.updLife l f).cores = s.cores := rfl
@[simp] theorem State.updLife_teams (l : Nat) (f : Life → Life) : (s.updLife l f).teams = s.teams := rfl
@[simp] theorem State.updLife_lives (l : Nat) (f : Life → Life) : (s.updLife l f).lives = SMap.modify s.lives l f := rfl
@[simp] theorem State.updLife_launches (l : Nat) (f : Life → Life) : (s.updLife l f).launches = s.launches := rfl
@[simp] theorem State.updLife_saved (l : Nat) (f : Life → Life) : (s.updLife l f).saved = s.saved := rfl
@[simp] theorem State.updLife_ops (l : Nat) (f : Life → Life) : (s.updLife l f).ops = s.ops := rfl
@[simp] theorem State.updLife_retired (l : Nat) (f : Life → Life) : (s.updLife l f).retired = s.retired := rfl
@[simp] theorem State.updLife_corrErr (l : Nat) (f : Life → Life) : (s.updLife l f).corrErr = s.corrErr := rfl
@[simp] theorem State.updLife_rtc (l : Nat) (f : Life → Life) : (s.updLife l f).rtc = s.rtc := rfl
@[simp] theorem State.updLife_fmErrs (l : Nat) (f : Life → Life) : (s.updLife l f).fmErrs = s.fmErrs := rfl
@[simp] theorem State.updLife_deadDies (l : Nat) (f : Life → Life) : (s.updLife l f).deadDies = s.deadDies := rfl
@[simp] theorem State.updLife_frozen (l : Nat) (f : Life → Life) : (s.updLife l f).frozen = s.frozen := rfl
@[simp] theorem State.updLife_frzSrc (l : Nat) (f : Life → Life) : (s.updLife l f).frzSrc = s.frzSrc := rfl
@[simp] theorem State.updLife_frzCyc (l : Nat) (f : Life → Life) : (s.updLife l f).frzCyc = s.frzCyc := rfl
@[simp] theorem State.updLife_debugOpen (l : Nat) (f : Life → Life) : (s.updLife l f).debugOpen = s.debugOpen := rfl
@[simp] theorem State.updLife_tokenWindow (l : Nat) (f : Life → Life) :
    (s.updLife l f).tokenWindow = s.tokenWindow := rfl
@[simp] theorem State.updLife_portsDown (l : Nat) (f : Life → Life) : (s.updLife l f).portsDown = s.portsDown := rfl
@[simp] theorem State.updLife_fwImage (l : Nat) (f : Life → Life) : (s.updLife l f).fwImage = s.fwImage := rfl
@[simp] theorem State.updLife_fwSig (l : Nat) (f : Life → Life) : (s.updLife l f).fwSig = s.fwSig := rfl
@[simp] theorem State.updLife_fwVer (l : Nat) (f : Life → Life) : (s.updLife l f).fwVer = s.fwVer := rfl
@[simp] theorem State.updLife_fwMin (l : Nat) (f : Life → Life) : (s.updLife l f).fwMin = s.fwMin := rfl
@[simp] theorem State.updLife_outbox (l : Nat) (f : Life → Life) : (s.updLife l f).outbox = s.outbox := rfl
@[simp] theorem State.updLife_agenda (l : Nat) (f : Life → Life) : (s.updLife l f).agenda = s.agenda := rfl
@[simp] theorem State.updLife_cur (l : Nat) (f : Life → Life) : (s.updLife l f).cur = s.cur := rfl
@[simp] theorem State.updLife_free (l : Nat) (f : Life → Life) : (s.updLife l f).free = s.free := rfl
@[simp] theorem State.updLife_pick (l : Nat) (f : Life → Life) : (s.updLife l f).pick = s.pick := rfl
@[simp] theorem State.updLife_serial (l : Nat) (f : Life → Life) : (s.updLife l f).serial = s.serial := rfl

/-! ### updLaunch -/

@[simp] theorem State.updLaunch_cyc (n : Nat) (f : Launch → Launch) : (s.updLaunch n f).cyc = s.cyc := rfl
@[simp] theorem State.updLaunch_mem (n : Nat) (f : Launch → Launch) : (s.updLaunch n f).mem = s.mem := rfl
@[simp] theorem State.updLaunch_tags (n : Nat) (f : Launch → Launch) : (s.updLaunch n f).tags = s.tags := rfl
@[simp] theorem State.updLaunch_poison (n : Nat) (f : Launch → Launch) : (s.updLaunch n f).poison = s.poison := rfl
@[simp] theorem State.updLaunch_upsets (n : Nat) (f : Launch → Launch) : (s.updLaunch n f).upsets = s.upsets := rfl
@[simp] theorem State.updLaunch_strikes (n : Nat) (f : Launch → Launch) : (s.updLaunch n f).strikes = s.strikes := rfl
@[simp] theorem State.updLaunch_lines (n : Nat) (f : Launch → Launch) : (s.updLaunch n f).lines = s.lines := rfl
@[simp] theorem State.updLaunch_slices (n : Nat) (f : Launch → Launch) : (s.updLaunch n f).slices = s.slices := rfl
@[simp] theorem State.updLaunch_hlc (n : Nat) (f : Launch → Launch) : (s.updLaunch n f).hlc = s.hlc := rfl
@[simp] theorem State.updLaunch_hlcPoison (n : Nat) (f : Launch → Launch) :
    (s.updLaunch n f).hlcPoison = s.hlcPoison := rfl
@[simp] theorem State.updLaunch_home6 (n : Nat) (f : Launch → Launch) : (s.updLaunch n f).home6 = s.home6 := rfl
@[simp] theorem State.updLaunch_hostHeld (n : Nat) (f : Launch → Launch) :
    (s.updLaunch n f).hostHeld = s.hostHeld := rfl
@[simp] theorem State.updLaunch_parts (n : Nat) (f : Launch → Launch) : (s.updLaunch n f).parts = s.parts := rfl
@[simp] theorem State.updLaunch_cores (n : Nat) (f : Launch → Launch) : (s.updLaunch n f).cores = s.cores := rfl
@[simp] theorem State.updLaunch_teams (n : Nat) (f : Launch → Launch) : (s.updLaunch n f).teams = s.teams := rfl
@[simp] theorem State.updLaunch_lives (n : Nat) (f : Launch → Launch) : (s.updLaunch n f).lives = s.lives := rfl
@[simp] theorem State.updLaunch_launches (n : Nat) (f : Launch → Launch) :
    (s.updLaunch n f).launches = SMap.modify s.launches n f := rfl
@[simp] theorem State.updLaunch_saved (n : Nat) (f : Launch → Launch) : (s.updLaunch n f).saved = s.saved := rfl
@[simp] theorem State.updLaunch_ops (n : Nat) (f : Launch → Launch) : (s.updLaunch n f).ops = s.ops := rfl
@[simp] theorem State.updLaunch_retired (n : Nat) (f : Launch → Launch) : (s.updLaunch n f).retired = s.retired := rfl
@[simp] theorem State.updLaunch_corrErr (n : Nat) (f : Launch → Launch) : (s.updLaunch n f).corrErr = s.corrErr := rfl
@[simp] theorem State.updLaunch_rtc (n : Nat) (f : Launch → Launch) : (s.updLaunch n f).rtc = s.rtc := rfl
@[simp] theorem State.updLaunch_fmErrs (n : Nat) (f : Launch → Launch) : (s.updLaunch n f).fmErrs = s.fmErrs := rfl
@[simp] theorem State.updLaunch_deadDies (n : Nat) (f : Launch → Launch) :
    (s.updLaunch n f).deadDies = s.deadDies := rfl
@[simp] theorem State.updLaunch_frozen (n : Nat) (f : Launch → Launch) : (s.updLaunch n f).frozen = s.frozen := rfl
@[simp] theorem State.updLaunch_frzSrc (n : Nat) (f : Launch → Launch) : (s.updLaunch n f).frzSrc = s.frzSrc := rfl
@[simp] theorem State.updLaunch_frzCyc (n : Nat) (f : Launch → Launch) : (s.updLaunch n f).frzCyc = s.frzCyc := rfl
@[simp] theorem State.updLaunch_debugOpen (n : Nat) (f : Launch → Launch) :
    (s.updLaunch n f).debugOpen = s.debugOpen := rfl
@[simp] theorem State.updLaunch_tokenWindow (n : Nat) (f : Launch → Launch) :
    (s.updLaunch n f).tokenWindow = s.tokenWindow := rfl
@[simp] theorem State.updLaunch_portsDown (n : Nat) (f : Launch → Launch) :
    (s.updLaunch n f).portsDown = s.portsDown := rfl
@[simp] theorem State.updLaunch_fwImage (n : Nat) (f : Launch → Launch) : (s.updLaunch n f).fwImage = s.fwImage := rfl
@[simp] theorem State.updLaunch_fwSig (n : Nat) (f : Launch → Launch) : (s.updLaunch n f).fwSig = s.fwSig := rfl
@[simp] theorem State.updLaunch_fwVer (n : Nat) (f : Launch → Launch) : (s.updLaunch n f).fwVer = s.fwVer := rfl
@[simp] theorem State.updLaunch_fwMin (n : Nat) (f : Launch → Launch) : (s.updLaunch n f).fwMin = s.fwMin := rfl
@[simp] theorem State.updLaunch_outbox (n : Nat) (f : Launch → Launch) : (s.updLaunch n f).outbox = s.outbox := rfl
@[simp] theorem State.updLaunch_agenda (n : Nat) (f : Launch → Launch) : (s.updLaunch n f).agenda = s.agenda := rfl
@[simp] theorem State.updLaunch_cur (n : Nat) (f : Launch → Launch) : (s.updLaunch n f).cur = s.cur := rfl
@[simp] theorem State.updLaunch_free (n : Nat) (f : Launch → Launch) : (s.updLaunch n f).free = s.free := rfl
@[simp] theorem State.updLaunch_pick (n : Nat) (f : Launch → Launch) : (s.updLaunch n f).pick = s.pick := rfl
@[simp] theorem State.updLaunch_serial (n : Nat) (f : Launch → Launch) : (s.updLaunch n f).serial = s.serial := rfl

/-! ### setByte -/

@[simp] theorem State.setByte_cyc (a : Nat) (b : Byte) : (s.setByte a b).cyc = s.cyc := rfl
@[simp] theorem State.setByte_mem (a : Nat) (b : Byte) : (s.setByte a b).mem = SMap.putD 0 s.mem a b := rfl
@[simp] theorem State.setByte_tags (a : Nat) (b : Byte) : (s.setByte a b).tags = s.tags := rfl
@[simp] theorem State.setByte_poison (a : Nat) (b : Byte) : (s.setByte a b).poison = s.poison := rfl
@[simp] theorem State.setByte_upsets (a : Nat) (b : Byte) : (s.setByte a b).upsets = s.upsets := rfl
@[simp] theorem State.setByte_strikes (a : Nat) (b : Byte) : (s.setByte a b).strikes = s.strikes := rfl
@[simp] theorem State.setByte_lines (a : Nat) (b : Byte) : (s.setByte a b).lines = s.lines := rfl
@[simp] theorem State.setByte_slices (a : Nat) (b : Byte) : (s.setByte a b).slices = s.slices := rfl
@[simp] theorem State.setByte_hlc (a : Nat) (b : Byte) : (s.setByte a b).hlc = s.hlc := rfl
@[simp] theorem State.setByte_hlcPoison (a : Nat) (b : Byte) : (s.setByte a b).hlcPoison = s.hlcPoison := rfl
@[simp] theorem State.setByte_home6 (a : Nat) (b : Byte) : (s.setByte a b).home6 = s.home6 := rfl
@[simp] theorem State.setByte_hostHeld (a : Nat) (b : Byte) : (s.setByte a b).hostHeld = s.hostHeld := rfl
@[simp] theorem State.setByte_parts (a : Nat) (b : Byte) : (s.setByte a b).parts = s.parts := rfl
@[simp] theorem State.setByte_cores (a : Nat) (b : Byte) : (s.setByte a b).cores = s.cores := rfl
@[simp] theorem State.setByte_teams (a : Nat) (b : Byte) : (s.setByte a b).teams = s.teams := rfl
@[simp] theorem State.setByte_lives (a : Nat) (b : Byte) : (s.setByte a b).lives = s.lives := rfl
@[simp] theorem State.setByte_launches (a : Nat) (b : Byte) : (s.setByte a b).launches = s.launches := rfl
@[simp] theorem State.setByte_saved (a : Nat) (b : Byte) : (s.setByte a b).saved = s.saved := rfl
@[simp] theorem State.setByte_ops (a : Nat) (b : Byte) : (s.setByte a b).ops = s.ops := rfl
@[simp] theorem State.setByte_retired (a : Nat) (b : Byte) : (s.setByte a b).retired = s.retired := rfl
@[simp] theorem State.setByte_corrErr (a : Nat) (b : Byte) : (s.setByte a b).corrErr = s.corrErr := rfl
@[simp] theorem State.setByte_rtc (a : Nat) (b : Byte) : (s.setByte a b).rtc = s.rtc := rfl
@[simp] theorem State.setByte_fmErrs (a : Nat) (b : Byte) : (s.setByte a b).fmErrs = s.fmErrs := rfl
@[simp] theorem State.setByte_deadDies (a : Nat) (b : Byte) : (s.setByte a b).deadDies = s.deadDies := rfl
@[simp] theorem State.setByte_frozen (a : Nat) (b : Byte) : (s.setByte a b).frozen = s.frozen := rfl
@[simp] theorem State.setByte_frzSrc (a : Nat) (b : Byte) : (s.setByte a b).frzSrc = s.frzSrc := rfl
@[simp] theorem State.setByte_frzCyc (a : Nat) (b : Byte) : (s.setByte a b).frzCyc = s.frzCyc := rfl
@[simp] theorem State.setByte_debugOpen (a : Nat) (b : Byte) : (s.setByte a b).debugOpen = s.debugOpen := rfl
@[simp] theorem State.setByte_tokenWindow (a : Nat) (b : Byte) : (s.setByte a b).tokenWindow = s.tokenWindow := rfl
@[simp] theorem State.setByte_portsDown (a : Nat) (b : Byte) : (s.setByte a b).portsDown = s.portsDown := rfl
@[simp] theorem State.setByte_fwImage (a : Nat) (b : Byte) : (s.setByte a b).fwImage = s.fwImage := rfl
@[simp] theorem State.setByte_fwSig (a : Nat) (b : Byte) : (s.setByte a b).fwSig = s.fwSig := rfl
@[simp] theorem State.setByte_fwVer (a : Nat) (b : Byte) : (s.setByte a b).fwVer = s.fwVer := rfl
@[simp] theorem State.setByte_fwMin (a : Nat) (b : Byte) : (s.setByte a b).fwMin = s.fwMin := rfl
@[simp] theorem State.setByte_outbox (a : Nat) (b : Byte) : (s.setByte a b).outbox = s.outbox := rfl
@[simp] theorem State.setByte_agenda (a : Nat) (b : Byte) : (s.setByte a b).agenda = s.agenda := rfl
@[simp] theorem State.setByte_cur (a : Nat) (b : Byte) : (s.setByte a b).cur = s.cur := rfl
@[simp] theorem State.setByte_free (a : Nat) (b : Byte) : (s.setByte a b).free = s.free := rfl
@[simp] theorem State.setByte_pick (a : Nat) (b : Byte) : (s.setByte a b).pick = s.pick := rfl
@[simp] theorem State.setByte_serial (a : Nat) (b : Byte) : (s.setByte a b).serial = s.serial := rfl

/-! ### setTag -/

@[simp] theorem State.setTag_cyc (n : Nat) (t : BitVec 16) : (s.setTag n t).cyc = s.cyc := rfl
@[simp] theorem State.setTag_mem (n : Nat) (t : BitVec 16) : (s.setTag n t).mem = s.mem := rfl
@[simp] theorem State.setTag_tags (n : Nat) (t : BitVec 16) : (s.setTag n t).tags = SMap.putD 0 s.tags n t := rfl
@[simp] theorem State.setTag_poison (n : Nat) (t : BitVec 16) : (s.setTag n t).poison = s.poison := rfl
@[simp] theorem State.setTag_upsets (n : Nat) (t : BitVec 16) : (s.setTag n t).upsets = s.upsets := rfl
@[simp] theorem State.setTag_strikes (n : Nat) (t : BitVec 16) : (s.setTag n t).strikes = s.strikes := rfl
@[simp] theorem State.setTag_lines (n : Nat) (t : BitVec 16) : (s.setTag n t).lines = s.lines := rfl
@[simp] theorem State.setTag_slices (n : Nat) (t : BitVec 16) : (s.setTag n t).slices = s.slices := rfl
@[simp] theorem State.setTag_hlc (n : Nat) (t : BitVec 16) : (s.setTag n t).hlc = s.hlc := rfl
@[simp] theorem State.setTag_hlcPoison (n : Nat) (t : BitVec 16) : (s.setTag n t).hlcPoison = s.hlcPoison := rfl
@[simp] theorem State.setTag_home6 (n : Nat) (t : BitVec 16) : (s.setTag n t).home6 = s.home6 := rfl
@[simp] theorem State.setTag_hostHeld (n : Nat) (t : BitVec 16) : (s.setTag n t).hostHeld = s.hostHeld := rfl
@[simp] theorem State.setTag_parts (n : Nat) (t : BitVec 16) : (s.setTag n t).parts = s.parts := rfl
@[simp] theorem State.setTag_cores (n : Nat) (t : BitVec 16) : (s.setTag n t).cores = s.cores := rfl
@[simp] theorem State.setTag_teams (n : Nat) (t : BitVec 16) : (s.setTag n t).teams = s.teams := rfl
@[simp] theorem State.setTag_lives (n : Nat) (t : BitVec 16) : (s.setTag n t).lives = s.lives := rfl
@[simp] theorem State.setTag_launches (n : Nat) (t : BitVec 16) : (s.setTag n t).launches = s.launches := rfl
@[simp] theorem State.setTag_saved (n : Nat) (t : BitVec 16) : (s.setTag n t).saved = s.saved := rfl
@[simp] theorem State.setTag_ops (n : Nat) (t : BitVec 16) : (s.setTag n t).ops = s.ops := rfl
@[simp] theorem State.setTag_retired (n : Nat) (t : BitVec 16) : (s.setTag n t).retired = s.retired := rfl
@[simp] theorem State.setTag_corrErr (n : Nat) (t : BitVec 16) : (s.setTag n t).corrErr = s.corrErr := rfl
@[simp] theorem State.setTag_rtc (n : Nat) (t : BitVec 16) : (s.setTag n t).rtc = s.rtc := rfl
@[simp] theorem State.setTag_fmErrs (n : Nat) (t : BitVec 16) : (s.setTag n t).fmErrs = s.fmErrs := rfl
@[simp] theorem State.setTag_deadDies (n : Nat) (t : BitVec 16) : (s.setTag n t).deadDies = s.deadDies := rfl
@[simp] theorem State.setTag_frozen (n : Nat) (t : BitVec 16) : (s.setTag n t).frozen = s.frozen := rfl
@[simp] theorem State.setTag_frzSrc (n : Nat) (t : BitVec 16) : (s.setTag n t).frzSrc = s.frzSrc := rfl
@[simp] theorem State.setTag_frzCyc (n : Nat) (t : BitVec 16) : (s.setTag n t).frzCyc = s.frzCyc := rfl
@[simp] theorem State.setTag_debugOpen (n : Nat) (t : BitVec 16) : (s.setTag n t).debugOpen = s.debugOpen := rfl
@[simp] theorem State.setTag_tokenWindow (n : Nat) (t : BitVec 16) : (s.setTag n t).tokenWindow = s.tokenWindow := rfl
@[simp] theorem State.setTag_portsDown (n : Nat) (t : BitVec 16) : (s.setTag n t).portsDown = s.portsDown := rfl
@[simp] theorem State.setTag_fwImage (n : Nat) (t : BitVec 16) : (s.setTag n t).fwImage = s.fwImage := rfl
@[simp] theorem State.setTag_fwSig (n : Nat) (t : BitVec 16) : (s.setTag n t).fwSig = s.fwSig := rfl
@[simp] theorem State.setTag_fwVer (n : Nat) (t : BitVec 16) : (s.setTag n t).fwVer = s.fwVer := rfl
@[simp] theorem State.setTag_fwMin (n : Nat) (t : BitVec 16) : (s.setTag n t).fwMin = s.fwMin := rfl
@[simp] theorem State.setTag_outbox (n : Nat) (t : BitVec 16) : (s.setTag n t).outbox = s.outbox := rfl
@[simp] theorem State.setTag_agenda (n : Nat) (t : BitVec 16) : (s.setTag n t).agenda = s.agenda := rfl
@[simp] theorem State.setTag_cur (n : Nat) (t : BitVec 16) : (s.setTag n t).cur = s.cur := rfl
@[simp] theorem State.setTag_free (n : Nat) (t : BitVec 16) : (s.setTag n t).free = s.free := rfl
@[simp] theorem State.setTag_pick (n : Nat) (t : BitVec 16) : (s.setTag n t).pick = s.pick := rfl
@[simp] theorem State.setTag_serial (n : Nat) (t : BitVec 16) : (s.setTag n t).serial = s.serial := rfl

/-! ### addPoison -/

@[simp] theorem State.addPoison_cyc (n : Nat) : (s.addPoison n).cyc = s.cyc := rfl
@[simp] theorem State.addPoison_mem (n : Nat) : (s.addPoison n).mem = s.mem := rfl
@[simp] theorem State.addPoison_tags (n : Nat) : (s.addPoison n).tags = s.tags := rfl
@[simp] theorem State.addPoison_poison (n : Nat) : (s.addPoison n).poison = insertNat s.poison n := rfl
@[simp] theorem State.addPoison_upsets (n : Nat) : (s.addPoison n).upsets = s.upsets := rfl
@[simp] theorem State.addPoison_strikes (n : Nat) : (s.addPoison n).strikes = s.strikes := rfl
@[simp] theorem State.addPoison_lines (n : Nat) : (s.addPoison n).lines = s.lines := rfl
@[simp] theorem State.addPoison_slices (n : Nat) : (s.addPoison n).slices = s.slices := rfl
@[simp] theorem State.addPoison_hlc (n : Nat) : (s.addPoison n).hlc = s.hlc := rfl
@[simp] theorem State.addPoison_hlcPoison (n : Nat) : (s.addPoison n).hlcPoison = s.hlcPoison := rfl
@[simp] theorem State.addPoison_home6 (n : Nat) : (s.addPoison n).home6 = s.home6 := rfl
@[simp] theorem State.addPoison_hostHeld (n : Nat) : (s.addPoison n).hostHeld = s.hostHeld := rfl
@[simp] theorem State.addPoison_parts (n : Nat) : (s.addPoison n).parts = s.parts := rfl
@[simp] theorem State.addPoison_cores (n : Nat) : (s.addPoison n).cores = s.cores := rfl
@[simp] theorem State.addPoison_teams (n : Nat) : (s.addPoison n).teams = s.teams := rfl
@[simp] theorem State.addPoison_lives (n : Nat) : (s.addPoison n).lives = s.lives := rfl
@[simp] theorem State.addPoison_launches (n : Nat) : (s.addPoison n).launches = s.launches := rfl
@[simp] theorem State.addPoison_saved (n : Nat) : (s.addPoison n).saved = s.saved := rfl
@[simp] theorem State.addPoison_ops (n : Nat) : (s.addPoison n).ops = s.ops := rfl
@[simp] theorem State.addPoison_retired (n : Nat) : (s.addPoison n).retired = s.retired := rfl
@[simp] theorem State.addPoison_corrErr (n : Nat) : (s.addPoison n).corrErr = s.corrErr := rfl
@[simp] theorem State.addPoison_rtc (n : Nat) : (s.addPoison n).rtc = s.rtc := rfl
@[simp] theorem State.addPoison_fmErrs (n : Nat) : (s.addPoison n).fmErrs = s.fmErrs := rfl
@[simp] theorem State.addPoison_deadDies (n : Nat) : (s.addPoison n).deadDies = s.deadDies := rfl
@[simp] theorem State.addPoison_frozen (n : Nat) : (s.addPoison n).frozen = s.frozen := rfl
@[simp] theorem State.addPoison_frzSrc (n : Nat) : (s.addPoison n).frzSrc = s.frzSrc := rfl
@[simp] theorem State.addPoison_frzCyc (n : Nat) : (s.addPoison n).frzCyc = s.frzCyc := rfl
@[simp] theorem State.addPoison_debugOpen (n : Nat) : (s.addPoison n).debugOpen = s.debugOpen := rfl
@[simp] theorem State.addPoison_tokenWindow (n : Nat) : (s.addPoison n).tokenWindow = s.tokenWindow := rfl
@[simp] theorem State.addPoison_portsDown (n : Nat) : (s.addPoison n).portsDown = s.portsDown := rfl
@[simp] theorem State.addPoison_fwImage (n : Nat) : (s.addPoison n).fwImage = s.fwImage := rfl
@[simp] theorem State.addPoison_fwSig (n : Nat) : (s.addPoison n).fwSig = s.fwSig := rfl
@[simp] theorem State.addPoison_fwVer (n : Nat) : (s.addPoison n).fwVer = s.fwVer := rfl
@[simp] theorem State.addPoison_fwMin (n : Nat) : (s.addPoison n).fwMin = s.fwMin := rfl
@[simp] theorem State.addPoison_outbox (n : Nat) : (s.addPoison n).outbox = s.outbox := rfl
@[simp] theorem State.addPoison_agenda (n : Nat) : (s.addPoison n).agenda = s.agenda := rfl
@[simp] theorem State.addPoison_cur (n : Nat) : (s.addPoison n).cur = s.cur := rfl
@[simp] theorem State.addPoison_free (n : Nat) : (s.addPoison n).free = s.free := rfl
@[simp] theorem State.addPoison_pick (n : Nat) : (s.addPoison n).pick = s.pick := rfl
@[simp] theorem State.addPoison_serial (n : Nat) : (s.addPoison n).serial = s.serial := rfl

/-! ### clearPoison -/

@[simp] theorem State.clearPoison_cyc (n : Nat) : (s.clearPoison n).cyc = s.cyc := rfl
@[simp] theorem State.clearPoison_mem (n : Nat) : (s.clearPoison n).mem = s.mem := rfl
@[simp] theorem State.clearPoison_tags (n : Nat) : (s.clearPoison n).tags = s.tags := rfl
@[simp] theorem State.clearPoison_poison (n : Nat) : (s.clearPoison n).poison = s.poison.filter (· ≠ n) := rfl
@[simp] theorem State.clearPoison_upsets (n : Nat) : (s.clearPoison n).upsets = s.upsets := rfl
@[simp] theorem State.clearPoison_strikes (n : Nat) : (s.clearPoison n).strikes = s.strikes := rfl
@[simp] theorem State.clearPoison_lines (n : Nat) : (s.clearPoison n).lines = s.lines := rfl
@[simp] theorem State.clearPoison_slices (n : Nat) : (s.clearPoison n).slices = s.slices := rfl
@[simp] theorem State.clearPoison_hlc (n : Nat) : (s.clearPoison n).hlc = s.hlc := rfl
@[simp] theorem State.clearPoison_hlcPoison (n : Nat) : (s.clearPoison n).hlcPoison = s.hlcPoison := rfl
@[simp] theorem State.clearPoison_home6 (n : Nat) : (s.clearPoison n).home6 = s.home6 := rfl
@[simp] theorem State.clearPoison_hostHeld (n : Nat) : (s.clearPoison n).hostHeld = s.hostHeld := rfl
@[simp] theorem State.clearPoison_parts (n : Nat) : (s.clearPoison n).parts = s.parts := rfl
@[simp] theorem State.clearPoison_cores (n : Nat) : (s.clearPoison n).cores = s.cores := rfl
@[simp] theorem State.clearPoison_teams (n : Nat) : (s.clearPoison n).teams = s.teams := rfl
@[simp] theorem State.clearPoison_lives (n : Nat) : (s.clearPoison n).lives = s.lives := rfl
@[simp] theorem State.clearPoison_launches (n : Nat) : (s.clearPoison n).launches = s.launches := rfl
@[simp] theorem State.clearPoison_saved (n : Nat) : (s.clearPoison n).saved = s.saved := rfl
@[simp] theorem State.clearPoison_ops (n : Nat) : (s.clearPoison n).ops = s.ops := rfl
@[simp] theorem State.clearPoison_retired (n : Nat) : (s.clearPoison n).retired = s.retired := rfl
@[simp] theorem State.clearPoison_corrErr (n : Nat) : (s.clearPoison n).corrErr = s.corrErr := rfl
@[simp] theorem State.clearPoison_rtc (n : Nat) : (s.clearPoison n).rtc = s.rtc := rfl
@[simp] theorem State.clearPoison_fmErrs (n : Nat) : (s.clearPoison n).fmErrs = s.fmErrs := rfl
@[simp] theorem State.clearPoison_deadDies (n : Nat) : (s.clearPoison n).deadDies = s.deadDies := rfl
@[simp] theorem State.clearPoison_frozen (n : Nat) : (s.clearPoison n).frozen = s.frozen := rfl
@[simp] theorem State.clearPoison_frzSrc (n : Nat) : (s.clearPoison n).frzSrc = s.frzSrc := rfl
@[simp] theorem State.clearPoison_frzCyc (n : Nat) : (s.clearPoison n).frzCyc = s.frzCyc := rfl
@[simp] theorem State.clearPoison_debugOpen (n : Nat) : (s.clearPoison n).debugOpen = s.debugOpen := rfl
@[simp] theorem State.clearPoison_tokenWindow (n : Nat) : (s.clearPoison n).tokenWindow = s.tokenWindow := rfl
@[simp] theorem State.clearPoison_portsDown (n : Nat) : (s.clearPoison n).portsDown = s.portsDown := rfl
@[simp] theorem State.clearPoison_fwImage (n : Nat) : (s.clearPoison n).fwImage = s.fwImage := rfl
@[simp] theorem State.clearPoison_fwSig (n : Nat) : (s.clearPoison n).fwSig = s.fwSig := rfl
@[simp] theorem State.clearPoison_fwVer (n : Nat) : (s.clearPoison n).fwVer = s.fwVer := rfl
@[simp] theorem State.clearPoison_fwMin (n : Nat) : (s.clearPoison n).fwMin = s.fwMin := rfl
@[simp] theorem State.clearPoison_outbox (n : Nat) : (s.clearPoison n).outbox = s.outbox := rfl
@[simp] theorem State.clearPoison_agenda (n : Nat) : (s.clearPoison n).agenda = s.agenda := rfl
@[simp] theorem State.clearPoison_cur (n : Nat) : (s.clearPoison n).cur = s.cur := rfl
@[simp] theorem State.clearPoison_free (n : Nat) : (s.clearPoison n).free = s.free := rfl
@[simp] theorem State.clearPoison_pick (n : Nat) : (s.clearPoison n).pick = s.pick := rfl
@[simp] theorem State.clearPoison_serial (n : Nat) : (s.clearPoison n).serial = s.serial := rfl

/-! ### setLine -/

@[simp] theorem State.setLine_cyc (n : Nat) (x : LineSt) : (s.setLine n x).cyc = s.cyc := rfl
@[simp] theorem State.setLine_mem (n : Nat) (x : LineSt) : (s.setLine n x).mem = s.mem := rfl
@[simp] theorem State.setLine_tags (n : Nat) (x : LineSt) : (s.setLine n x).tags = s.tags := rfl
@[simp] theorem State.setLine_poison (n : Nat) (x : LineSt) : (s.setLine n x).poison = s.poison := rfl
@[simp] theorem State.setLine_upsets (n : Nat) (x : LineSt) : (s.setLine n x).upsets = s.upsets := rfl
@[simp] theorem State.setLine_strikes (n : Nat) (x : LineSt) : (s.setLine n x).strikes = s.strikes := rfl
@[simp] theorem State.setLine_lines (n : Nat) (x : LineSt) :
    (s.setLine n x).lines = SMap.putD LineSt.init s.lines n x := rfl
@[simp] theorem State.setLine_slices (n : Nat) (x : LineSt) : (s.setLine n x).slices = s.slices := rfl
@[simp] theorem State.setLine_hlc (n : Nat) (x : LineSt) : (s.setLine n x).hlc = s.hlc := rfl
@[simp] theorem State.setLine_hlcPoison (n : Nat) (x : LineSt) : (s.setLine n x).hlcPoison = s.hlcPoison := rfl
@[simp] theorem State.setLine_home6 (n : Nat) (x : LineSt) : (s.setLine n x).home6 = s.home6 := rfl
@[simp] theorem State.setLine_hostHeld (n : Nat) (x : LineSt) : (s.setLine n x).hostHeld = s.hostHeld := rfl
@[simp] theorem State.setLine_parts (n : Nat) (x : LineSt) : (s.setLine n x).parts = s.parts := rfl
@[simp] theorem State.setLine_cores (n : Nat) (x : LineSt) : (s.setLine n x).cores = s.cores := rfl
@[simp] theorem State.setLine_teams (n : Nat) (x : LineSt) : (s.setLine n x).teams = s.teams := rfl
@[simp] theorem State.setLine_lives (n : Nat) (x : LineSt) : (s.setLine n x).lives = s.lives := rfl
@[simp] theorem State.setLine_launches (n : Nat) (x : LineSt) : (s.setLine n x).launches = s.launches := rfl
@[simp] theorem State.setLine_saved (n : Nat) (x : LineSt) : (s.setLine n x).saved = s.saved := rfl
@[simp] theorem State.setLine_ops (n : Nat) (x : LineSt) : (s.setLine n x).ops = s.ops := rfl
@[simp] theorem State.setLine_retired (n : Nat) (x : LineSt) : (s.setLine n x).retired = s.retired := rfl
@[simp] theorem State.setLine_corrErr (n : Nat) (x : LineSt) : (s.setLine n x).corrErr = s.corrErr := rfl
@[simp] theorem State.setLine_rtc (n : Nat) (x : LineSt) : (s.setLine n x).rtc = s.rtc := rfl
@[simp] theorem State.setLine_fmErrs (n : Nat) (x : LineSt) : (s.setLine n x).fmErrs = s.fmErrs := rfl
@[simp] theorem State.setLine_deadDies (n : Nat) (x : LineSt) : (s.setLine n x).deadDies = s.deadDies := rfl
@[simp] theorem State.setLine_frozen (n : Nat) (x : LineSt) : (s.setLine n x).frozen = s.frozen := rfl
@[simp] theorem State.setLine_frzSrc (n : Nat) (x : LineSt) : (s.setLine n x).frzSrc = s.frzSrc := rfl
@[simp] theorem State.setLine_frzCyc (n : Nat) (x : LineSt) : (s.setLine n x).frzCyc = s.frzCyc := rfl
@[simp] theorem State.setLine_debugOpen (n : Nat) (x : LineSt) : (s.setLine n x).debugOpen = s.debugOpen := rfl
@[simp] theorem State.setLine_tokenWindow (n : Nat) (x : LineSt) : (s.setLine n x).tokenWindow = s.tokenWindow := rfl
@[simp] theorem State.setLine_portsDown (n : Nat) (x : LineSt) : (s.setLine n x).portsDown = s.portsDown := rfl
@[simp] theorem State.setLine_fwImage (n : Nat) (x : LineSt) : (s.setLine n x).fwImage = s.fwImage := rfl
@[simp] theorem State.setLine_fwSig (n : Nat) (x : LineSt) : (s.setLine n x).fwSig = s.fwSig := rfl
@[simp] theorem State.setLine_fwVer (n : Nat) (x : LineSt) : (s.setLine n x).fwVer = s.fwVer := rfl
@[simp] theorem State.setLine_fwMin (n : Nat) (x : LineSt) : (s.setLine n x).fwMin = s.fwMin := rfl
@[simp] theorem State.setLine_outbox (n : Nat) (x : LineSt) : (s.setLine n x).outbox = s.outbox := rfl
@[simp] theorem State.setLine_agenda (n : Nat) (x : LineSt) : (s.setLine n x).agenda = s.agenda := rfl
@[simp] theorem State.setLine_cur (n : Nat) (x : LineSt) : (s.setLine n x).cur = s.cur := rfl
@[simp] theorem State.setLine_free (n : Nat) (x : LineSt) : (s.setLine n x).free = s.free := rfl
@[simp] theorem State.setLine_pick (n : Nat) (x : LineSt) : (s.setLine n x).pick = s.pick := rfl
@[simp] theorem State.setLine_serial (n : Nat) (x : LineSt) : (s.setLine n x).serial = s.serial := rfl

/-! ### updSlice -/

@[simp] theorem State.updSlice_cyc (n : Nat) (f : Slice → Slice) : (s.updSlice n f).cyc = s.cyc := rfl
@[simp] theorem State.updSlice_mem (n : Nat) (f : Slice → Slice) : (s.updSlice n f).mem = s.mem := rfl
@[simp] theorem State.updSlice_tags (n : Nat) (f : Slice → Slice) : (s.updSlice n f).tags = s.tags := rfl
@[simp] theorem State.updSlice_poison (n : Nat) (f : Slice → Slice) : (s.updSlice n f).poison = s.poison := rfl
@[simp] theorem State.updSlice_upsets (n : Nat) (f : Slice → Slice) : (s.updSlice n f).upsets = s.upsets := rfl
@[simp] theorem State.updSlice_strikes (n : Nat) (f : Slice → Slice) : (s.updSlice n f).strikes = s.strikes := rfl
@[simp] theorem State.updSlice_lines (n : Nat) (f : Slice → Slice) : (s.updSlice n f).lines = s.lines := rfl
@[simp] theorem State.updSlice_slices (n : Nat) (f : Slice → Slice) :
    (s.updSlice n f).slices = SMap.put s.slices n (f (s.slice n)) := rfl
@[simp] theorem State.updSlice_hlc (n : Nat) (f : Slice → Slice) : (s.updSlice n f).hlc = s.hlc := rfl
@[simp] theorem State.updSlice_hlcPoison (n : Nat) (f : Slice → Slice) : (s.updSlice n f).hlcPoison = s.hlcPoison := rfl
@[simp] theorem State.updSlice_home6 (n : Nat) (f : Slice → Slice) : (s.updSlice n f).home6 = s.home6 := rfl
@[simp] theorem State.updSlice_hostHeld (n : Nat) (f : Slice → Slice) : (s.updSlice n f).hostHeld = s.hostHeld := rfl
@[simp] theorem State.updSlice_parts (n : Nat) (f : Slice → Slice) : (s.updSlice n f).parts = s.parts := rfl
@[simp] theorem State.updSlice_cores (n : Nat) (f : Slice → Slice) : (s.updSlice n f).cores = s.cores := rfl
@[simp] theorem State.updSlice_teams (n : Nat) (f : Slice → Slice) : (s.updSlice n f).teams = s.teams := rfl
@[simp] theorem State.updSlice_lives (n : Nat) (f : Slice → Slice) : (s.updSlice n f).lives = s.lives := rfl
@[simp] theorem State.updSlice_launches (n : Nat) (f : Slice → Slice) : (s.updSlice n f).launches = s.launches := rfl
@[simp] theorem State.updSlice_saved (n : Nat) (f : Slice → Slice) : (s.updSlice n f).saved = s.saved := rfl
@[simp] theorem State.updSlice_ops (n : Nat) (f : Slice → Slice) : (s.updSlice n f).ops = s.ops := rfl
@[simp] theorem State.updSlice_retired (n : Nat) (f : Slice → Slice) : (s.updSlice n f).retired = s.retired := rfl
@[simp] theorem State.updSlice_corrErr (n : Nat) (f : Slice → Slice) : (s.updSlice n f).corrErr = s.corrErr := rfl
@[simp] theorem State.updSlice_rtc (n : Nat) (f : Slice → Slice) : (s.updSlice n f).rtc = s.rtc := rfl
@[simp] theorem State.updSlice_fmErrs (n : Nat) (f : Slice → Slice) : (s.updSlice n f).fmErrs = s.fmErrs := rfl
@[simp] theorem State.updSlice_deadDies (n : Nat) (f : Slice → Slice) : (s.updSlice n f).deadDies = s.deadDies := rfl
@[simp] theorem State.updSlice_frozen (n : Nat) (f : Slice → Slice) : (s.updSlice n f).frozen = s.frozen := rfl
@[simp] theorem State.updSlice_frzSrc (n : Nat) (f : Slice → Slice) : (s.updSlice n f).frzSrc = s.frzSrc := rfl
@[simp] theorem State.updSlice_frzCyc (n : Nat) (f : Slice → Slice) : (s.updSlice n f).frzCyc = s.frzCyc := rfl
@[simp] theorem State.updSlice_debugOpen (n : Nat) (f : Slice → Slice) : (s.updSlice n f).debugOpen = s.debugOpen := rfl
@[simp] theorem State.updSlice_tokenWindow (n : Nat) (f : Slice → Slice) :
    (s.updSlice n f).tokenWindow = s.tokenWindow := rfl
@[simp] theorem State.updSlice_portsDown (n : Nat) (f : Slice → Slice) : (s.updSlice n f).portsDown = s.portsDown := rfl
@[simp] theorem State.updSlice_fwImage (n : Nat) (f : Slice → Slice) : (s.updSlice n f).fwImage = s.fwImage := rfl
@[simp] theorem State.updSlice_fwSig (n : Nat) (f : Slice → Slice) : (s.updSlice n f).fwSig = s.fwSig := rfl
@[simp] theorem State.updSlice_fwVer (n : Nat) (f : Slice → Slice) : (s.updSlice n f).fwVer = s.fwVer := rfl
@[simp] theorem State.updSlice_fwMin (n : Nat) (f : Slice → Slice) : (s.updSlice n f).fwMin = s.fwMin := rfl
@[simp] theorem State.updSlice_outbox (n : Nat) (f : Slice → Slice) : (s.updSlice n f).outbox = s.outbox := rfl
@[simp] theorem State.updSlice_agenda (n : Nat) (f : Slice → Slice) : (s.updSlice n f).agenda = s.agenda := rfl
@[simp] theorem State.updSlice_cur (n : Nat) (f : Slice → Slice) : (s.updSlice n f).cur = s.cur := rfl
@[simp] theorem State.updSlice_free (n : Nat) (f : Slice → Slice) : (s.updSlice n f).free = s.free := rfl
@[simp] theorem State.updSlice_pick (n : Nat) (f : Slice → Slice) : (s.updSlice n f).pick = s.pick := rfl
@[simp] theorem State.updSlice_serial (n : Nat) (f : Slice → Slice) : (s.updSlice n f).serial = s.serial := rfl

/-! ### send -/

@[simp] theorem State.send_cyc (m : Msg) : (s.send m).cyc = s.cyc := rfl
@[simp] theorem State.send_mem (m : Msg) : (s.send m).mem = s.mem := rfl
@[simp] theorem State.send_tags (m : Msg) : (s.send m).tags = s.tags := rfl
@[simp] theorem State.send_poison (m : Msg) : (s.send m).poison = s.poison := rfl
@[simp] theorem State.send_upsets (m : Msg) : (s.send m).upsets = s.upsets := rfl
@[simp] theorem State.send_strikes (m : Msg) : (s.send m).strikes = s.strikes := rfl
@[simp] theorem State.send_lines (m : Msg) : (s.send m).lines = s.lines := rfl
@[simp] theorem State.send_slices (m : Msg) : (s.send m).slices = s.slices := rfl
@[simp] theorem State.send_hlc (m : Msg) : (s.send m).hlc = s.hlc := rfl
@[simp] theorem State.send_hlcPoison (m : Msg) : (s.send m).hlcPoison = s.hlcPoison := rfl
@[simp] theorem State.send_home6 (m : Msg) : (s.send m).home6 = s.home6 := rfl
@[simp] theorem State.send_hostHeld (m : Msg) : (s.send m).hostHeld = s.hostHeld := rfl
@[simp] theorem State.send_parts (m : Msg) : (s.send m).parts = s.parts := rfl
@[simp] theorem State.send_cores (m : Msg) : (s.send m).cores = s.cores := rfl
@[simp] theorem State.send_teams (m : Msg) : (s.send m).teams = s.teams := rfl
@[simp] theorem State.send_lives (m : Msg) : (s.send m).lives = s.lives := rfl
@[simp] theorem State.send_launches (m : Msg) : (s.send m).launches = s.launches := rfl
@[simp] theorem State.send_saved (m : Msg) : (s.send m).saved = s.saved := rfl
@[simp] theorem State.send_ops (m : Msg) : (s.send m).ops = s.ops := rfl
@[simp] theorem State.send_retired (m : Msg) : (s.send m).retired = s.retired := rfl
@[simp] theorem State.send_corrErr (m : Msg) : (s.send m).corrErr = s.corrErr := rfl
@[simp] theorem State.send_rtc (m : Msg) : (s.send m).rtc = s.rtc := rfl
@[simp] theorem State.send_fmErrs (m : Msg) : (s.send m).fmErrs = s.fmErrs := rfl
@[simp] theorem State.send_deadDies (m : Msg) : (s.send m).deadDies = s.deadDies := rfl
@[simp] theorem State.send_frozen (m : Msg) : (s.send m).frozen = s.frozen := rfl
@[simp] theorem State.send_frzSrc (m : Msg) : (s.send m).frzSrc = s.frzSrc := rfl
@[simp] theorem State.send_frzCyc (m : Msg) : (s.send m).frzCyc = s.frzCyc := rfl
@[simp] theorem State.send_debugOpen (m : Msg) : (s.send m).debugOpen = s.debugOpen := rfl
@[simp] theorem State.send_tokenWindow (m : Msg) : (s.send m).tokenWindow = s.tokenWindow := rfl
@[simp] theorem State.send_portsDown (m : Msg) : (s.send m).portsDown = s.portsDown := rfl
@[simp] theorem State.send_fwImage (m : Msg) : (s.send m).fwImage = s.fwImage := rfl
@[simp] theorem State.send_fwSig (m : Msg) : (s.send m).fwSig = s.fwSig := rfl
@[simp] theorem State.send_fwVer (m : Msg) : (s.send m).fwVer = s.fwVer := rfl
@[simp] theorem State.send_fwMin (m : Msg) : (s.send m).fwMin = s.fwMin := rfl
@[simp] theorem State.send_outbox (m : Msg) : (s.send m).outbox = s.outbox ++ [m] := rfl
@[simp] theorem State.send_agenda (m : Msg) : (s.send m).agenda = s.agenda := rfl
@[simp] theorem State.send_cur (m : Msg) : (s.send m).cur = s.cur := rfl
@[simp] theorem State.send_free (m : Msg) : (s.send m).free = s.free := rfl
@[simp] theorem State.send_pick (m : Msg) : (s.send m).pick = s.pick := rfl
@[simp] theorem State.send_serial (m : Msg) : (s.send m).serial = s.serial := rfl

end Sys2Proof.Machine
end

