-- ==== Sys2Proof/Laws/Memory.lean ====
section
/-!
SUPPORT. Reads after writes of bytes, tags, lines, slices, cores and the tables of the module, and the
canonical form of memory, which every operation over memory keeps.
-/

namespace Sys2Proof.Machine

variable (s : State)

/-! ## Bytes -/

@[simp] theorem State.byte_setByte_self (a : Nat) (b : Byte) : (s.setByte a b).byte a = b := by
  simp [State.byte]

@[simp] theorem State.byte_setByte_ne {a k : Nat} (b : Byte) (h : k ≠ a) : (s.setByte a b).byte k = s.byte k := by
  simp [State.byte, h]

/-- A run of bytes changes nothing below its start and nothing from its end on. -/
theorem State.byte_setBytes_out (bs : List Byte) (a k : Nat) (h : k < a ∨ a + bs.length ≤ k) :
    (s.setBytes a bs).byte k = s.byte k := by
  induction bs generalizing s a with
  | nil => rfl
  | cons b t ih =>
    simp only [List.length_cons] at h
    rw [State.setBytes, ih _ _ (by omega), State.byte_setByte_ne]
    omega

/-- A run of bytes reads back. -/
theorem State.byte_setBytes_in (bs : List Byte) (a i : Nat) (h : i < bs.length) :
    (s.setBytes a bs).byte (a + i) = bs.getD i 0 := by
  induction bs generalizing s a i with
  | nil => simp at h
  | cons b t ih =>
    rw [State.setBytes]
    cases i with
    | zero => rw [State.byte_setBytes_out _ _ _ _ (by omega)]; simp
    | succ n =>
      have := ih (s.setByte a b) (a + 1) n (by simpa using h)
      simpa [Nat.add_assoc, Nat.add_comm 1 n] using this

/-- A run of bytes changes memory and nothing else. -/
theorem State.setBytes_eq (bs : List Byte) (a : Nat) : s.setBytes a bs = { s with mem := (s.setBytes a bs).mem } := by
  induction bs generalizing s a with
  | nil => rfl
  | cons b t ih => rw [State.setBytes, ih]; rfl

@[simp] theorem State.setBytes_lines (bs : List Byte) (a : Nat) : (s.setBytes a bs).lines = s.lines := by
  rw [State.setBytes_eq]
@[simp] theorem State.setBytes_tags (bs : List Byte) (a : Nat) : (s.setBytes a bs).tags = s.tags := by
  rw [State.setBytes_eq]
@[simp] theorem State.setBytes_poison (bs : List Byte) (a : Nat) : (s.setBytes a bs).poison = s.poison := by
  rw [State.setBytes_eq]
@[simp] theorem State.setBytes_slices (bs : List Byte) (a : Nat) : (s.setBytes a bs).slices = s.slices := by
  rw [State.setBytes_eq]
@[simp] theorem State.setBytes_parts (bs : List Byte) (a : Nat) : (s.setBytes a bs).parts = s.parts := by
  rw [State.setBytes_eq]
@[simp] theorem State.setBytes_cores (bs : List Byte) (a : Nat) : (s.setBytes a bs).cores = s.cores := by
  rw [State.setBytes_eq]
@[simp] theorem State.setBytes_teams (bs : List Byte) (a : Nat) : (s.setBytes a bs).teams = s.teams := by
  rw [State.setBytes_eq]
@[simp] theorem State.setBytes_lives (bs : List Byte) (a : Nat) : (s.setBytes a bs).lives = s.lives := by
  rw [State.setBytes_eq]
@[simp] theorem State.setBytes_launches (bs : List Byte) (a : Nat) : (s.setBytes a bs).launches = s.launches := by
  rw [State.setBytes_eq]
@[simp] theorem State.setBytes_ops (bs : List Byte) (a : Nat) : (s.setBytes a bs).ops = s.ops := by
  rw [State.setBytes_eq]
@[simp] theorem State.setBytes_upsets (bs : List Byte) (a : Nat) : (s.setBytes a bs).upsets = s.upsets := by
  rw [State.setBytes_eq]

theorem State.bytes_eq_map (a n : Nat) : s.bytes a n = (List.range n).map fun i => s.byte (a + i) := by
  induction n generalizing a with
  | zero => rfl
  | succ n ih =>
    rw [State.bytes, ih, List.range_succ_eq_map]
    simp [Nat.add_assoc, Nat.add_comm 1]

/-- The bytes just written are the bytes read. -/
theorem State.bytes_setBytes (bs : List Byte) (a : Nat) : (s.setBytes a bs).bytes a bs.length = bs := by
  rw [State.bytes_eq_map]
  refine List.ext_getElem (by simp) fun i h1 h2 => ?_
  simp only [List.getElem_map, List.getElem_range]
  rw [State.byte_setBytes_in _ _ _ _ h2]
  simp [List.getD, h2]

@[simp] theorem leBytesOf_length (n x : Nat) : (leBytesOf n x).length = n := by
  induction n generalizing x with
  | zero => rfl
  | succ n ih => simp [leBytesOf, ih]

/-- The little-endian number of the first bytes of a number. -/
theorem leOf_leBytesOf (n x : Nat) : leOf (leBytesOf n x) = x % 256 ^ n := by
  induction n generalizing x with
  | zero => simp [leBytesOf, leOf, Nat.mod_one]
  | succ n ih =>
    have h := ih (x / 256)
    simp only [leOf] at h
    simp only [leBytesOf, leOf, List.foldr_cons, BitVec.toNat_ofNat, h]
    have e : x % 256 ^ (n + 1) = x % 256 + 256 * (x / 256 % 256 ^ n) := by
      rw [Nat.pow_succ, Nat.mul_comm]; exact Nat.mod_mul
    rw [e]

/-! ## Lines, slices, tags -/

@[simp] theorem State.line_setLine_self (n : Nat) (x : LineSt) : (s.setLine n x).line n = x := by
  simp [State.line]

@[simp] theorem State.line_setLine_ne {n k : Nat} (x : LineSt) (h : k ≠ n) : (s.setLine n x).line k = s.line k := by
  simp [State.line, h]

@[simp] theorem State.tag_setTag_self (n : Nat) (t : BitVec 16) : (s.setTag n t).tag n = t := by simp [State.tag]

@[simp] theorem State.tag_setTag_ne {n k : Nat} (t : BitVec 16) (h : k ≠ n) : (s.setTag n t).tag k = s.tag k := by
  simp [State.tag, h]

@[simp] theorem State.slice_updSlice_self (n : Nat) (f : Slice → Slice) :
    (s.updSlice n f).slice n = f (s.slice n) := by
  simp [State.slice, State.updSlice]

@[simp] theorem State.slice_updSlice_ne {n k : Nat} (f : Slice → Slice) (h : k ≠ n) :
    (s.updSlice n f).slice k = s.slice k := by
  simp [State.slice, State.updSlice, h]

/-! ## Cores, partitions, teams, lives -/

@[simp] theorem State.core_updCore_self (c : Nat) (f : Core → Core) : (s.updCore c f).core c = f (s.core c) := by
  simp [State.core, State.updCore, State.setCore]

@[simp] theorem State.core_updCore_ne {c k : Nat} (f : Core → Core) (h : k ≠ c) : (s.updCore c f).core k = s.core k := by
  simp [State.core, State.updCore, State.setCore, h]

theorem State.part?_updPart (j k : Nat) (f : Part → Part) :
    (s.updPart j f).part? k = if k = j then (s.part? j).map f else s.part? k := by
  simp [State.part?, State.updPart, SMap.get?_modify]

theorem State.team?_updTeam (t k : Nat) (f : Team → Team) :
    (s.updTeam t f).team? k = if k = t then (s.team? t).map f else s.team? k := by
  simp [State.team?, State.updTeam, SMap.get?_modify]

theorem State.life?_updLife (l k : Nat) (f : Life → Life) :
    (s.updLife l f).life? k = if k = l then (s.life? l).map f else s.life? k := by
  simp [State.life?, State.updLife, SMap.get?_modify]

theorem State.launch?_updLaunch (n k : Nat) (f : Launch → Launch) :
    (s.updLaunch n f).launch? k = if k = n then (s.launch? n).map f else s.launch? k := by
  simp [State.launch?, State.updLaunch, SMap.get?_modify]

/-! ## The canonical form of memory -/

theorem wf_reset : Memory.wf State.reset.mem := by decide

variable {s}

theorem wf_setByte (a : Nat) (b : Byte) (h : Memory.wf s.mem) : Memory.wf (s.setByte a b).mem :=
  SMap.canon_putD 0 a b h

theorem wf_setBytes (bs : List Byte) (a : Nat) (h : Memory.wf s.mem) : Memory.wf (s.setBytes a bs).mem := by
  induction bs generalizing s a with
  | nil => exact h
  | cons b t ih => exact ih (a + 1) (wf_setByte a b h)

theorem wf_setLe (a n x : Nat) (h : Memory.wf s.mem) : Memory.wf (s.setLe a n x).mem := wf_setBytes _ a h

theorem wf_drop {m : SMap Byte} (p : Nat → Bool) (h : Memory.wf m) : Memory.wf (SMap.drop m p) :=
  SMap.canon_drop 0 p h

theorem wf_filter {m : SMap Byte} (p : Nat × Byte → Bool) (h : Memory.wf m) : Memory.wf (m.filter p) :=
  SMap.canon_filter 0 p h

/-- A fold of byte writes over any list keeps the form. -/
theorem wf_foldl_putD {α : Type} (l : List α) (at' : α → Nat) (b : α → Byte) {m : SMap Byte} (h : Memory.wf m) :
    Memory.wf (l.foldl (fun m x => SMap.putD 0 m (at' x) (b x)) m) := by
  induction l generalizing m with
  | nil => exact h
  | cons x t ih => exact ih (SMap.canon_putD 0 _ _ h)

/-- A fold over states keeps the form where each of its steps does. -/
theorem wf_foldl {α : Type} (f : State → α → State) (l : List α) (hf : ∀ s x, Memory.wf s.mem → Memory.wf (f s x).mem)
    (h : Memory.wf s.mem) : Memory.wf (l.foldl f s).mem := by
  induction l generalizing s with
  | nil => exact h
  | cons x t ih => exact ih (hf s x h)

/-- Equal canonical memories are equal data: two that read alike at every address are the same list. -/
theorem mem_ext {s t : State} (hs : Memory.wf s.mem) (ht : Memory.wf t.mem) (h : ∀ a, s.byte a = t.byte a) :
    s.mem = t.mem := SMap.canon_ext 0 hs ht h

end Sys2Proof.Machine
end

