-- ==== Sys2Proof/Laws/Agents.lean ====
section
/-!
SUPPORT. Registers, predicates, lanes and quads after a write, and the group and program of an agent after
a change of theirs.
-/

namespace Sys2Proof.Machine

/-! ## Lists -/

theorem getD_modNth {α : Type} (l : List α) (i k : Nat) (f : α → α) (d : α) :
    (modNth l i f).getD k d = if k = i ∧ i < l.length then f (l.getD i d) else l.getD k d := by
  induction l generalizing i k with
  | nil => simp [modNth]
  | cons x t ih =>
    cases i with
    | zero => cases k <;> simp [modNth]
    | succ n =>
      cases k with
      | zero => simp [modNth]
      | succ m => simpa [modNth] using ih n m

@[simp] theorem modNth_length {α : Type} (l : List α) (i : Nat) (f : α → α) : (modNth l i f).length = l.length := by
  induction l generalizing i with
  | nil => rfl
  | cons x t ih => cases i <;> simp [modNth, ih]

/-! ## Lanes -/

@[simp] theorem Lane.reg_setReg_self (l : Lane) (n : Nat) (x : Word) : (l.setReg n x).reg n = x := by
  simp [Lane.reg, Lane.setReg]
@[simp] theorem Lane.reg_setReg_ne (l : Lane) {n k : Nat} (x : Word) (h : k ≠ n) : (l.setReg n x).reg k = l.reg k := by
  simp [Lane.reg, Lane.setReg, h]
@[simp] theorem Lane.pred_setReg (l : Lane) (n k : Nat) (x : Word) : (l.setReg n x).pred k = l.pred k := rfl
@[simp] theorem Lane.pc_setReg (l : Lane) (n : Nat) (x : Word) : (l.setReg n x).pc = l.pc := rfl
@[simp] theorem Lane.st_setReg (l : Lane) (n : Nat) (x : Word) : (l.setReg n x).st = l.st := rfl
@[simp] theorem Lane.v_setPred (l : Lane) (n : Nat) (b : Bool) : (l.setPred n b).v = l.v := by
  unfold Lane.setPred; split <;> rfl
@[simp] theorem Lane.reg_setPred (l : Lane) (n k : Nat) (b : Bool) : (l.setPred n b).reg k = l.reg k := by
  simp [Lane.reg]
@[simp] theorem Lane.pc_setPred (l : Lane) (n : Nat) (b : Bool) : (l.setPred n b).pc = l.pc := by
  unfold Lane.setPred; split <;> rfl

/-- p15 reads true whatever is written (R238). -/
@[simp] theorem Lane.pred_15 (l : Lane) : l.pred 15 = true := by simp [Lane.pred]

/-! ## Groups -/

theorem Group.lane_updLane (g : Group) (i k : Nat) (f : Lane → Lane) :
    (g.updLane i f).lane k = if k = i ∧ i < g.lanes.length then f (g.lane i) else g.lane k := by
  simp only [Group.lane, Group.updLane, getD_modNth]

theorem Group.quad_updQuad (g : Group) (q k : Nat) (f : Quad → Quad) :
    (g.updQuad q f).quad k = if k = q ∧ q < g.quads.length then f (g.quad q) else g.quad k := by
  simp only [Group.quad, Group.updQuad, getD_modNth]

@[simp] theorem Group.lanes_length_updLane (g : Group) (i : Nat) (f : Lane → Lane) :
    (g.updLane i f).lanes.length = g.lanes.length := by simp [Group.updLane]
@[simp] theorem Group.quads_updLane (g : Group) (i : Nat) (f : Lane → Lane) : (g.updLane i f).quads = g.quads := rfl
@[simp] theorem Group.sreg_updLane (g : Group) (i : Nat) (f : Lane → Lane) : (g.updLane i f).sreg = g.sreg := rfl
@[simp] theorem Group.flags_updLane (g : Group) (i : Nat) (f : Lane → Lane) : (g.updLane i f).flags = g.flags := rfl
@[simp] theorem Group.w_updLane (g : Group) (i : Nat) (f : Lane → Lane) : (g.updLane i f).w = g.w := rfl
@[simp] theorem Group.lane_updQuad (g : Group) (q i : Nat) (f : Quad → Quad) : (g.updQuad q f).lane i = g.lane i := rfl
@[simp] theorem Group.scalar_setScalar_self (g : Group) (n : Nat) (x : Word) : (g.setScalar n x).scalar n = x := by
  simp [Group.scalar, Group.setScalar]
@[simp] theorem Group.scalar_setScalar_ne (g : Group) {n k : Nat} (x : Word) (h : k ≠ n) :
    (g.setScalar n x).scalar k = g.scalar k := by simp [Group.scalar, Group.setScalar, h]
@[simp] theorem Group.lane_setScalar (g : Group) (n i : Nat) (x : Word) : (g.setScalar n x).lane i = g.lane i := rfl
@[simp] theorem Group.flag_setFlag_self (g : Group) (n x : Nat) : (g.setFlag n x).flag n = x := by
  simp [Group.flag, Group.setFlag]
@[simp] theorem Group.flag_setFlag_ne (g : Group) {n k : Nat} (x : Nat) (h : k ≠ n) :
    (g.setFlag n x).flag k = g.flag k := by simp [Group.flag, Group.setFlag, h]

/-- A property of groups that every change of a lane keeps holds after a change of several. -/
theorem Group.updLanes_induct {P : Group → Prop} (g : Group) (ls : List Nat) (f : Nat → Lane → Lane)
    (h : ∀ g i, P g → P (g.updLane i (f i))) (hg : P g) : P (g.updLanes ls f) := by
  induction ls generalizing g with
  | nil => exact hg
  | cons i t ih => exact ih _ (h g i hg)

/-- A property of groups that every change of a quad keeps holds after a change of several. -/
theorem Group.updQuads_induct {P : Group → Prop} (g : Group) (qs : List Nat) (f : Quad → Quad)
    (h : ∀ g q, P g → P (g.updQuad q f)) (hg : P g) : P (g.updQuads qs f) := by
  induction qs generalizing g with
  | nil => exact hg
  | cons q t ih => exact ih _ (h g q hg)

/-! ## Programs -/

@[simp] theorem Prog.kreg_setK_self (p : Prog) (n : Nat) (x : DWord) : (p.setK n x).kreg n = x := by
  simp [Prog.kreg, Prog.setK]
@[simp] theorem Prog.kreg_setK_ne (p : Prog) {n k : Nat} (x : DWord) (h : k ≠ n) : (p.setK n x).kreg k = p.kreg k := by
  simp [Prog.kreg, Prog.setK, h]

/-! ## The group and the program of an agent -/

variable (s : State)

theorem State.group?_updGroup_self (a : Agent) (f : Group → Group) :
    (s.updGroup a f).group? a = (s.group? a).map f := by
  cases a with
  | lane t g q =>
    simp only [State.group?, State.updGroup, State.team?_updTeam, if_true]
    cases s.team? t with
    | none => rfl
    | some x => simp [SMap.get?_modify]
  | handler c q =>
    simp only [State.group?, State.updGroup, State.core_updCore_self]
    cases (s.core c).handler <;> rfl
  | front t => rfl
  | seqr t c => rfl

theorem State.prog?_updProg_self (a : Agent) (f : Prog → Prog) : (s.updProg a f).prog? a = (s.prog? a).map f := by
  cases a with
  | front t =>
    simp only [State.prog?, State.updProg, State.team?_updTeam, if_true]
    cases s.team? t <;> rfl
  | seqr t c =>
    simp only [State.prog?, State.updProg, State.team?_updTeam, if_true]
    cases s.team? t with
    | none => rfl
    | some x => cases c <;> rfl
  | lane t g q => rfl
  | handler c q => rfl

/-- A change of a program leaves every group. -/
theorem State.group?_updProg (a b : Agent) (f : Prog → Prog) : (s.updProg a f).group? b = s.group? b := by
  have key : ∀ t (u : Team → Team), (∀ x, (u x).groups = x.groups) → (s.updTeam t u).group? b = s.group? b := by
    intro t u hu
    cases b with
    | lane t' g q =>
      simp only [State.group?, State.team?_updTeam]
      split
      · rename_i h; subst h; cases s.team? t' <;> simp [hu]
      · rfl
    | handler c q => rfl
    | front t => rfl
    | seqr t c => rfl
  cases a with
  | front t => exact key t _ fun _ => rfl
  | seqr t c => exact key t _ fun x => by cases c <;> rfl
  | lane t g q => rfl
  | handler c q => rfl

/-- A change of a group changes teams or cores, and nothing else. -/
theorem State.updGroup_eq (a : Agent) (f : Group → Group) :
    s.updGroup a f = { s with teams := (s.updGroup a f).teams, cores := (s.updGroup a f).cores } := by
  cases a <;> rfl

/-- A change of a program changes teams, and nothing else. -/
theorem State.updProg_eq (a : Agent) (f : Prog → Prog) : s.updProg a f = { s with teams := (s.updProg a f).teams } := by
  cases a <;> rfl

@[simp] theorem State.updGroup_mem (a : Agent) (f : Group → Group) : (s.updGroup a f).mem = s.mem := by
  rw [State.updGroup_eq]
@[simp] theorem State.updGroup_lines (a : Agent) (f : Group → Group) : (s.updGroup a f).lines = s.lines := by
  rw [State.updGroup_eq]
@[simp] theorem State.updGroup_ops (a : Agent) (f : Group → Group) : (s.updGroup a f).ops = s.ops := by
  rw [State.updGroup_eq]
@[simp] theorem State.updGroup_parts (a : Agent) (f : Group → Group) : (s.updGroup a f).parts = s.parts := by
  rw [State.updGroup_eq]
@[simp] theorem State.updGroup_cyc (a : Agent) (f : Group → Group) : (s.updGroup a f).cyc = s.cyc := by
  rw [State.updGroup_eq]
@[simp] theorem State.updProg_mem (a : Agent) (f : Prog → Prog) : (s.updProg a f).mem = s.mem := by
  rw [State.updProg_eq]
@[simp] theorem State.updProg_lines (a : Agent) (f : Prog → Prog) : (s.updProg a f).lines = s.lines := by
  rw [State.updProg_eq]
@[simp] theorem State.updProg_ops (a : Agent) (f : Prog → Prog) : (s.updProg a f).ops = s.ops := by
  rw [State.updProg_eq]
@[simp] theorem State.updProg_parts (a : Agent) (f : Prog → Prog) : (s.updProg a f).parts = s.parts := by
  rw [State.updProg_eq]
@[simp] theorem State.updProg_cores (a : Agent) (f : Prog → Prog) : (s.updProg a f).cores = s.cores := by
  rw [State.updProg_eq]
@[simp] theorem State.updProg_cyc (a : Agent) (f : Prog → Prog) : (s.updProg a f).cyc = s.cyc := by
  rw [State.updProg_eq]

/-! ## Moving on, and a fault -/

/-- A stop token changes the team and its core, and nothing else. -/
theorem State.noteStop_eq (t : Nat) :
    s.noteStop t = { s with teams := (s.noteStop t).teams, cores := (s.noteStop t).cores } := by
  unfold State.noteStop
  split
  · rfl
  · split <;> rfl

/-- What follows a clause boundary changes teams and cores, and nothing else. -/
theorem State.noteHalt_eq (w : Who) :
    s.noteHalt w = { s with teams := (s.noteHalt w).teams, cores := (s.noteHalt w).cores } := by
  unfold State.noteHalt
  split
  · exact State.noteStop_eq s w.team
  · rfl

/-- The move past an instruction changes the issuer's group or program, and the stop token of its team. -/
theorem State.passed_eq (w : Who) (ends lform : Bool) :
    s.passed w ends lform = { s with teams := (s.passed w ends lform).teams, cores := (s.passed w ends lform).cores } := by
  unfold State.passed
  rw [State.noteHalt_eq]
  split
  · rw [State.updProg_eq]
  · rw [State.updGroup_eq]

/-- A fault recorded for a team changes that team, and nothing else. -/
theorem State.recordFault_eq (t : Nat) (a : Agent) (r : FaultRec) :
    s.recordFault t a r = { s with teams := (s.recordFault t a r).teams, cores := (s.recordFault t a r).cores } := by
  unfold State.recordFault
  split
  · rfl
  · split
    · rfl
    · split
      · rw [State.updGroup_eq]
      · rw [State.updProg_eq]

@[simp] theorem State.passed_mem (w : Who) (ends lform : Bool) : (s.passed w ends lform).mem = s.mem := by
  rw [State.passed_eq]
@[simp] theorem State.passed_lines (w : Who) (ends lform : Bool) : (s.passed w ends lform).lines = s.lines := by
  rw [State.passed_eq]
@[simp] theorem State.passed_ops (w : Who) (ends lform : Bool) : (s.passed w ends lform).ops = s.ops := by
  rw [State.passed_eq]

end Sys2Proof.Machine
end

