-- ==== Sys2Proof/Laws/Monad.lean ====
section
/-!
SUPPORT. Computations over the module's state: what each building block answers, and the closure of a
property of states under them, so that one induction over the blocks serves every instruction and event.
-/

namespace Sys2Proof.Machine

variable {α β : Type}

/-! ## What the blocks answer -/

@[simp] theorem pure_run (a : α) (s : State) : (pure a : M α) s = .ok (a, s) := rfl
@[simp] theorem look_run (f : State → α) (s : State) : look f s = .ok (f s, s) := rfl
@[simp] theorem upd_run (f : State → State) (s : State) : upd f s = .ok ((), f s) := rfl
@[simp] theorem stop_run (e : Stop) (s : State) : (stop e : M α) s = .error e := rfl
@[simp] theorem trap_run (t : Trap) (s : State) : (trap t : M α) s = .error (.trap t) := rfl

/-- A computation that answers hands its answer and state to the next one. -/
theorem bind_run_ok {m : M α} {f : α → M β} {s t : State} {a : α} (h : m s = .ok (a, t)) :
    (m >>= f) s = f a t := by
  show (m s >>= fun p => f p.1 p.2) = _
  rw [h]; rfl

/-- A computation that stops stops the whole. -/
theorem bind_run_error {m : M α} {f : α → M β} {s : State} {e : Stop} (h : m s = .error e) :
    (m >>= f) s = .error e := by
  show (m s >>= fun p => f p.1 p.2) = _
  rw [h]; rfl

/-- INVERSION of a sequence: where it answers, its first part answered and its second one went on. -/
theorem bind_ok {m : M α} {f : α → M β} {s u : State} {b : β} (h : (m >>= f) s = .ok (b, u)) :
    ∃ a t, m s = .ok (a, t) ∧ f a t = .ok (b, u) := by
  cases hm : m s with
  | error e => rw [bind_run_error hm] at h; cases h
  | ok p =>
    obtain ⟨a, t⟩ := p
    rw [bind_run_ok hm] at h
    exact ⟨a, t, rfl, h⟩

@[simp] theorem each_nil (f : α → M Unit) (s : State) : each [] f s = .ok ((), s) := rfl

theorem each_cons (x : α) (l : List α) (f : α → M Unit) : each (x :: l) f = f x >>= fun _ => each l f := rfl

@[simp] theorem collectM_nil (f : α → M β) (s : State) : collectM [] f s = .ok ([], s) := rfl

theorem collectM_cons (x : α) (l : List α) (f : α → M β) :
    collectM (x :: l) f = f x >>= fun y => collectM l f >>= fun r => pure (y :: r) := rfl

/-- One result for each element. -/
theorem collectM_length (l : List α) (f : α → M β) {s t : State} {r : List β} (h : collectM l f s = .ok (r, t)) :
    r.length = l.length := by
  induction l generalizing s r with
  | nil => cases h; rfl
  | cons x l ih =>
    rw [collectM_cons] at h
    obtain ⟨y, s₁, -, h⟩ := bind_ok h
    obtain ⟨q, s₂, hq, h⟩ := bind_ok h
    cases h
    simp [ih hq]

/-! ## Properties that computations keep -/

/-- A computation keeps a property: where it starts with it and answers, it ends with it. -/
def Keeps (P : State → Prop) (m : M α) : Prop := ∀ s a t, P s → m s = .ok (a, t) → P t

variable {P : State → Prop}

theorem keeps_pure (a : α) : Keeps P (pure a : M α) := by
  intro s b t h e; cases e; exact h

theorem keeps_look (f : State → α) : Keeps P (look f) := by
  intro s b t h e; cases e; exact h

theorem keeps_upd {f : State → State} (hf : ∀ s, P s → P (f s)) : Keeps P (upd f) := by
  intro s b t h e; cases e; exact hf s h

theorem keeps_stop (e : Stop) : Keeps P (stop e : M α) := by
  intro s b t h e; cases e

theorem keeps_trap (t : Trap) : Keeps P (trap t : M α) := keeps_stop _

theorem keeps_bind {m : M α} {f : α → M β} (hm : Keeps P m) (hf : ∀ a, Keeps P (f a)) : Keeps P (m >>= f) := by
  intro s b u h e
  obtain ⟨a, t, h1, h2⟩ := bind_ok e
  exact hf a t b u (hm s a t h h1) h2

theorem keeps_ite {c : Prop} [Decidable c] {m n : M α} (hm : Keeps P m) (hn : Keeps P n) :
    Keeps P (if c then m else n) := by
  split <;> assumption

theorem keeps_each (l : List α) {f : α → M Unit} (hf : ∀ x, Keeps P (f x)) : Keeps P (each l f) := by
  induction l with
  | nil => exact keeps_pure ()
  | cons x l ih => exact keeps_bind (hf x) fun _ => ih

theorem keeps_collectM (l : List α) {f : α → M β} (hf : ∀ x, Keeps P (f x)) : Keeps P (collectM l f) := by
  induction l with
  | nil => exact keeps_pure []
  | cons x l ih => exact keeps_bind (hf x) fun _ => keeps_bind ih fun _ => keeps_pure _

theorem keeps_draw (h : ∀ s n, P s → P { s with free := n }) : Keeps P draw := by
  intro s a t hs e; cases e; exact h s _ hs

theorem keeps_drawBool (h : ∀ s n, P s → P { s with free := n }) : Keeps P drawBool :=
  keeps_bind (keeps_draw h) fun _ => keeps_pure _

theorem keeps_stillHeld (copy : Option α) (h : ∀ s n, P s → P { s with free := n }) : Keeps P (stillHeld copy) := by
  cases copy with
  | none => exact keeps_pure _
  | some x => exact keeps_bind (keeps_drawBool h) fun _ => keeps_pure _

theorem keeps_drawBytes (n : Nat) (h : ∀ s n, P s → P { s with free := n }) : Keeps P (drawBytes n) := by
  intro s a t hs e; cases e; exact h s _ hs

/-- What cannot be held back keeps what the computation keeps. -/
theorem runD_keeps {m : M Unit} (h : Keeps P m) {s : State} (hs : P s) : P (runD m s) := by
  unfold runD
  split
  · exact h _ _ _ hs ‹_›
  · exact hs

end Sys2Proof.Machine
end

