-- ==== Sys2Proof/Laws/Home.lean ====
section
/-!
SUPPORT. What the steps of the coherence protocol do: timestamps stored at home, clocks raised, a line that
no core holds merged, bytes put at home; and the bytes that home gives after each.
-/

namespace Sys2Proof.Machine

variable (s : State)

/-! ## Clocks and timestamps -/

theorem raisePts_run (c ts : Nat) :
    raisePts c ts s = .ok ((), s.updCore c fun k => { k with pts := maxN k.pts ts }) := rfl

theorem ptsOf_run (c : Nat) : ptsOf c s = .ok ((s.core c).pts, s) := rfl

theorem issueTs_run (part ts : Nat) :
    issueTs part ts s = .ok ((), s.updPart part fun p => { p with clkmax := maxN p.clkmax ts }) := rfl

theorem homeOf_run (part line : Nat) :
    homeOf part line s = .ok (match s.part? part with | none => 0 | some p => homeSlice part p.size line, s) := rfl

/-- The slice that homes a line. -/
def State.homeSl (part line : Nat) : Slice :=
  s.slice (match s.part? part with | none => 0 | some p => homeSlice part p.size line)

/-- The absolute timestamps of a line read at home, as its first access after a rebase converts them. -/
theorem homeTs_run (part line : Nat) :
    homeTs part line s = .ok ((((s.line line).conv (s.homeSl part line)).absWts (s.homeSl part line),
      ((s.line line).conv (s.homeSl part line)).absRts (s.homeSl part line)), s) := rfl

/-- Room at a slice: it is there already, or a rebase makes it; while a sweep runs the access is held. -/
theorem roomFor_ok {h v : Nat} {t : State} (e : roomFor h v s = .ok ((), t)) :
    t = s ∨ ((s.slice h).sweep = false ∧ t = s.updSlice h fun x => x.rebase v) := by
  unfold roomFor at e
  obtain ⟨sl, s₁, h1, h2⟩ := bind_ok e
  cases h1
  split at h2
  · cases h2; exact .inl rfl
  · split at h2
    · cases h2
    · rename_i hs; cases h2; exact .inr ⟨by simpa using hs, rfl⟩

/-- Timestamps stored: the line's, after room was made, converted to the current base, and CLKMAX raised. -/
theorem storeTs_ok {part line wts rts : Nat} {f : LineSt → LineSt} {t : State}
    (e : storeTs part line wts rts f s = .ok ((), t)) :
    ∃ s₁ : State, (s₁ = s ∨ ∃ h v, s₁ = s.updSlice h fun x => x.rebase v) ∧
      ∃ x : LineSt, ∃ sl : Slice, x = { f ((s₁.line line).conv sl) with
          e := sl.cb, wts := BitVec.ofNat 24 (maxN wts (sl.base sl.cb) - sl.base sl.cb),
          rts := BitVec.ofNat 24 (maxN rts (sl.base sl.cb) - sl.base sl.cb) } ∧
        t = (s₁.setLine line x).updPart part fun p => { p with clkmax := maxN p.clkmax (maxN wts rts) } := by
  unfold storeTs at e
  obtain ⟨h, s₀, h1, e⟩ := bind_ok e
  cases h1
  obtain ⟨u₁, s₁, h2, e⟩ := bind_ok e
  obtain ⟨u₂, s₂, h3, e⟩ := bind_ok e
  cases h3
  cases e
  refine ⟨s₁, ?_, _, _, rfl, rfl⟩
  rcases roomFor_ok s h2 with h | ⟨-, h⟩
  · exact .inl h
  · exact .inr ⟨_, _, h⟩

/-- A line converted to the current base keeps its holders. -/
@[simp] theorem LineSt.conv_holders (l : LineSt) (sl : Slice) : (l.conv sl).holders = l.holders := by
  unfold LineSt.conv; split <;> rfl

/-! ## The bytes that home gives -/

/-- Home gives the same bytes in two states that have the same memory and whose lines have the same holders. -/
theorem State.homeByte_congr {t : State} (a : Nat) (hm : t.mem = s.mem)
    (hl : (t.line (a / 64)).holders = (s.line (a / 64)).holders) : t.homeByte a = s.homeByte a := by
  unfold State.homeByte State.byte
  rw [hm, hl]

/-- Timestamps stored by a change that keeps the holders leave every byte as it was. -/
theorem storeTs_homeByte {part line wts rts : Nat} {f : LineSt → LineSt} {t : State}
    (hf : ∀ l, (f l).holders = l.holders) (e : storeTs part line wts rts f s = .ok ((), t)) (a : Nat) :
    t.homeByte a = s.homeByte a := by
  obtain ⟨s₁, h1, x, sl, hx, ht⟩ := storeTs_ok s e
  have hm : s₁.mem = s.mem := by rcases h1 with h | ⟨h, v, h'⟩ <;> simp [*]
  have hl : s₁.lines = s.lines := by rcases h1 with h | ⟨h, v, h'⟩ <;> simp [*]
  subst ht
  refine State.homeByte_congr s a (by simpa using hm) ?_
  by_cases h : a / 64 = line
  · have h2 : ((s₁.setLine line x).updPart part fun p =>
        { p with clkmax := maxN p.clkmax (maxN wts rts) }).line (a / 64) = (s₁.setLine line x).line (a / 64) := rfl
    rw [h2, h, State.line_setLine_self, hx]
    simp [hf, State.line, hl]
  · have h2 : ((s₁.setLine line x).updPart part fun p =>
        { p with clkmax := maxN p.clkmax (maxN wts rts) }).line (a / 64) = (s₁.setLine line x).line (a / 64) := rfl
    rw [h2, State.line_setLine_ne _ _ h]
    simp [State.line, hl]

/-- A line that no core holds merges without effect. -/
theorem mergeLine_unheld {part line : Nat} (h : (s.line line).holders = []) : mergeLine part line s = .ok ((), s) := by
  unfold mergeLine
  rw [bind_run_ok (look_run _ s)]
  simp [h]

/-- An unheld line's byte is memory's. -/
theorem State.homeByte_unheld {a : Nat} (h : (s.line (a / 64)).holders = []) : s.homeByte a = s.byte a := by
  simp [State.homeByte, h]

/-- What a mark of a dirty frame leaves: everything but the partition. -/
theorem State.markDirty_eq (part pa : Nat) : s.markDirty part pa = { s with parts := (s.markDirty part pa).parts } := by
  unfold State.markDirty
  split <;> rfl

@[simp] theorem State.markDirty_mem (part pa : Nat) : (s.markDirty part pa).mem = s.mem := by
  rw [State.markDirty_eq]
@[simp] theorem State.markDirty_lines (part pa : Nat) : (s.markDirty part pa).lines = s.lines := by
  rw [State.markDirty_eq]
@[simp] theorem State.markDirty_cores (part pa : Nat) : (s.markDirty part pa).cores = s.cores := by
  rw [State.markDirty_eq]
@[simp] theorem State.markDirty_teams (part pa : Nat) : (s.markDirty part pa).teams = s.teams := by
  rw [State.markDirty_eq]

/-- A line of which the host's copy is taken back: only what the host holds and the messages to it change. -/
theorem State.takeBack_eq (line : Nat) :
    s.takeBack line = { s with hostHeld := (s.takeBack line).hostHeld, outbox := (s.takeBack line).outbox } := by
  unfold State.takeBack
  split <;> rfl

/-- A line that the host caches taken back changes no byte. -/
theorem backInvalidate_ok {line : Nat} {t : State} (e : backInvalidate line s = .ok ((), t)) :
    t = { s with hostHeld := t.hostHeld, outbox := t.outbox } := by
  cases e
  exact State.takeBack_eq s line

end Sys2Proof.Machine
end

