-- ==== Sys2Proof/Laws/Issue.lean ====
section
/-!
SUPPORT. Everything that the issue of an instruction and an event can do, once: the equations that a proof
cites in place of unfolding them.
-/

namespace Sys2Proof.Machine

variable {s t : State} {w w₀ : Who} {i : Instr} {fm : Form} {f : Fields} {body : Who → Fields → M Unit} {go : Bool}

/-! ## How a computation ends -/

theorem resolve_ok {ends : Bool} : resolve s w ends (.ok ((), t)) = .next t := rfl
theorem resolve_trap {ends : Bool} (x : Trap) : resolve s w ends (.error (.trap x)) = .next (s.raiseTrap w ends x) := rfl
theorem resolve_kept {ends : Bool} (x : Trap) :
    resolve s w ends (.error (.kept x)) = .next ((runD (commitTask w) s).raiseTrap w ends x) := rfl
theorem resolve_hold {ends : Bool} : resolve s w ends (.error .hold) = .next s := rfl

/-- A computation that ends in a next state answered it, or stopped with a trap, with one that leaves the commit, an
abort, a restart or a hold. -/
theorem resolve_next {ends : Bool} {r : Except Stop (Unit × State)} (h : resolve s w ends r = .next t) :
    r = .ok ((), t) ∨ (∃ x, r = .error (.trap x) ∧ t = s.raiseTrap w ends x) ∨
      (∃ x, r = .error (.kept x) ∧ t = (runD (commitTask w) s).raiseTrap w ends x) ∨
      (r = .error .abort ∧ t = s.abortSplit w.team (faultRecOf w ends { kind := kGRAIN, cause := 1 })) ∨
      (r = .error .restart ∧ t = s.restart w.team) ∨ (r = .error .hold ∧ t = s) := by
  match r, h with
  | .ok ((), u), h => cases h; exact .inl rfl
  | .error (.trap x), h => cases h; exact .inr (.inl ⟨x, rfl, rfl⟩)
  | .error (.kept x), h => cases h; exact .inr (.inr (.inl ⟨x, rfl, rfl⟩))
  | .error .abort, h => cases h; exact .inr (.inr (.inr (.inl ⟨rfl, rfl⟩)))
  | .error .restart, h => cases h; exact .inr (.inr (.inr (.inr (.inl ⟨rfl, rfl⟩))))
  | .error .hold, h => cases h; exact .inr (.inr (.inr (.inr (.inr ⟨rfl, rfl⟩))))

/-! ## An instruction -/

/-- An instruction is issued by the agent that issues now, with the guard of its word. -/
theorem issue_eq (hw : s.who? s.cur = some w₀) (hm : form i = some fm) (hf : fields i = some f) :
    issue i body s = issueAs true i fm f (s.issuer i w₀ f) body s := by
  simp [issue, hw, hm, hf]

theorem issueStay_eq (hw : s.who? s.cur = some w₀) (hm : form i = some fm) (hf : fields i = some f) :
    issueStay i body s = issueAs false i fm f (s.issuer i w₀ f) body s := by
  simp [issueStay, hw, hm, hf]

theorem issueAs_illegal (h : illegalUse s w i fm f = true) :
    issueAs go i fm f w body s = .next (s.raiseTrap w fm.ends illegal) := by simp [issueAs, h]

theorem issueAs_held (h : illegalUse s w i fm f = false) (hp : w.takesPart = true) (hh : s.held w fm f = true) :
    issueAs go i fm f w body s = .next s := by simp [issueAs, h, hp, hh]

theorem issueAs_absent (h : illegalUse s w i fm f = false) (hp : w.takesPart = false) :
    issueAs go i fm f w body s = .next (s.passed w fm.ends fm.long) := by simp [issueAs, h, hp]

theorem issueAs_channel (h : illegalUse s w i fm f = false) (hh : s.held w fm f = false) (hp : w.takesPart = true)
    {x : Trap} (hc : channelChecks s w fm f = some x) :
    issueAs go i fm f w body s = .next (s.raiseTrap w fm.ends x) := by simp [issueAs, h, hh, hp, hc]

/-- An instruction that passes every check runs its effect. -/
theorem issueAs_runs (h : illegalUse s w i fm f = false) (hh : s.held w fm f = false) (hp : w.takesPart = true)
    (hc : channelChecks s w fm f = none) :
    issueAs go i fm f w body s = resolve s w fm.ends (body w f (if go then s.passed w fm.ends fm.long else s)) := by
  simp [issueAs, h, hh, hp, hc]

/-- EVERYTHING THAT AN ISSUE CAN DO. -/
theorem issueAs_cases (h : issueAs go i fm f w body s = .next t) :
    t = s.raiseTrap w fm.ends illegal ∨ t = s.passed w fm.ends fm.long ∨ t = s ∨
      (∃ x, channelChecks s w fm f = some x ∧ t = s.raiseTrap w fm.ends x) ∨
      resolve s w fm.ends (body w f (if go then s.passed w fm.ends fm.long else s)) = .next t := by
  unfold issueAs at h
  split at h
  · cases h; exact .inl rfl
  · split at h
    · cases h; exact .inr (.inl rfl)
    · split at h
      · cases h; exact .inr (.inr (.inl rfl))
      · split at h
        · cases h; exact .inr (.inr (.inr (.inl ⟨_, ‹_›, rfl⟩)))
        · exact .inr (.inr (.inr (.inr h)))

/-! ## An event -/

theorem event_ok {m : M Unit} (h : m s = .ok ((), t)) : event m s = .next t := by simp [event, h]

/-- An event that ends in a next state ran to its end or changed nothing. -/
theorem event_cases {m : M Unit} (h : event m s = .next t) : m s = .ok ((), t) ∨ t = s := by
  unfold event at h
  split at h
  · cases h; exact .inl ‹_›
  · cases h; exact .inr rfl

/-- A team's event may also restart its task. -/
theorem teamEvent_cases {n : Nat} {m : M Unit} (h : teamEvent n m s = .next t) :
    m s = .ok ((), t) ∨ t = s.restart n ∨ t = s := by
  unfold teamEvent at h
  split at h
  · cases h; exact .inl ‹_›
  · cases h; exact .inr (.inl rfl)
  · cases h; exact .inr (.inr rfl)

end Sys2Proof.Machine
end

