-- ==== Sys2Proof/Laws/Ops.lean ====
section
/-!
SUPPORT. What starting a long-latency operation does, and what a completion leaves.
-/

namespace Sys2Proof.Machine

variable (s : State)

/-- The issuer's flag raised by one where its clause binds one (R36, R37). -/
def State.flagUp (s : State) (w : Who) : State :=
  match w.latch.flag with
  | none => s
  | some n =>
    if w.front then s.updProg w.agent fun p => p.setFlag n (p.flag n + 1)
    else s.updGroup w.agent fun g => g.setFlag n (g.flag n + 1)

/-- AN OPERATION STARTS and nothing else happens: it takes the next number, its flag rises, and it is listed. -/
theorem startOp_run (w : Who) (kind : OpKind) (dests : List RegRef) (vals : List (RegRef × DWord)) (late : Option Trap)
    (ts : Nat) (waits : List Wait) :
    startOp w kind dests vals late ts waits s = .ok (s.serial,
      let u := State.flagUp { s with serial := s.serial + 1 } w
      let o : Op := ⟨w.owner, w.latch.flag, kind, dests, vals, late.map (lateRec w), ts, waits, w.iaddr⟩
      { u with ops := SMap.put u.ops s.serial o }) := rfl

theorem State.flagUp_eq (w : Who) :
    s.flagUp w = { s with teams := (s.flagUp w).teams, cores := (s.flagUp w).cores } := by
  unfold State.flagUp
  split
  · rfl
  · split
    · rw [State.updProg_eq]
    · rw [State.updGroup_eq]

/-- An operation that is not outstanding completes without effect. -/
theorem State.finishOp_none {id : Nat} (h : SMap.get? s.ops id = none) : s.finishOp id = s := by
  simp [State.finishOp, h]

/-- The group or program of an owner that is gone is not changed (R437). -/
theorem State.updOwner_gone {o : Owner} (h : s.ownerAt o = .gone) (fg : Group → Group) (fp : Prog → Prog) :
    s.updOwner o fg fp = s := by simp [State.updOwner, h]

/-- A change of an owner changes teams, saved teams or cores, and nothing else. -/
theorem State.updOwner_eq (o : Owner) (fg : Group → Group) (fp : Prog → Prog) :
    s.updOwner o fg fp = { s with teams := (s.updOwner o fg fp).teams, saved := (s.updOwner o fg fp).saved,
                                  cores := (s.updOwner o fg fp).cores } := by
  unfold State.updOwner
  split <;> rfl

/-- A value that lands in a lane register is the one that is read there, and no other register changes. -/
theorem Group.lane_land (g : Group) (e : RegRef × DWord) (k : Nat) :
    (g.land e).lane k = match e.1 with
      | .v i n => if k = i ∧ i < g.lanes.length then (g.lane i).setReg n (e.2.setWidth 32) else g.lane k
      | .p i n => if k = i ∧ i < g.lanes.length then (g.lane i).setPred n (decide (e.2 ≠ 0)) else g.lane k
      | _ => g.lane k := by
  obtain ⟨r, x⟩ := e
  cases r with
  | v i n => simpa [Group.land] using Group.lane_updLane g i k fun l => l.setReg n (x.setWidth 32)
  | p i n => simpa [Group.land] using Group.lane_updLane g i k fun l => l.setPred n (decide (x ≠ 0))
  | s n => rfl
  | k n => rfl
  | q i n => rfl

end Sys2Proof.Machine
end

