-- ==== Sys2Proof/Laws/PerInstr.lean ====
section
/-!
SUPPORT. One lemma for each constructor of Instr: the OP and FN of its form lead the decoder back to it with
its own fields, and an event has neither form nor fields.
-/

namespace Sys2Proof.Laws

/-- OP and FN of a well-formed instruction fit their fields and name it, with the fields that its word carries
(R16, R48); an event carries no word. -/
def Encoding.Statement (i : Instr) : Prop :=
  match form i, fields i with
  | some fm, some f => i.wellFormed = true → fm.op < 256 ∧ fm.fn < 64 ∧ ofOpFn fm.op fm.fn f = some i
  | none, none => i.wellFormed = true
  | _, _ => False

theorem Encoding.nop (f : Fields) : Encoding.Statement (.nop f) := fun _ => ⟨Nat.le_of_ble_eq_true rfl, Nat.le_of_ble_eq_true rfl, rfl⟩
theorem Encoding.bra (f : Fields) : Encoding.Statement (.bra f) := fun _ => ⟨Nat.le_of_ble_eq_true rfl, Nat.le_of_ble_eq_true rfl, rfl⟩
theorem Encoding.brx (f : Fields) : Encoding.Statement (.brx f) := fun _ => ⟨Nat.le_of_ble_eq_true rfl, Nat.le_of_ble_eq_true rfl, rfl⟩
theorem Encoding.jmpx (f : Fields) : Encoding.Statement (.jmpx f) := fun _ => ⟨Nat.le_of_ble_eq_true rfl, Nat.le_of_ble_eq_true rfl, rfl⟩
theorem Encoding.call (f : Fields) : Encoding.Statement (.call f) := fun _ => ⟨Nat.le_of_ble_eq_true rfl, Nat.le_of_ble_eq_true rfl, rfl⟩
theorem Encoding.callx (f : Fields) : Encoding.Statement (.callx f) := fun _ => ⟨Nat.le_of_ble_eq_true rfl, Nat.le_of_ble_eq_true rfl, rfl⟩
theorem Encoding.ret (f : Fields) : Encoding.Statement (.ret f) := fun _ => ⟨Nat.le_of_ble_eq_true rfl, Nat.le_of_ble_eq_true rfl, rfl⟩
theorem Encoding.exitLane (f : Fields) : Encoding.Statement (.exitLane f) := fun _ => ⟨Nat.le_of_ble_eq_true rfl, Nat.le_of_ble_eq_true rfl, rfl⟩
theorem Encoding.reform (f : Fields) : Encoding.Statement (.reform f) := fun _ => ⟨Nat.le_of_ble_eq_true rfl, Nat.le_of_ble_eq_true rfl, rfl⟩
theorem Encoding.regang (f : Fields) : Encoding.Statement (.regang f) := fun _ => ⟨Nat.le_of_ble_eq_true rfl, Nat.le_of_ble_eq_true rfl, rfl⟩
theorem Encoding.yieldGang (f : Fields) : Encoding.Statement (.yieldGang f) := fun _ => ⟨Nat.le_of_ble_eq_true rfl, Nat.le_of_ble_eq_true rfl, rfl⟩
theorem Encoding.sleepto (f : Fields) : Encoding.Statement (.sleepto f) := fun _ => ⟨Nat.le_of_ble_eq_true rfl, Nat.le_of_ble_eq_true rfl, rfl⟩
theorem Encoding.ipref (f : Fields) : Encoding.Statement (.ipref f) := fun _ => ⟨Nat.le_of_ble_eq_true rfl, Nat.le_of_ble_eq_true rfl, rfl⟩
theorem Encoding.decide (f : Fields) : Encoding.Statement (.decide f) := fun _ => ⟨Nat.le_of_ble_eq_true rfl, Nat.le_of_ble_eq_true rfl, rfl⟩
theorem Encoding.bru (f : Fields) : Encoding.Statement (.bru f) := fun _ => ⟨Nat.le_of_ble_eq_true rfl, Nat.le_of_ble_eq_true rfl, rfl⟩
theorem Encoding.fork (f : Fields) : Encoding.Statement (.fork f) := fun _ => ⟨Nat.le_of_ble_eq_true rfl, Nat.le_of_ble_eq_true rfl, rfl⟩
theorem Encoding.add (f : Fields) : Encoding.Statement (.add f) := fun _ => ⟨Nat.le_of_ble_eq_true rfl, Nat.le_of_ble_eq_true rfl, rfl⟩
theorem Encoding.sub (f : Fields) : Encoding.Statement (.sub f) := fun _ => ⟨Nat.le_of_ble_eq_true rfl, Nat.le_of_ble_eq_true rfl, rfl⟩
theorem Encoding.addc (f : Fields) : Encoding.Statement (.addc f) := fun _ => ⟨Nat.le_of_ble_eq_true rfl, Nat.le_of_ble_eq_true rfl, rfl⟩
theorem Encoding.mul (f : Fields) : Encoding.Statement (.mul f) := fun _ => ⟨Nat.le_of_ble_eq_true rfl, Nat.le_of_ble_eq_true rfl, rfl⟩
theorem Encoding.mulhi (f : Fields) : Encoding.Statement (.mulhi f) := fun _ => ⟨Nat.le_of_ble_eq_true rfl, Nat.le_of_ble_eq_true rfl, rfl⟩
theorem Encoding.mad (f : Fields) : Encoding.Statement (.mad f) := fun _ => ⟨Nat.le_of_ble_eq_true rfl, Nat.le_of_ble_eq_true rfl, rfl⟩
theorem Encoding.madhi (f : Fields) : Encoding.Statement (.madhi f) := fun _ => ⟨Nat.le_of_ble_eq_true rfl, Nat.le_of_ble_eq_true rfl, rfl⟩
theorem Encoding.min (f : Fields) : Encoding.Statement (.min f) := fun _ => ⟨Nat.le_of_ble_eq_true rfl, Nat.le_of_ble_eq_true rfl, rfl⟩
theorem Encoding.max (f : Fields) : Encoding.Statement (.max f) := fun _ => ⟨Nat.le_of_ble_eq_true rfl, Nat.le_of_ble_eq_true rfl, rfl⟩
theorem Encoding.abs (f : Fields) : Encoding.Statement (.abs f) := fun _ => ⟨Nat.le_of_ble_eq_true rfl, Nat.le_of_ble_eq_true rfl, rfl⟩
theorem Encoding.neg (f : Fields) : Encoding.Statement (.neg f) := fun _ => ⟨Nat.le_of_ble_eq_true rfl, Nat.le_of_ble_eq_true rfl, rfl⟩
theorem Encoding.andb (f : Fields) : Encoding.Statement (.andb f) := fun _ => ⟨Nat.le_of_ble_eq_true rfl, Nat.le_of_ble_eq_true rfl, rfl⟩
theorem Encoding.orb (f : Fields) : Encoding.Statement (.orb f) := fun _ => ⟨Nat.le_of_ble_eq_true rfl, Nat.le_of_ble_eq_true rfl, rfl⟩
theorem Encoding.xorb (f : Fields) : Encoding.Statement (.xorb f) := fun _ => ⟨Nat.le_of_ble_eq_true rfl, Nat.le_of_ble_eq_true rfl, rfl⟩
theorem Encoding.notb (f : Fields) : Encoding.Statement (.notb f) := fun _ => ⟨Nat.le_of_ble_eq_true rfl, Nat.le_of_ble_eq_true rfl, rfl⟩
theorem Encoding.andn (f : Fields) : Encoding.Statement (.andn f) := fun _ => ⟨Nat.le_of_ble_eq_true rfl, Nat.le_of_ble_eq_true rfl, rfl⟩
theorem Encoding.shl (f : Fields) : Encoding.Statement (.shl f) := fun _ => ⟨Nat.le_of_ble_eq_true rfl, Nat.le_of_ble_eq_true rfl, rfl⟩
theorem Encoding.shr (f : Fields) : Encoding.Statement (.shr f) := fun _ => ⟨Nat.le_of_ble_eq_true rfl, Nat.le_of_ble_eq_true rfl, rfl⟩
theorem Encoding.sar (f : Fields) : Encoding.Statement (.sar f) := fun _ => ⟨Nat.le_of_ble_eq_true rfl, Nat.le_of_ble_eq_true rfl, rfl⟩
theorem Encoding.rol (f : Fields) : Encoding.Statement (.rol f) := fun _ => ⟨Nat.le_of_ble_eq_true rfl, Nat.le_of_ble_eq_true rfl, rfl⟩
theorem Encoding.bfx (f : Fields) : Encoding.Statement (.bfx f) := fun _ => ⟨Nat.le_of_ble_eq_true rfl, Nat.le_of_ble_eq_true rfl, rfl⟩
theorem Encoding.bfi (f : Fields) : Encoding.Statement (.bfi f) := fun _ => ⟨Nat.le_of_ble_eq_true rfl, Nat.le_of_ble_eq_true rfl, rfl⟩
theorem Encoding.popc (f : Fields) : Encoding.Statement (.popc f) := fun _ => ⟨Nat.le_of_ble_eq_true rfl, Nat.le_of_ble_eq_true rfl, rfl⟩
theorem Encoding.clz (f : Fields) : Encoding.Statement (.clz f) := fun _ => ⟨Nat.le_of_ble_eq_true rfl, Nat.le_of_ble_eq_true rfl, rfl⟩
theorem Encoding.ctz (f : Fields) : Encoding.Statement (.ctz f) := fun _ => ⟨Nat.le_of_ble_eq_true rfl, Nat.le_of_ble_eq_true rfl, rfl⟩
theorem Encoding.brev (f : Fields) : Encoding.Statement (.brev f) := fun _ => ⟨Nat.le_of_ble_eq_true rfl, Nat.le_of_ble_eq_true rfl, rfl⟩
theorem Encoding.bperm (f : Fields) : Encoding.Statement (.bperm f) := fun _ => ⟨Nat.le_of_ble_eq_true rfl, Nat.le_of_ble_eq_true rfl, rfl⟩
theorem Encoding.sel (f : Fields) : Encoding.Statement (.sel f) := fun _ => ⟨Nat.le_of_ble_eq_true rfl, Nat.le_of_ble_eq_true rfl, rfl⟩
theorem Encoding.setp (f : Fields) : Encoding.Statement (.setp f) := fun _ => ⟨Nat.le_of_ble_eq_true rfl, Nat.le_of_ble_eq_true rfl, rfl⟩
theorem Encoding.pand (f : Fields) : Encoding.Statement (.pand f) := fun _ => ⟨Nat.le_of_ble_eq_true rfl, Nat.le_of_ble_eq_true rfl, rfl⟩
theorem Encoding.por (f : Fields) : Encoding.Statement (.por f) := fun _ => ⟨Nat.le_of_ble_eq_true rfl, Nat.le_of_ble_eq_true rfl, rfl⟩
theorem Encoding.pxor (f : Fields) : Encoding.Statement (.pxor f) := fun _ => ⟨Nat.le_of_ble_eq_true rfl, Nat.le_of_ble_eq_true rfl, rfl⟩
theorem Encoding.pnot (f : Fields) : Encoding.Statement (.pnot f) := fun _ => ⟨Nat.le_of_ble_eq_true rfl, Nat.le_of_ble_eq_true rfl, rfl⟩
theorem Encoding.mov (f : Fields) : Encoding.Statement (.mov f) := fun _ => ⟨Nat.le_of_ble_eq_true rfl, Nat.le_of_ble_eq_true rfl, rfl⟩
theorem Encoding.movi (f : Fields) : Encoding.Statement (.movi f) := fun _ => ⟨Nat.le_of_ble_eq_true rfl, Nat.le_of_ble_eq_true rfl, rfl⟩
theorem Encoding.lea (f : Fields) : Encoding.Statement (.lea f) := fun _ => ⟨Nat.le_of_ble_eq_true rfl, Nat.le_of_ble_eq_true rfl, rfl⟩
theorem Encoding.srd (f : Fields) : Encoding.Statement (.srd f) := fun _ => ⟨Nat.le_of_ble_eq_true rfl, Nat.le_of_ble_eq_true rfl, rfl⟩
theorem Encoding.swr (f : Fields) : Encoding.Statement (.swr f) := fun _ => ⟨Nat.le_of_ble_eq_true rfl, Nat.le_of_ble_eq_true rfl, rfl⟩
theorem Encoding.fadd (f : Fields) : Encoding.Statement (.fadd f) := fun _ => ⟨Nat.le_of_ble_eq_true rfl, Nat.le_of_ble_eq_true rfl, rfl⟩
theorem Encoding.fsub (f : Fields) : Encoding.Statement (.fsub f) := fun _ => ⟨Nat.le_of_ble_eq_true rfl, Nat.le_of_ble_eq_true rfl, rfl⟩
theorem Encoding.fmul (f : Fields) : Encoding.Statement (.fmul f) := fun _ => ⟨Nat.le_of_ble_eq_true rfl, Nat.le_of_ble_eq_true rfl, rfl⟩
theorem Encoding.ffma (f : Fields) : Encoding.Statement (.ffma f) := fun _ => ⟨Nat.le_of_ble_eq_true rfl, Nat.le_of_ble_eq_true rfl, rfl⟩
theorem Encoding.fmin (f : Fields) : Encoding.Statement (.fmin f) := fun _ => ⟨Nat.le_of_ble_eq_true rfl, Nat.le_of_ble_eq_true rfl, rfl⟩
theorem Encoding.fmax (f : Fields) : Encoding.Statement (.fmax f) := fun _ => ⟨Nat.le_of_ble_eq_true rfl, Nat.le_of_ble_eq_true rfl, rfl⟩
theorem Encoding.fneg (f : Fields) : Encoding.Statement (.fneg f) := fun _ => ⟨Nat.le_of_ble_eq_true rfl, Nat.le_of_ble_eq_true rfl, rfl⟩
theorem Encoding.fsetp (f : Fields) : Encoding.Statement (.fsetp f) := fun _ => ⟨Nat.le_of_ble_eq_true rfl, Nat.le_of_ble_eq_true rfl, rfl⟩
theorem Encoding.fclass (f : Fields) : Encoding.Statement (.fclass f) := fun _ => ⟨Nat.le_of_ble_eq_true rfl, Nat.le_of_ble_eq_true rfl, rfl⟩
theorem Encoding.frnd (f : Fields) : Encoding.Statement (.frnd f) := fun _ => ⟨Nat.le_of_ble_eq_true rfl, Nat.le_of_ble_eq_true rfl, rfl⟩
theorem Encoding.fscale (f : Fields) : Encoding.Statement (.fscale f) := fun _ => ⟨Nat.le_of_ble_eq_true rfl, Nat.le_of_ble_eq_true rfl, rfl⟩
theorem Encoding.fdot2 (f : Fields) : Encoding.Statement (.fdot2 f) := fun _ => ⟨Nat.le_of_ble_eq_true rfl, Nat.le_of_ble_eq_true rfl, rfl⟩
theorem Encoding.frcp (f : Fields) : Encoding.Statement (.frcp f) := fun _ => ⟨Nat.le_of_ble_eq_true rfl, Nat.le_of_ble_eq_true rfl, rfl⟩
theorem Encoding.frsq (f : Fields) : Encoding.Statement (.frsq f) := fun _ => ⟨Nat.le_of_ble_eq_true rfl, Nat.le_of_ble_eq_true rfl, rfl⟩
theorem Encoding.fsqrt (f : Fields) : Encoding.Statement (.fsqrt f) := fun _ => ⟨Nat.le_of_ble_eq_true rfl, Nat.le_of_ble_eq_true rfl, rfl⟩
theorem Encoding.fexp2 (f : Fields) : Encoding.Statement (.fexp2 f) := fun _ => ⟨Nat.le_of_ble_eq_true rfl, Nat.le_of_ble_eq_true rfl, rfl⟩
theorem Encoding.flog2 (f : Fields) : Encoding.Statement (.flog2 f) := fun _ => ⟨Nat.le_of_ble_eq_true rfl, Nat.le_of_ble_eq_true rfl, rfl⟩
theorem Encoding.fsin (f : Fields) : Encoding.Statement (.fsin f) := fun _ => ⟨Nat.le_of_ble_eq_true rfl, Nat.le_of_ble_eq_true rfl, rfl⟩
theorem Encoding.fcos (f : Fields) : Encoding.Statement (.fcos f) := fun _ => ⟨Nat.le_of_ble_eq_true rfl, Nat.le_of_ble_eq_true rfl, rfl⟩
theorem Encoding.ftanh (f : Fields) : Encoding.Statement (.ftanh f) := fun _ => ⟨Nat.le_of_ble_eq_true rfl, Nat.le_of_ble_eq_true rfl, rfl⟩
theorem Encoding.cvt (src : Ty) (f : Fields) : Encoding.Statement (.cvt src f) := by
  intro h; cases src <;> first
    | exact ⟨Nat.le_of_ble_eq_true rfl, Nat.le_of_ble_eq_true rfl, rfl⟩
    | simp [Instr.wellFormed, form, fields, staticCheck, cvtTys] at h
theorem Encoding.cvt8 (f : Fields) : Encoding.Statement (.cvt8 f) := fun _ => ⟨Nat.le_of_ble_eq_true rfl, Nat.le_of_ble_eq_true rfl, rfl⟩
theorem Encoding.bpack (f : Fields) : Encoding.Statement (.bpack f) := fun _ => ⟨Nat.le_of_ble_eq_true rfl, Nat.le_of_ble_eq_true rfl, rfl⟩
theorem Encoding.bunpack (f : Fields) : Encoding.Statement (.bunpack f) := fun _ => ⟨Nat.le_of_ble_eq_true rfl, Nat.le_of_ble_eq_true rfl, rfl⟩
theorem Encoding.bscale (f : Fields) : Encoding.Statement (.bscale f) := fun _ => ⟨Nat.le_of_ble_eq_true rfl, Nat.le_of_ble_eq_true rfl, rfl⟩
theorem Encoding.btagr (f : Fields) : Encoding.Statement (.btagr f) := fun _ => ⟨Nat.le_of_ble_eq_true rfl, Nat.le_of_ble_eq_true rfl, rfl⟩
theorem Encoding.btagw (f : Fields) : Encoding.Statement (.btagw f) := fun _ => ⟨Nat.le_of_ble_eq_true rfl, Nat.le_of_ble_eq_true rfl, rfl⟩
theorem Encoding.shfl (f : Fields) : Encoding.Statement (.shfl f) := fun _ => ⟨Nat.le_of_ble_eq_true rfl, Nat.le_of_ble_eq_true rfl, rfl⟩
theorem Encoding.vote (f : Fields) : Encoding.Statement (.vote f) := fun _ => ⟨Nat.le_of_ble_eq_true rfl, Nat.le_of_ble_eq_true rfl, rfl⟩
theorem Encoding.ballot (f : Fields) : Encoding.Statement (.ballot f) := fun _ => ⟨Nat.le_of_ble_eq_true rfl, Nat.le_of_ble_eq_true rfl, rfl⟩
theorem Encoding.redadd (f : Fields) : Encoding.Statement (.redadd f) := fun _ => ⟨Nat.le_of_ble_eq_true rfl, Nat.le_of_ble_eq_true rfl, rfl⟩
theorem Encoding.redmax (f : Fields) : Encoding.Statement (.redmax f) := fun _ => ⟨Nat.le_of_ble_eq_true rfl, Nat.le_of_ble_eq_true rfl, rfl⟩
theorem Encoding.scan (f : Fields) : Encoding.Statement (.scan f) := fun _ => ⟨Nat.le_of_ble_eq_true rfl, Nat.le_of_ble_eq_true rfl, rfl⟩
theorem Encoding.lds (f : Fields) : Encoding.Statement (.lds f) := fun _ => ⟨Nat.le_of_ble_eq_true rfl, Nat.le_of_ble_eq_true rfl, rfl⟩
theorem Encoding.sts (f : Fields) : Encoding.Statement (.sts f) := fun _ => ⟨Nat.le_of_ble_eq_true rfl, Nat.le_of_ble_eq_true rfl, rfl⟩
theorem Encoding.bankmode (f : Fields) : Encoding.Statement (.bankmode f) := fun _ => ⟨Nat.le_of_ble_eq_true rfl, Nat.le_of_ble_eq_true rfl, rfl⟩
theorem Encoding.qcfg (f : Fields) : Encoding.Statement (.qcfg f) := fun _ => ⟨Nat.le_of_ble_eq_true rfl, Nat.le_of_ble_eq_true rfl, rfl⟩
theorem Encoding.qstat (f : Fields) : Encoding.Statement (.qstat f) := fun _ => ⟨Nat.le_of_ble_eq_true rfl, Nat.le_of_ble_eq_true rfl, rfl⟩
theorem Encoding.qdrain (f : Fields) : Encoding.Statement (.qdrain f) := fun _ => ⟨Nat.le_of_ble_eq_true rfl, Nat.le_of_ble_eq_true rfl, rfl⟩
theorem Encoding.atoms (op : AOp) (f : Fields) : Encoding.Statement (.atoms op f) := by
  intro _; cases op <;> exact ⟨Nat.le_of_ble_eq_true rfl, Nat.le_of_ble_eq_true rfl, rfl⟩
theorem Encoding.ld (f : Fields) : Encoding.Statement (.ld f) := fun _ => ⟨Nat.le_of_ble_eq_true rfl, Nat.le_of_ble_eq_true rfl, rfl⟩
theorem Encoding.st (f : Fields) : Encoding.Statement (.st f) := fun _ => ⟨Nat.le_of_ble_eq_true rfl, Nat.le_of_ble_eq_true rfl, rfl⟩
theorem Encoding.ldc (f : Fields) : Encoding.Statement (.ldc f) := fun _ => ⟨Nat.le_of_ble_eq_true rfl, Nat.le_of_ble_eq_true rfl, rfl⟩
theorem Encoding.ldt (f : Fields) : Encoding.Statement (.ldt f) := fun _ => ⟨Nat.le_of_ble_eq_true rfl, Nat.le_of_ble_eq_true rfl, rfl⟩
theorem Encoding.pref (f : Fields) : Encoding.Statement (.pref f) := fun _ => ⟨Nat.le_of_ble_eq_true rfl, Nat.le_of_ble_eq_true rfl, rfl⟩
theorem Encoding.pathfence (f : Fields) : Encoding.Statement (.pathfence f) := fun _ => ⟨Nat.le_of_ble_eq_true rfl, Nat.le_of_ble_eq_true rfl, rfl⟩
theorem Encoding.probe (f : Fields) : Encoding.Statement (.probe f) := fun _ => ⟨Nat.le_of_ble_eq_true rfl, Nat.le_of_ble_eq_true rfl, rfl⟩
theorem Encoding.cwb (f : Fields) : Encoding.Statement (.cwb f) := fun _ => ⟨Nat.le_of_ble_eq_true rfl, Nat.le_of_ble_eq_true rfl, rfl⟩
theorem Encoding.atom (op : AOp) (f : Fields) : Encoding.Statement (.atom op f) := by
  intro _; cases op <;> exact ⟨Nat.le_of_ble_eq_true rfl, Nat.le_of_ble_eq_true rfl, rfl⟩
theorem Encoding.appendRow (f : Fields) : Encoding.Statement (.appendRow f) := fun _ => ⟨Nat.le_of_ble_eq_true rfl, Nat.le_of_ble_eq_true rfl, rfl⟩
theorem Encoding.tailr (f : Fields) : Encoding.Statement (.tailr f) := fun _ => ⟨Nat.le_of_ble_eq_true rfl, Nat.le_of_ble_eq_true rfl, rfl⟩
theorem Encoding.sealPage (f : Fields) : Encoding.Statement (.sealPage f) := fun _ => ⟨Nat.le_of_ble_eq_true rfl, Nat.le_of_ble_eq_true rfl, rfl⟩
theorem Encoding.sealq (f : Fields) : Encoding.Statement (.sealq f) := fun _ => ⟨Nat.le_of_ble_eq_true rfl, Nat.le_of_ble_eq_true rfl, rfl⟩
theorem Encoding.cpy (f : Fields) : Encoding.Statement (.cpy f) := fun _ => ⟨Nat.le_of_ble_eq_true rfl, Nat.le_of_ble_eq_true rfl, rfl⟩
theorem Encoding.cpy2d (f : Fields) : Encoding.Statement (.cpy2d f) := fun _ => ⟨Nat.le_of_ble_eq_true rfl, Nat.le_of_ble_eq_true rfl, rfl⟩
theorem Encoding.gather (f : Fields) : Encoding.Statement (.gather f) := fun _ => ⟨Nat.le_of_ble_eq_true rfl, Nat.le_of_ble_eq_true rfl, rfl⟩
theorem Encoding.scatter (f : Fields) : Encoding.Statement (.scatter f) := fun _ => ⟨Nat.le_of_ble_eq_true rfl, Nat.le_of_ble_eq_true rfl, rfl⟩
theorem Encoding.cfill (f : Fields) : Encoding.Statement (.cfill f) := fun _ => ⟨Nat.le_of_ble_eq_true rfl, Nat.le_of_ble_eq_true rfl, rfl⟩
theorem Encoding.publish (f : Fields) : Encoding.Statement (.publish f) := fun _ => ⟨Nat.le_of_ble_eq_true rfl, Nat.le_of_ble_eq_true rfl, rfl⟩
theorem Encoding.pstat (f : Fields) : Encoding.Statement (.pstat f) := fun _ => ⟨Nat.le_of_ble_eq_true rfl, Nat.le_of_ble_eq_true rfl, rfl⟩
theorem Encoding.gset (f : Fields) : Encoding.Statement (.gset f) := fun _ => ⟨Nat.le_of_ble_eq_true rfl, Nat.le_of_ble_eq_true rfl, rfl⟩
theorem Encoding.garm (f : Fields) : Encoding.Statement (.garm f) := fun _ => ⟨Nat.le_of_ble_eq_true rfl, Nat.le_of_ble_eq_true rfl, rfl⟩
theorem Encoding.sign (f : Fields) : Encoding.Statement (.sign f) := fun _ => ⟨Nat.le_of_ble_eq_true rfl, Nat.le_of_ble_eq_true rfl, rfl⟩
theorem Encoding.gstat (f : Fields) : Encoding.Statement (.gstat f) := fun _ => ⟨Nat.le_of_ble_eq_true rfl, Nat.le_of_ble_eq_true rfl, rfl⟩
theorem Encoding.mmaRr (f : Fields) : Encoding.Statement (.mmaRr f) := fun _ => ⟨Nat.le_of_ble_eq_true rfl, Nat.le_of_ble_eq_true rfl, rfl⟩
theorem Encoding.mmaRs (f : Fields) : Encoding.Statement (.mmaRs f) := fun _ => ⟨Nat.le_of_ble_eq_true rfl, Nat.le_of_ble_eq_true rfl, rfl⟩
theorem Encoding.mmaSr (f : Fields) : Encoding.Statement (.mmaSr f) := fun _ => ⟨Nat.le_of_ble_eq_true rfl, Nat.le_of_ble_eq_true rfl, rfl⟩
theorem Encoding.mmaSs (f : Fields) : Encoding.Statement (.mmaSs f) := fun _ => ⟨Nat.le_of_ble_eq_true rfl, Nat.le_of_ble_eq_true rfl, rfl⟩
theorem Encoding.mzero (f : Fields) : Encoding.Statement (.mzero f) := fun _ => ⟨Nat.le_of_ble_eq_true rfl, Nat.le_of_ble_eq_true rfl, rfl⟩
theorem Encoding.mscale (f : Fields) : Encoding.Statement (.mscale f) := fun _ => ⟨Nat.le_of_ble_eq_true rfl, Nat.le_of_ble_eq_true rfl, rfl⟩
theorem Encoding.mcvt (f : Fields) : Encoding.Statement (.mcvt f) := fun _ => ⟨Nat.le_of_ble_eq_true rfl, Nat.le_of_ble_eq_true rfl, rfl⟩
theorem Encoding.launch (f : Fields) : Encoding.Statement (.launch f) := fun _ => ⟨Nat.le_of_ble_eq_true rfl, Nat.le_of_ble_eq_true rfl, rfl⟩
theorem Encoding.spawn (f : Fields) : Encoding.Statement (.spawn f) := fun _ => ⟨Nat.le_of_ble_eq_true rfl, Nat.le_of_ble_eq_true rfl, rfl⟩
theorem Encoding.phase (f : Fields) : Encoding.Statement (.phase f) := fun _ => ⟨Nat.le_of_ble_eq_true rfl, Nat.le_of_ble_eq_true rfl, rfl⟩
theorem Encoding.taskend (f : Fields) : Encoding.Statement (.taskend f) := fun _ => ⟨Nat.le_of_ble_eq_true rfl, Nat.le_of_ble_eq_true rfl, rfl⟩
theorem Encoding.commit (f : Fields) : Encoding.Statement (.commit f) := fun _ => ⟨Nat.le_of_ble_eq_true rfl, Nat.le_of_ble_eq_true rfl, rfl⟩
theorem Encoding.alloc (f : Fields) : Encoding.Statement (.alloc f) := fun _ => ⟨Nat.le_of_ble_eq_true rfl, Nat.le_of_ble_eq_true rfl, rfl⟩
theorem Encoding.claim (f : Fields) : Encoding.Statement (.claim f) := fun _ => ⟨Nat.le_of_ble_eq_true rfl, Nat.le_of_ble_eq_true rfl, rfl⟩
theorem Encoding.releaseRegs (f : Fields) : Encoding.Statement (.releaseRegs f) := fun _ => ⟨Nat.le_of_ble_eq_true rfl, Nat.le_of_ble_eq_true rfl, rfl⟩
theorem Encoding.ann (op : AOp) (f : Fields) : Encoding.Statement (.ann op f) := by
  intro _; cases op <;> exact ⟨Nat.le_of_ble_eq_true rfl, Nat.le_of_ble_eq_true rfl, rfl⟩
theorem Encoding.helpObj (f : Fields) : Encoding.Statement (.helpObj f) := fun _ => ⟨Nat.le_of_ble_eq_true rfl, Nat.le_of_ble_eq_true rfl, rfl⟩
theorem Encoding.collect (f : Fields) : Encoding.Statement (.collect f) := fun _ => ⟨Nat.le_of_ble_eq_true rfl, Nat.le_of_ble_eq_true rfl, rfl⟩
theorem Encoding.annq (f : Fields) : Encoding.Statement (.annq f) := fun _ => ⟨Nat.le_of_ble_eq_true rfl, Nat.le_of_ble_eq_true rfl, rfl⟩
theorem Encoding.bcas (f : Fields) : Encoding.Statement (.bcas f) := fun _ => ⟨Nat.le_of_ble_eq_true rfl, Nat.le_of_ble_eq_true rfl, rfl⟩
theorem Encoding.trap (f : Fields) : Encoding.Statement (.trap f) := fun _ => ⟨Nat.le_of_ble_eq_true rfl, Nat.le_of_ble_eq_true rfl, rfl⟩
theorem Encoding.trapret (f : Fields) : Encoding.Statement (.trapret f) := fun _ => ⟨Nat.le_of_ble_eq_true rfl, Nat.le_of_ble_eq_true rfl, rfl⟩
theorem Encoding.hwin (f : Fields) : Encoding.Statement (.hwin f) := fun _ => ⟨Nat.le_of_ble_eq_true rfl, Nat.le_of_ble_eq_true rfl, rfl⟩
theorem Encoding.hwrd (f : Fields) : Encoding.Statement (.hwrd f) := fun _ => ⟨Nat.le_of_ble_eq_true rfl, Nat.le_of_ble_eq_true rfl, rfl⟩
theorem Encoding.hwwr (f : Fields) : Encoding.Statement (.hwwr f) := fun _ => ⟨Nat.le_of_ble_eq_true rfl, Nat.le_of_ble_eq_true rfl, rfl⟩
theorem Encoding.dispose (f : Fields) : Encoding.Statement (.dispose f) := fun _ => ⟨Nat.le_of_ble_eq_true rfl, Nat.le_of_ble_eq_true rfl, rfl⟩
theorem Encoding.ctxsave (f : Fields) : Encoding.Statement (.ctxsave f) := fun _ => ⟨Nat.le_of_ble_eq_true rfl, Nat.le_of_ble_eq_true rfl, rfl⟩
theorem Encoding.ctxload (f : Fields) : Encoding.Statement (.ctxload f) := fun _ => ⟨Nat.le_of_ble_eq_true rfl, Nat.le_of_ble_eq_true rfl, rfl⟩
theorem Encoding.tlbinv (f : Fields) : Encoding.Statement (.tlbinv f) := fun _ => ⟨Nat.le_of_ble_eq_true rfl, Nat.le_of_ble_eq_true rfl, rfl⟩
theorem Encoding.clauseStart (a : Agent) : Encoding.Statement (.clauseStart a) := rfl
theorem Encoding.parkqTimeout (a : Agent) : Encoding.Statement (.parkqTimeout a) := rfl
theorem Encoding.clauseBoundary (team g q : Nat) : Encoding.Statement (.clauseBoundary team g q) := rfl
theorem Encoding.reconvHoldTimeout (a : Agent) : Encoding.Statement (.reconvHoldTimeout a) := rfl
theorem Encoding.binDraw (team bin : Nat) : Encoding.Statement (.binDraw team bin) := rfl
theorem Encoding.binAgeExpiry (team bin : Nat) : Encoding.Statement (.binAgeExpiry team bin) := rfl
theorem Encoding.sleeptoWake (a : Agent) : Encoding.Statement (.sleeptoWake a) := rfl
theorem Encoding.queueDelivery (core : Nat) : Encoding.Statement (.queueDelivery core) := rfl
theorem Encoding.gangAgePromotion (a : Agent) : Encoding.Statement (.gangAgePromotion a) := rfl
theorem Encoding.hardwarePrefetch (core team va : Nat) : Encoding.Statement (.hardwarePrefetch core team va) := rfl
theorem Encoding.speculativeFetch (team va : Nat) : Encoding.Statement (.speculativeFetch team va) := rfl
theorem Encoding.rebaseSweepComplete (slice : Nat) : Encoding.Statement (.rebaseSweepComplete slice) := rfl
theorem Encoding.ptsTick (cycles : Nat) : Encoding.Statement (.ptsTick cycles) := rfl
theorem Encoding.annWalkerApply (part ctx idx : Nat) : Encoding.Statement (.annWalkerApply part ctx idx) := rfl
theorem Encoding.loadReturn (op : Nat) : Encoding.Statement (.loadReturn op) := rfl
theorem Encoding.storeCompletion (op : Nat) : Encoding.Statement (.storeCompletion op) := rfl
theorem Encoding.atomicReturn (op : Nat) : Encoding.Statement (.atomicReturn op) := rfl
theorem Encoding.pathfenceCompletion (op : Nat) : Encoding.Statement (.pathfenceCompletion op) := rfl
theorem Encoding.cwbCompletion (op : Nat) : Encoding.Statement (.cwbCompletion op) := rfl
theorem Encoding.appendGrant (op : Nat) : Encoding.Statement (.appendGrant op) := rfl
theorem Encoding.reservationComplete (part res : Nat) : Encoding.Statement (.reservationComplete part res) := rfl
theorem Encoding.sealCompletion (op : Nat) : Encoding.Statement (.sealCompletion op) := rfl
theorem Encoding.copyCommandStart (part : Nat) : Encoding.Statement (.copyCommandStart part) := rfl
theorem Encoding.copyLineWrite (part cmd line : Nat) : Encoding.Statement (.copyLineWrite part cmd line) := rfl
theorem Encoding.shadowWriteRelease (part cmd : Nat) : Encoding.Statement (.shadowWriteRelease part cmd) := rfl
theorem Encoding.copyCommandCompletion (part cmd : Nat) : Encoding.Statement (.copyCommandCompletion part cmd) := rfl
theorem Encoding.promiseMiss (part cmd : Nat) : Encoding.Statement (.promiseMiss part cmd) := rfl
theorem Encoding.publishEvent (part cmd : Nat) : Encoding.Statement (.publishEvent part cmd) := rfl
theorem Encoding.matrixCommandExecute (core : Nat) : Encoding.Statement (.matrixCommandExecute core) := rfl
theorem Encoding.matrixCommandCompletion (core : Nat) : Encoding.Statement (.matrixCommandCompletion core) := rfl
theorem Encoding.scratchBankRelease (core : Nat) : Encoding.Statement (.scratchBankRelease core) := rfl
theorem Encoding.launchGrant (launch : Nat) : Encoding.Statement (.launchGrant launch) := rfl
theorem Encoding.residencyAnswerPoll (part slot : Nat) : Encoding.Statement (.residencyAnswerPoll part slot) := rfl
theorem Encoding.leaseEnd (launch : Nat) : Encoding.Statement (.leaseEnd launch) := rfl
theorem Encoding.taskStart (part core : Nat) : Encoding.Statement (.taskStart part core) := rfl
theorem Encoding.allowanceExpiry (team : Nat) : Encoding.Statement (.allowanceExpiry team) := rfl
theorem Encoding.groupArrival (team g : Nat) : Encoding.Statement (.groupArrival team g) := rfl
theorem Encoding.taskEnd (team : Nat) : Encoding.Statement (.taskEnd team) := rfl
theorem Encoding.handlerStart (core : Nat) : Encoding.Statement (.handlerStart core) := rfl
theorem Encoding.sliceExpiry (team : Nat) : Encoding.Statement (.sliceExpiry team) := rfl
theorem Encoding.preemptSave (team : Nat) : Encoding.Statement (.preemptSave team) := rfl
theorem Encoding.forcedSaveTimeout (team : Nat) : Encoding.Statement (.forcedSaveTimeout team) := rfl
theorem Encoding.teamResume (part core : Nat) : Encoding.Statement (.teamResume part core) := rfl
theorem Encoding.ctxsaveComplete (op : Nat) : Encoding.Statement (.ctxsaveComplete op) := rfl
theorem Encoding.startPart (part : Nat) : Encoding.Statement (.startPart part) := rfl
theorem Encoding.stopPart (part : Nat) : Encoding.Statement (.stopPart part) := rfl
theorem Encoding.stopComplete (part : Nat) : Encoding.Statement (.stopComplete part) := rfl
theorem Encoding.resetPart (part : Nat) : Encoding.Statement (.resetPart part) := rfl
theorem Encoding.rollback (part ctx : Nat) : Encoding.Statement (.rollback part ctx) := rfl
theorem Encoding.clearErr (part : Nat) : Encoding.Statement (.clearErr part) := rfl
theorem Encoding.lsubdescWrite (part size : Nat) (value : DWord) : Encoding.Statement (.lsubdescWrite part size value) := rfl
theorem Encoding.freedescWrite (part size : Nat) (value : DWord) : Encoding.Statement (.freedescWrite part size value) := rfl
theorem Encoding.freeServe (part : Nat) : Encoding.Statement (.freeServe part) := rfl
theorem Encoding.registerWrite (part offset size : Nat) (value : DWord) : Encoding.Statement (.registerWrite part offset size value) := rfl
theorem Encoding.assign (cfg : List AssignPart) : Encoding.Statement (.assign cfg) := rfl
theorem Encoding.hostMemRead (part d n : Nat) : Encoding.Statement (.hostMemRead part d n) := rfl
theorem Encoding.hostMemWrite (part d : Nat) (bytes : List Byte) : Encoding.Statement (.hostMemWrite part d bytes) := rfl
theorem Encoding.hostSnoop (part line : Nat) (kind : Snoop) (bytes : List Byte) : Encoding.Statement (.hostSnoop part line kind bytes) := rfl
theorem Encoding.peerAccessServe (part peerId peerPart o n : Nat) (req : PeerReq) : Encoding.Statement (.peerAccessServe part peerId peerPart o n req) := rfl
theorem Encoding.getVersion (ld : Option Nat) : Encoding.Statement (.getVersion ld) := rfl
theorem Encoding.getCapabilities (ld : Option Nat) : Encoding.Statement (.getCapabilities ld) := rfl
theorem Encoding.negotiateAlgorithms (ld : Option Nat) : Encoding.Statement (.negotiateAlgorithms ld) := rfl
theorem Encoding.getDigests (ld : Option Nat) : Encoding.Statement (.getDigests ld) := rfl
theorem Encoding.getCertificate (ld : Option Nat) : Encoding.Statement (.getCertificate ld) := rfl
theorem Encoding.challenge (ld : Option Nat) (nonce : Nat) : Encoding.Statement (.challenge ld nonce) := rfl
theorem Encoding.getMeasurements (ld : Option Nat) (index nonce : Nat) : Encoding.Statement (.getMeasurements ld index nonce) := rfl
theorem Encoding.errlog (ld : Option Nat) (seq : Nat) : Encoding.Statement (.errlog ld seq) := rfl
theorem Encoding.firmwareImageLoad (digest sig version : Nat) : Encoding.Statement (.firmwareImageLoad digest sig version) := rfl
theorem Encoding.patrolScrub (stack : Nat) : Encoding.Statement (.patrolScrub stack) := rfl
theorem Encoding.dieFailure (die : Nat) : Encoding.Statement (.dieFailure die) := rfl
theorem Encoding.frzInput : Encoding.Statement .frzInput := rfl
theorem Encoding.freeze : Encoding.Statement .freeze := rfl
theorem Encoding.debugToken (digest sig : Nat) : Encoding.Statement (.debugToken digest sig) := rfl
theorem Encoding.instrumentRead (which : Instrument) (arg : Nat) : Encoding.Statement (.instrumentRead which arg) := rfl
theorem Encoding.powerOn (untrained : List Nat) : Encoding.Statement (.powerOn untrained) := rfl
theorem Encoding.msixVectorUnmask (part vector : Nat) : Encoding.Statement (.msixVectorUnmask part vector) := rfl
theorem Encoding.axeelPortDown (port : Nat) : Encoding.Statement (.axeelPortDown port) := rfl

end Sys2Proof.Laws
end

