-- ==== Sys2Proof/Laws/Upsets.lean ====
section
/-!
SUPPORT. What the errors in clean copies, translations and hub state leave when they are met.
-/

namespace Sys2Proof.Machine

variable (s : State)

/-- Everything that such an error leaves. -/
def State.SameButCopies (s t : State) : Prop :=
  t.cyc = s.cyc ∧ t.mem = s.mem ∧ t.teams = s.teams ∧ t.upsets = s.upsets ∧ ∀ c, (t.core c).pts = (s.core c).pts

theorem State.SameButCopies.trans {s t u : State} (h : s.SameButCopies t) (k : t.SameButCopies u) : s.SameButCopies u :=
  ⟨k.1.trans h.1, k.2.1.trans h.2.1, k.2.2.1.trans h.2.2.1, k.2.2.2.1.trans h.2.2.2.1,
    fun c => (k.2.2.2.2 c).trans (h.2.2.2.2 c)⟩

theorem State.errRec_same (part : Option Nat) (kind array paddr unit : Nat) (ctx : Option Nat) :
    s.SameButCopies (s.errRec part kind array paddr unit ctx) := by
  unfold State.errRec
  cases part with
  | none => exact ⟨rfl, rfl, rfl, rfl, fun _ => rfl⟩
  | some j =>
    simp only [State.vector]
    repeat (first | split | exact ⟨rfl, rfl, rfl, rfl, fun _ => rfl⟩)

theorem State.updCore_same (c : Nat) (f : Core → Core) (h : ∀ k, (f k).pts = k.pts) :
    s.SameButCopies (s.updCore c f) := by
  refine ⟨rfl, rfl, rfl, rfl, fun d => ?_⟩
  rcases Decidable.em (d = c) with rfl | hd
  · rw [State.core_updCore_self]; exact h _
  · rw [State.core_updCore_ne s f hd]

theorem State.dropCopy_same (u : Upset) : s.SameButCopies (s.dropCopy u) := by
  cases u with
  | copy c line => exact State.SameButCopies.trans (s.updCore_same c _ fun _ => by rfl) (State.errRec_same _ _ _ _ _ _ _)
  | code c line => exact State.SameButCopies.trans (s.updCore_same c _ fun _ => by rfl) (State.errRec_same _ _ _ _ _ _ _)
  | shared j line =>
    refine State.SameButCopies.trans ?_ (State.errRec_same _ _ _ _ _ _ _)
    cases s.partOfTwelfth j <;> exact ⟨rfl, rfl, rfl, rfl, fun _ => rfl⟩
  | leaf c va => exact State.SameButCopies.trans (s.updCore_same c _ fun _ => by rfl) (State.errRec_same _ _ _ _ _ _ _)
  | _ => exact ⟨rfl, rfl, rfl, rfl, fun _ => rfl⟩

theorem State.foldl_dropCopy_same (l : List Upset) : s.SameButCopies (l.foldl State.dropCopy s) := by
  induction l generalizing s with
  | nil => exact ⟨rfl, rfl, rfl, rfl, fun _ => rfl⟩
  | cons u l ih => exact (s.dropCopy_same u).trans (ih _)

/-- WHAT MEETING THEM LEAVES: time, memory, teams and logical clocks; the other errors still wait. -/
theorem State.meetQuiet_same :
    s.meetQuiet.cyc = s.cyc ∧ s.meetQuiet.mem = s.mem ∧ s.meetQuiet.teams = s.teams ∧
      s.meetQuiet.upsets = s.upsets.filter (fun u => !u.quiet) ∧ ∀ c, (s.meetQuiet.core c).pts = (s.core c).pts :=
  State.foldl_dropCopy_same { s with upsets := s.upsets.filter fun u => !u.quiet } (s.upsets.filter Upset.quiet)

/-- An error in hub state freezes the module (R481). -/
theorem State.meetQuiet_hub (h : s.upsets = [.hub]) : s.meetQuiet = ({ s with upsets := [] } : State).freezeBy 3 := by
  unfold State.meetQuiet
  rw [h]
  rfl

/-- Nothing is merged where no directory entry is in error. -/
theorem meetDirectory_none (h : ∀ l, Upset.dir l ∉ s.upsets) : meetDirectory s = .ok ((), s) := by
  have e : s.upsets.filterMap Upset.dirLine = [] := by
    rw [List.filterMap_eq_nil_iff]
    intro u hu
    cases u <;> first | rfl | exact absurd hu (h _)
  unfold meetDirectory
  rw [e]
  rfl

/-- PTS_TICK where no directory entry is in error: time passes, and the other errors are met. -/
theorem execPtsTick_quiet (n : Nat) (h : ∀ l, Upset.dir l ∉ s.upsets) :
    execPtsTick n s = .next (s.tick n).meetQuiet := by
  have e : meetDirectory (s.tick n).meetQuiet = .ok ((), (s.tick n).meetQuiet) := by
    refine meetDirectory_none _ fun l hl => ?_
    rw [(State.meetQuiet_same _).2.2.2.1] at hl
    exact h l (List.mem_filter.mp hl).1
  show (match meetDirectory (s.tick n).meetQuiet with
    | .ok (_, t) => Host.Outcome.next t | .error _ => .next s) = _
  rw [e]

end Sys2Proof.Machine
end

