-- ==== Sys2Proof/Tests/Lab.lean ====
section
/-!
SUPPORT. The small states and operands of the tests, and the checks that a test evaluates: whether an
instruction is executed in a state, and what a computation answers.
-/

namespace Sys2Proof.Tests

open Sys2Proof Sys2Proof.Machine Sys2Proof.Claims

/-! ## Checks -/

/-- Whether a computation answers, and its answer passes a test. -/
def okB {α : Type} (r : Except Stop (α × State)) (p : α → State → Bool) : Bool :=
  match r with
  | .ok (a, t) => p a t
  | .error _ => false

/-- Whether an outcome is a next state that passes a test. -/
def nextB (o : Host.Outcome State Fault Refusal) (p : State → Bool) : Bool :=
  match o with
  | .next t => p t
  | _ => false

/-- Whether an instruction is executed in a state, and its issuer, form and fields pass a test. -/
def issueB (i : Instr) (s : State) (p : Who → Form → Fields → Bool) : Bool :=
  match s.who? s.cur, form i, fields i with
  | some w₀, some fm, some f =>
    let w := s.issuer i w₀ f
    !illegalUse s w i fm f && !s.held w fm f && w.takesPart && (channelChecks s w fm f).isNone && p w fm f
  | _, _, _ => false

theorem okB_spec {α : Type} {r : Except Stop (α × State)} {p : α → State → Bool} (h : okB r p = true) :
    ∃ a t, r = .ok (a, t) ∧ p a t = true := by
  match r, h with
  | .ok (a, t), h => exact ⟨a, t, rfl, h⟩

theorem nextB_spec {o : Host.Outcome State Fault Refusal} {p : State → Bool} (h : nextB o p = true) :
    ∃ t, o = .next t ∧ p t = true := by
  match o, h with
  | .next t, h => exact ⟨t, rfl, h⟩

/-- The check means the premise of the statements. -/
theorem issueB_spec {i : Instr} {s : State} {p : Who → Form → Fields → Bool} (h : issueB i s p = true) :
    ∃ w fm f, Issues i s w fm f ∧ p w fm f = true := by
  unfold issueB at h
  split at h
  · rename_i w₀ fm f hw hm hf
    simp only [Bool.and_eq_true, Bool.not_eq_true', Option.isNone_iff_eq_none] at h
    obtain ⟨⟨⟨⟨h1, h2⟩, h3⟩, h4⟩, h5⟩ := h
    exact ⟨_, fm, f, ⟨⟨w₀, hw, rfl⟩, hm, hf, h1, h2, h3, h4⟩, h5⟩
  · cases h

/-- One source's values, and the state after the reads. -/
def src1 (r : Except Stop (List (Nat → DWord) × State)) (p : (Nat → DWord) → State → Bool) : Bool :=
  okB r fun l t => match l with | [a] => p a t | _ => false
/-- Two sources' values. -/
def src2 (r : Except Stop (List (Nat → DWord) × State)) (p : (Nat → DWord) → (Nat → DWord) → State → Bool) : Bool :=
  okB r fun l t => match l with | [a, b] => p a b t | _ => false
/-- Three sources' values. -/
def src3 (r : Except Stop (List (Nat → DWord) × State))
    (p : (Nat → DWord) → (Nat → DWord) → (Nat → DWord) → State → Bool) : Bool :=
  okB r fun l t => match l with | [a, b, c] => p a b c t | _ => false

/-! ## Operands -/

/-- Fields with the always-true guard. -/
def fl (d a b : Opnd) (t : Ty := .i8) (m : BitVec 3 := 0) (im : BitVec 32 := 0) : Fields :=
  ⟨false, 15, d, a, b, t, false, false, false, .near, m, im⟩

/-- The fields with the guard p1, which is true in lane 0 alone. -/
def only (f : Fields) : Fields := { f with pred := 1 }

/-- v8, v2 and v4 under a TYPE. -/
def r3 (t : Ty) : Fields := fl (.v 8) (.v 2) (.v 4) t
/-- v8 and v2 under a TYPE. -/
def r2 (t : Ty) : Fields := fl (.v 8) (.v 2) (.v 0) t
/-- v8, v2, v4 and v6 under a TYPE. -/
def r4 (t : Ty) : Fields := fl (.v 8) (.v 2) (.v 4) t 0 6
/-- No operand. -/
def none' : Fields := fl (.v 0) (.v 0) (.v 0)

/-! ## A small machine -/

/-- A leaf of a class at a frame, readable and writable, with A set. -/
def leaf (c frame : Nat) : DWord := w64 (c * 2 ^ 61 + frame + 64 + 16 + 8 + 3)

/-- Two lanes at slot 1 of the clause at address 0; p1 is true in lane 0 alone. -/
def labGroup (regs : SMap Word) : Group :=
  let g := Group.start 0 512 0 3
  let l (p : BitVec 15) : Lane := { Lane.init with pc := 12, base := 0, st := .live, v := regs, p := p }
  { g with lanes := [l 2, l 0] ++ g.lanes.drop 2,
           quads := [{ g.quad 0 with latch := some atSlotOne, gang := 0 }] ++ g.quads.drop 1 }

/-- The front context at slot 1 of the clause at address 0. -/
def labFront (ks : SMap DWord) : Prog := { placedFront with k := ks }

/-- Ranges of code (r, x) and of data (r, w); pinned pages of class 5, 0, 2, 3 and 6. -/
def labLaunch : Launch :=
  { placedLaunch with
    ranges := [⟨0, 0x10000, 5⟩, ⟨0x100000, 0x40000, 3⟩]
    pins := [⟨0, 0x10000, codeLeaf 0, 0⟩, ⟨0x100000, 0x10000, leaf 0 0x100000, 0⟩, ⟨0x110000, 0x10000, leaf 2 0x110000, 0⟩,
      ⟨0x120000, 0x10000, leaf 3 0x120000, 0⟩, ⟨0x130000, 0x10000, leaf 6 Config.hostBase, 0⟩] }

/-- A life with bank 16 and entries 0 (R and W of FIFO 0), 1 (W alone of FIFO 1), 2 (of no FIFO) and 3 (R of
FIFO 1). -/
def labLife : Life :=
  { placedLife 3 with
    banks := [16], scratch := 32768, frames := [0x400000],
    cap := [(0, ⟨true, true, true, 15, 0, 4, 0⟩), (1, ⟨true, false, true, 15, 1, 4, 0⟩), (2, ⟨true, true, true, 15, 9, 4, 0⟩),
      (3, ⟨true, true, false, 15, 1, 4, 0⟩)] }

/-- FIFO 0 with one entry and FIFO 1 empty; gong 1 of the team, armed, and gong 2 of another life. -/
def labCore : Core :=
  { Core.init with
    pts := 7
    fifos := [(0, ⟨2, 20, 0, 4, 0, 0, [⟨List.replicate 32 9, 3, 5, 2, 0, 0⟩]⟩), (1, ⟨2, 20, 4, 4, 0, 0, []⟩)]
    gongs := [(1, ⟨2, true, 0, 4, 0, 0⟩), (2, ⟨9, true, 0, 4, 0, 0⟩), (3, ⟨2, false, 0, 4, 0, 0⟩)]
    nextTok := 5 }

/-- A running partition of one twelfth with two contexts. -/
def labPart : Part :=
  { Part.blank 1 with
    pstate := 1
    cfg := { PCfg.blank with
      nctx := 2, ctxtab := 0x200000, astab := 0x300000, taskn := 8, taskarea := 0x380000, cemask := 1, hsize := 0x10000,
      resqn := 2, resq := 0x3F0000, fentry := 0x30000, fpooln := 16, fpool := 0x500000 } }

/-- A committed team of one group and a front context. -/
def labTeam (regs : SMap Word) (ks : SMap DWord) : Team :=
  { placedTeam 2 with mode := .committed, groups := [(0, labGroup regs)], front := labFront ks }

/-- Context 0 is valid; its table of announcements has two free records; frame 0x120000 may take 64 KiB. -/
def labMem (s : State) : State :=
  ((((((((s.setAppendRec 0 labPart 0 ⟨65536, 65536, 0, 2, true⟩).setLe 0x200000 1 1).setLe (0x200000 + 40) 8 0x220000).setLe (0x200000 + 48) 8 0x210000).setLe
    (0x210000) 2 1).setLe (0x210000 + 2) 2 2).setLe (0x210000 + 4) 2 2).setLe (0x210000 + 64 + 32) 8 2).setLe (0x300000 + 16 * 18 + 2) 2 1024

/-- The machine with given lane and front registers, lane 0 of the group about to issue. -/
def lab (regs : SMap Word) (ks : SMap DWord := []) : State :=
  labMem { State.reset with
    parts := [(0, labPart)], cores := [(0, labCore)], teams := [(1, labTeam regs ks)], lives := [(2, labLife)],
    launches := [(3, labLaunch)], serial := 4, cur := .lane 1 0 0 }

/-- The same with the front context about to issue. -/
def labF (ks : SMap DWord) : State := { lab [] ks with cur := .front 1 }

/-- The fault record of the handler tests. -/
def labFault : FaultRec := ⟨1, 0, true, 0, 0, 0, 12, 0, [], 0, 3, 24, 0, false⟩

/-- The same with a handler at a level about to issue; the team is stopped and waits for it. -/
def labH (lv : ExecLevel) (regs : SMap Word) (below : Option (Group × FaultRec × Nat × Option Nat) := none) : State :=
  let s := lab []
  { (s.updCore 0 fun k => { k with handler := some ⟨2, lv, labGroup regs, 1, 0, some 4, none, below⟩ }).updTeam 1 fun x =>
      { x with run := .halting, fault := some labFault, token := some 4 } with cur := .handler 0 0 }

/-- The same machine in its team's other modes and settings. -/
def withTeam (s : State) (f : Team → Team) : State := s.updTeam 1 f

end Sys2Proof.Tests
end

