-- ==== Sys2Proof/Tests/Effects.lean ====
section
/-!
SUPPORT. Tests of one step of an instruction: results worked out by hand from the rule cited. Lanes 0 and 1 hold the
same registers; p1 is true in lane 0 alone.
-/

set_option Elab.async false

namespace Sys2Proof.Tests

open Sys2Proof Sys2Proof.Machine Sys2Proof.Claims

/-- Lane i of the group that has issued. -/
def laneAt (t : State) (i : Nat) : Option Lane := (t.group? t.cur).map fun g => g.lane i

/-- A register of lane 0 after one instruction, where it has executed. -/
def v0 (i : Instr) (regs : SMap Word) (n : Nat := 8) : Option Word :=
  match exec i (lab regs) with
  | .next t =>
    if (t.team? 1).bind (·.fault) = none then (laneAt t 0).map (·.reg n) else none
  | _ => none

/-- Each instruction over v2, v4 and v6, and what it leaves in v8 of lane 0. -/
def leaves (l : List (Instr × Word × Word × Word × Word)) : Bool :=
  l.all fun e => v0 e.1 [(2, e.2.1), (4, e.2.2.1), (6, e.2.2.2.1)] = some e.2.2.2.2

/-- R246: wrap, saturation, the high half, the sum that is wider than its operands. -/
theorem test_arithmetic : leaves [
    (.add (r3 .i32), 0x7FFFFFFF, 1, 0, 0x80000000), (.add { r3 .i32 with mod := 1 }, 0x7FFFFFFF, 1, 0, 0x7FFFFFFF),
    (.add { r3 .n32 with mod := 1 }, 0xFFFFFFFF, 2, 0, 0xFFFFFFFF), (.sub { r3 .n32 with mod := 1 }, 1, 2, 0, 0),
    (.sub (r3 .i32), 1, 2, 0, 0xFFFFFFFF), (.mul (r3 .n32), 0x10001, 0x10001, 0, 0x20001),
    (.mulhi (r3 .n32), 0xFFFFFFFF, 0xFFFFFFFF, 0, 0xFFFFFFFE), (.mulhi (r3 .i32), 0xFFFFFFFF, 1, 0, 0xFFFFFFFF),
    (.mad (r4 .i32), 3, 5, 7, 22), (.mad { r4 .i32 with mod := 1 }, 0x10000, 0x10000, 0, 0x7FFFFFFF),
    (.madhi (r4 .n32), 0xFFFFFFFF, 0xFFFFFFFF, 0xFFFFFFFF, 0xFFFFFFFF)] = true := by decide +kernel
/-- R246: order by sign, the absolute value of the least number. -/
theorem test_order : leaves [
    (.min (r3 .i32), 0xFFFFFFFF, 1, 0, 0xFFFFFFFF), (.min (r3 .n32), 0xFFFFFFFF, 1, 0, 1), (.max (r3 .i32), 0xFFFFFFFF, 1, 0, 1),
    (.max (r3 .n32), 0xFFFFFFFF, 1, 0, 0xFFFFFFFF), (.abs (r2 .i32), 0x80000000, 0, 0, 0x80000000),
    (.abs { r2 .i32 with mod := 1 }, 0x80000000, 0, 0, 0x7FFFFFFF), (.abs (r2 .i32), 0xFFFFFFFB, 0, 0, 5),
    (.neg (r2 .i32), 1, 0, 0, 0xFFFFFFFF)] = true := by decide +kernel
/-- R248 and R249: a shift of the width or more, `sar` beyond it, `rol` modulo it. -/
theorem test_logic : leaves [
    (.andb (r3 .n32), 0xFF00FF00, 0x0FF00FF0, 0, 0x0F000F00), (.andn (r3 .n32), 0xFF, 0x0F, 0, 0xF0),
    (.orb (r3 .n32), 0xF0, 0x0F, 0, 0xFF), (.xorb (r3 .n32), 0xFF, 0x0F, 0, 0xF0), (.notb (r2 .n32), 0xFFFF0000, 0, 0, 0xFFFF),
    (.shl (r3 .n32), 1, 31, 0, 0x80000000), (.shl (r3 .n32), 1, 32, 0, 0), (.shr (r3 .n32), 0x80000000, 31, 0, 1),
    (.shr (r3 .n32), 0x80000000, 0x100, 0, 0), (.sar (r3 .i32), 0x80000000, 40, 0, 0xFFFFFFFF),
    (.rol (r3 .n32), 0x80000001, 33, 0, 3)] = true := by decide +kernel
/-- R250: fields beyond the top, counts of zero, the bytes of `bperm`. -/
theorem test_bits : leaves [
    (.bfx (r4 .i32), 0xF0, 4, 4, 0xFFFFFFFF), (.bfx (r4 .n32), 0xF0, 4, 4, 15), (.bfx (r4 .i32), 0x80000000, 28, 8, 0xFFFFFFF8),
    (.bfx (r4 .n32), 0xFFFFFFFF, 0, 0, 0), (.bfi (r4 .n32), 0xFFFFFFFF, 0, 0x0804, 0xFFFFF00F), (.popc (r2 .n32), 0xF0F0F0F0, 0, 0, 16),
    (.clz (r2 .n32), 0, 0, 0, 32), (.clz (r2 .n32), 1, 0, 0, 31), (.ctz (r2 .n32), 0, 0, 0, 32), (.ctz (r2 .n32), 8, 0, 0, 3),
    (.brev (r2 .n32), 1, 0, 0, 0x80000000), (.bperm (r3 .n32), 0x807F0281, 0x8740, 0, 0x00FFFF81)] = true := by decide +kernel
/-- R251 to R254, R255, R256. -/
theorem test_select : leaves [
    (.sel (r4 .n32), 7, 9, 0, 9), (.sel (r4 .n32), 7, 9, 2, 7), (.mov (r2 .n32), 0xABCD, 0, 0, 0xABCD),
    (.movi (fl (.v 8) (.v 0) (.v 0) .i8 0 0x1234), 0, 0, 0, 0x1234), (.setp (fl (.v 8) (.v 2) (.v 4) .i32 2), 0xFFFFFFFF, 0, 0, 1),
    (.setp (fl (.v 8) (.v 2) (.v 4) .n32 2), 0xFFFFFFFF, 0, 0, 0), (.lea (fl (.v 8) (.v 2) (.immS 255)), 0x100, 0, 0, 0xFF),
    (.srd (fl (.v 8) (.v 2) (.v 0)), 256, 0, 0, 0)] = true := by decide +kernel
/-- R253: p1 is true and p2 false in lane 0; p15 stays true. -/
theorem test_predicates : ([(Instr.pand (fl (.p 3) (.p 1) (.p 2)), false), (.por (fl (.p 3) (.p 1) (.p 2)), true),
    (.pxor (fl (.p 3) (.p 1) (.p 15)), false), (.pnot (fl (.p 3) (.p 2) (.v 0)), true)].all fun e =>
      nextB (exec e.1 (lab [])) fun t => decide ((laneAt t 0).map (·.pred 3) = some e.2)) = true ∧
    nextB (exec (.pnot (fl (.p 15) (.p 1) (.v 0))) (lab [])) (fun t =>
      decide ((laneAt t 0).map (·.pred 15) = some true)) = true := by decide +kernel
/-- R247: the carry comes out in p13. -/
theorem test_carry : nextB (exec (.addc (r3 .n32)) (lab [(2, 0xFFFFFFFF), (4, 1)])) (fun t =>
    decide ((laneAt t 0).map (fun l => (l.reg 8, l.pred 13)) = some (0, true))) = true := by decide +kernel
/-- R287 to R293 in f32: rounding, NaN, signed zero, an infinity. -/
theorem test_float : leaves [
    (.fadd (r3 .f32), 0x3F800000, 0x40000000, 0, 0x40400000), (.fadd (r3 .f32), 0x3F800000, 0x33800000, 0, 0x3F800000),
    (.fadd { r3 .f32 with mod := 3 }, 0x3F800000, 0x33800000, 0, 0x3F800001),
    (.fsub (r3 .f32), 0x3F800000, 0x3F800000, 0, 0), (.fsub { r3 .f32 with mod := 2 }, 0x3F800000, 0x3F800000, 0, 0x80000000),
    (.fmul (r3 .f32), 0x40400000, 0xC0000000, 0, 0xC0C00000), (.ffma (r4 .f32), 0x40000000, 0x40400000, 0xBF800000, 0x40A00000),
    (.fmin (r3 .f32), 0x7FC00000, 0x3F800000, 0, 0x3F800000), (.fmax (r3 .f32), 0x3F800000, 0xBF800000, 0, 0x3F800000),
    (.fneg (r2 .f32), 0x3F800000, 0, 0, 0xBF800000), (.fsqrt (r2 .f32), 0x40800000, 0, 0, 0x40000000),
    (.frnd (r2 .f32), 0x40200000, 0, 0, 0x40000000), (.fscale (r3 .f32), 0x3F800000, 3, 0, 0x41000000),
    (.fadd (r3 .h2), 0x40003C00, 0x3C003C00, 0, 0x42004000)] = true := by decide +kernel
/-- R273 to R276: 2.5 to an integer, to f16, saturation; a block's scale goes up by 3. -/
theorem test_convert : leaves [
    (.cvt .f32 (r2 .i32), 0x40200000, 0, 0, 2), (.cvt .f32 (r2 .f16), 0x40200000, 0, 0, 0x4100),
    (.cvt .i32 (r2 .f32), 0xFFFFFFFF, 0, 0, 0xBF800000), (.cvt .f32 { r2 .n8 with mod := 4 }, 0x44800000, 0, 0, 255),
    (.bscale (r3 .i8), 0x7F05, 3, 0, 0x8205), (.bscale (r3 .i8), 0xFF05, 3, 0, 0xFF05)] = true := by decide +kernel
/-- R297 to R301: lanes 0 and 1 take part. -/
theorem test_exchange : leaves [
    (.shfl (fl (.v 8) (.v 2) (.immS 1) .n32 3), 7, 0, 0, 7), (.ballot (r2 .i8), 1, 0, 0, 3), (.vote { r2 .i8 with mod := 0 }, 0, 0, 0, 0),
    (.vote { r2 .i8 with mod := 2 }, 0, 0, 0, 1), (.redadd (r2 .i32), 5, 0, 0, 10), (.redmax (r2 .i32), 0xFFFFFFFF, 0, 0, 0xFFFFFFFF),
    (.scan { r2 .i32 with mod := 1 }, 5, 0, 0, 0), (.scan (r2 .i32), 5, 0, 0, 5)] = true := by decide +kernel
/-- R17: a guard that is false in lane 1 leaves its register. -/
theorem test_guard : nextB (exec (.add (only (r3 .n32))) (lab [(2, 4), (4, 5)])) (fun t =>
    decide ((laneAt t 0).map (·.reg 8) = some 9 ∧ (laneAt t 1).map (·.reg 8) = some 0)) = true := by decide +kernel

end Sys2Proof.Tests
end

