-- ==== Sys2Proof/Tests/Slice0.lean ====
section
/-!
SUPPORT. Tests of the encodings: for each check of R51 and R31 a term or a word that it refuses, and for every
instruction a word written out from the tables of R16, R18, R27 and R48, which decodes to it.
-/

namespace Sys2Proof.Tests

open Sys2Proof Sys2Proof.Machine

/-! ## Ill-formed terms -/

/-- A TYPE outside the form's set (R27): `add` takes no f32. -/
theorem test_bad_type : (Instr.add (fl (.v 3) (.v 1) (.v 2) .f32)).wellFormed = false := by decide
/-- A MOD outside the form's set (R46): `mul` takes MOD 0 alone, and `setp` none above 5. -/
theorem test_bad_mod : (Instr.mul (fl (.v 3) (.v 1) (.v 2) .i32 1)).wellFormed = false ∧
    (Instr.setp (fl (.p 1) (.v 1) (.v 2) .i32 6)).wellFormed = false := by decide
/-- A nonzero CACHE on a form that is not M (R29); a load takes one. -/
theorem test_bad_cache : (Instr.add { fl (.v 3) (.v 1) (.v 2) .i32 with cache := .far }).wellFormed = false ∧
    (Instr.ld { fl (.v 3) (.v 2) (.immS 0) .i32 with cache := .far }).wellFormed = true := by decide
/-- A class that the entry does not admit (R18 to R21): a gong in `add`, an immediate as a third source, an immediate
as a destination. -/
theorem test_bad_operand : (Instr.add (fl (.v 3) (.g 1) (.v 2) .i32)).wellFormed = false ∧
    (Instr.mad (fl (.v 3) (.v 1) (.v 2) .i32 0 0x600)).wellFormed = false ∧
    (Instr.add (fl (.immS 1) (.v 1) (.v 2) .i32)).wellFormed = false := by decide
/-- An odd index for a 64-bit operand (R22), and a block that does not start at a multiple of its registers. -/
theorem test_bad_pair : (Instr.add (fl (.v 3) (.v 2) (.v 4) .i64)).wellFormed = false ∧
    (Instr.add (fl (.v 4) (.v 2) (.v 5) .n64)).wellFormed = false ∧
    (Instr.bunpack (fl (.v 2) (.v 1) (.immS 3) .f32)).wellFormed = false := by decide
/-- A scalar destination from lane sources (R24); a U form may write one. -/
theorem test_bad_scalar : (Instr.add (fl (.s 3) (.v 1) (.v 2) .i32)).wellFormed = false ∧
    (Instr.add (fl (.s 3) (.s 1) (.s 2) .i32)).wellFormed = true ∧
    (Instr.ballot (fl (.s 3) (.v 1) (.v 0))).wellFormed = true := by decide
/-- A nonzero unused field (R23): an operand of `nop`, and IMM where nothing uses it. -/
theorem test_unused_field : (Instr.nop (fl (.v 1) (.v 0) (.v 0))).wellFormed = false ∧
    (Instr.add (fl (.v 3) (.v 1) (.v 2) .i32 0 1)).wellFormed = false := by decide
/-- Values that an entry excludes, and the last that it takes: the length of `append` (R128), a bank mode (R225), the
number of `qdrain` (R236), the count and the path of `ipref` (R345), the bin of `reform` (R341), a nonzero short
immediate of `fork` and of `phase` (R351, R374), the side of `alloc` (R379), a disposition (R429). -/
theorem test_bad_value :
    [Instr.appendRow (fl (.v 3) (.s 2) (.v 5)), .appendRow (fl (.v 3) (.s 2) (.v 5) .i8 0 6),
      .appendRow (fl (.v 3) (.s 2) (.v 5) .i8 0 4100), .bankmode (fl (.k 1) (.k 2) (.immS 3)),
      .qdrain (fl (.v 3) (.immS 0) (.immS 16)), .ipref (fl (.v 0) (.v 2) (.v 0)),
      .ipref (fl (.v 0) (.v 2) (.v 0) .i8 0 4097), .ipref (fl (.v 0) (.v 2) (.v 0) .i8 0 0x30001),
      .reform (fl (.v 0) (.v 2) (.v 0)), .reform (fl (.v 0) (.v 2) (.v 0) .i8 0 513), .fork (fl (.k 1) (.immS 1) (.k 3)),
      .phase (fl (.v 0) (.immS 1) (.v 0)), .alloc (fl (.v 0) (.v 2) (.immS 2)),
      .dispose (fl (.v 0) (.immS 4) (.v 0))].all (fun i => !i.wellFormed) = true ∧
    [Instr.appendRow (fl (.v 3) (.s 2) (.v 5) .i8 0 4096), .bankmode (fl (.k 1) (.k 2) (.immS 2)),
      .qdrain (fl (.v 3) (.immS 0) (.immS 15)), .ipref (fl (.v 0) (.v 2) (.v 0) .i8 0 0x21000),
      .reform (fl (.v 0) (.v 2) (.v 0) .i8 0 512), .fork (fl (.k 1) (.immS 0) (.k 3)),
      .phase (fl (.v 0) (.immS 0) (.v 0)), .alloc (fl (.v 0) (.v 2) (.immS 1)),
      .dispose (fl (.v 0) (.immS 3) (.v 0))].all Instr.wellFormed = true := by decide
/-- Headers that R31 refuses: COUNT 0, a flag above 11, SETB without SETA, YIELDPOL 3. -/
theorem test_bad_headers :
    (Header.wellFormed ⟨0, 0, none, none, none, 0, false, 0⟩) = false ∧
    (Header.wellFormed ⟨1, 0, some 12, none, none, 0, false, 0⟩) = false ∧
    (Header.wellFormed ⟨1, 0, none, some 1, none, 0, false, 0⟩) = false ∧
    (Header.wellFormed ⟨1, 0, none, none, none, 3, false, 0⟩) = false ∧
    (Header.wellFormed ⟨1, 0, some 11, some 1, some 15, 2, true, 63⟩) = true := by decide

/-! ## Words that are no instruction -/

/-- Whether a word is refused, and by which check. -/
def refuses (w0 w1 w2 : BitVec 32) (e : Illegal) : Bool :=
  match decode (word96 w0 w1 w2) with
  | .ok _ => false
  | .error x => decide (x = e)

/-- OP 0xFF in a slot, an OP and an FN that the map does not list (R48), FN 8 of `atom` (R49). -/
theorem test_unlisted : refuses 0 0 0xFF01E000 .unlisted ∧ refuses 0 0 0x0101E000 .unlisted ∧
    refuses 0 0 0xF001E000 .unlisted ∧ refuses 0 0 0x0041E000 .unlisted ∧
    refuses 0 0x01004200 0x8121E00C .unlisted := by decide
/-- TYPE 15 (R27). -/
theorem test_type_15 : refuses 0 0x00F05F00 0x1001E00C .badType := by decide
/-- Class 0b10 with the unassigned index 48, and a scalar index of 128 (R19). -/
theorem test_no_such_operand : refuses 0 0x00830200 0x1001F0C0 .badOperand ∧
    refuses 0 0x00830200 0x1001EA00 .badOperand := by decide
/-- A header word: OP 0xFF with COUNT 0, and one with a nonzero low half (R31). -/
theorem test_bad_header_words : decodeHeader (word96 0 0 0xFF000000) = none ∧
    decodeHeader (word96 1 0x00400000 0xFF200188) = none ∧
    decodeHeader (word96 0 0x00400000 0xFF200188) = some ⟨2, 1, some 1, none, none, 0, true, 0⟩ := by decide

/-! ## Words of every instruction -/

/-- The fields of a word that reuses nothing and yields nothing, with CACHE near. -/
def gd (neg : Bool) (pred : BitVec 4) (d a b : Opnd) (t : Ty) (m : BitVec 3) (im : BitVec 32) : Fields :=
  ⟨neg, pred, d, a, b, t, false, false, false, .near, m, im⟩

/-- Whether each word (word 0, word 1, word 2) decodes to the instruction beside it, and that encodes to it. -/
def allDecode (l : List (BitVec 32 × BitVec 32 × BitVec 32 × Instr)) : Bool :=
  l.all fun e =>
    (match decode (word96 e.1 e.2.1 e.2.2.1) with
      | .ok i => decide (i = e.2.2.2)
      | .error _ => false) &&
    decide (encode e.2.2.2 = some (word96 e.1 e.2.1 e.2.2.1))

theorem test_decode_control : allDecode [
    (0x00000000, 0x00000000, 0x0001E000, .nop (gd false 15 (.v 0) (.v 0) (.v 0) .i8 0 0x0)),
    (0xFFFFFFFE, 0x00000000, 0x0005E000, .bra (gd false 15 (.v 0) (.v 0) (.v 0) .i8 0 0xFFFFFFFE)),
    (0x00000000, 0x01000000, 0x0009E001, .brx (gd false 15 (.v 0) (.s 2) (.v 0) .i8 0 0x0)),
    (0x00000000, 0x03000000, 0x000DE000, .jmpx (gd false 15 (.v 0) (.v 6) (.v 0) .i8 0 0x0)),
    (0xFFFFFFFE, 0x00000000, 0x0011E000, .call (gd false 15 (.v 0) (.v 0) (.v 0) .i8 0 0xFFFFFFFE)),
    (0x00000000, 0x03000000, 0x0015E000, .callx (gd false 15 (.v 0) (.v 6) (.v 0) .i8 0 0x0)),
    (0x00000000, 0x00000000, 0x0019E000, .ret (gd false 15 (.v 0) (.v 0) (.v 0) .i8 0 0x0)),
    (0x00000000, 0x00000000, 0x001DE000, .exitLane (gd false 15 (.v 0) (.v 0) (.v 0) .i8 0 0x0)),
    (0x00000003, 0x03000000, 0x0021E000, .reform (gd false 15 (.v 0) (.v 6) (.v 0) .i8 0 0x3)),
    (0x00000000, 0x00000000, 0x0025E000, .regang (gd false 15 (.v 0) (.v 0) (.v 0) .i8 0 0x0)),
    (0x00000000, 0x00000000, 0x0029E000, .yieldGang (gd false 15 (.v 0) (.v 0) (.v 0) .i8 0 0x0)),
    (0x00000000, 0x03000000, 0x002DE000, .sleepto (gd false 15 (.v 0) (.v 6) (.v 0) .i8 0 0x0)),
    (0x00020003, 0x03000000, 0x0031E000, .ipref (gd false 15 (.v 0) (.v 6) (.v 0) .i8 0 0x20003)),
    (0x00000000, 0x24800000, 0x0035E002, .decide (gd false 15 (.v 0) (.k 9) (.v 0) .i8 0 0x0)),
    (0x00000005, 0x21800000, 0x0039E002, .bru (gd false 15 (.v 0) (.k 3) (.v 0) .i8 0 0x5)),
    (0x00000007, 0x21443000, 0x003DF106, .fork (gd false 15 (.k 1) (.k 2) (.k 3) .i8 0 0x7))] = true := by decide

theorem test_decode_arithmetic : allDecode [
    (0x00000000, 0x02C22201, 0x1002500C, .add (gd true 2 (.q 3) (.v 5) (.p 2) .i32 1 0x0)),
    (0x80000001, 0x03600301, 0x10064010, .sub (gd true 2 (.v 4) (.v 6) (.immL) .i64 1 0x80000001)),
    (0x00000000, 0x01004300, 0x100A4020, .addc (gd true 2 (.v 8) (.v 2) (.v 4) .i64 0 0x0)),
    (0x00000000, 0x02A09600, 0x100E480D, .mul (gd true 2 (.s 3) (.s 5) (.s 9) .n32 0 0x0)),
    (0x00000000, 0x03008700, 0x10124011, .mulhi (gd true 2 (.v 4) (.s 6) (.v 8) .n64 0 0x0)),
    (0x00000003, 0x00802201, 0x10164010, .mad (gd true 2 (.v 4) (.v 1) (.v 2) .i32 1 0x3)),
    (0x0000020A, 0x03703700, 0x101A4010, .madhi (gd true 2 (.v 4) (.v 6) (.immS 3) .n64 0 0x20A)),
    (0x00000000, 0x21FFF200, 0x101DF10A, .min (gd false 15 (.k 2) (.k 3) (.immS 255) .i32 0 0x0)),
    (0x00000000, 0xFFC0F600, 0x1022509C, .max (gd true 2 (.p 7) (.v 511) (.q 15) .n32 0 0x0)),
    (0x00000000, 0x00800201, 0x1026400C, .abs (gd true 2 (.v 3) (.v 1) (.v 0) .i32 1 0x0)),
    (0x00000000, 0x00800201, 0x102A400C, .neg (gd true 2 (.v 3) (.v 1) (.v 0) .i32 1 0x0))] = true := by decide

theorem test_decode_logic : allDecode [
    (0xF0F0F0F0, 0x00E00600, 0x1102400C, .andb (gd true 2 (.v 3) (.v 1) (.immL) .n32 0 0xF0F0F0F0)),
    (0xF0F0F0F0, 0x00E00600, 0x1106400C, .orb (gd true 2 (.v 3) (.v 1) (.immL) .n32 0 0xF0F0F0F0)),
    (0xF0F0F0F0, 0x00E00600, 0x110A400C, .xorb (gd true 2 (.v 3) (.v 1) (.immL) .n32 0 0xF0F0F0F0)),
    (0x00000000, 0x01000700, 0x110E4010, .notb (gd true 2 (.v 4) (.v 2) (.v 0) .n64 0 0x0)),
    (0xF0F0F0F0, 0x00E00600, 0x1112400C, .andn (gd true 2 (.v 3) (.v 1) (.immL) .n32 0 0xF0F0F0F0)),
    (0x00000000, 0x01207700, 0x11164010, .shl (gd true 2 (.v 4) (.v 2) (.s 7) .n64 0 0x0)),
    (0x00000000, 0x01207700, 0x111A4010, .shr (gd true 2 (.v 4) (.v 2) (.s 7) .n64 0 0x0)),
    (0x00000000, 0x00F1F200, 0x111E400C, .sar (gd true 2 (.v 3) (.v 1) (.immS 31) .i32 0 0x0)),
    (0x00000000, 0x01207700, 0x11224010, .rol (gd true 2 (.v 4) (.v 2) (.s 7) .n64 0 0x0))] = true := by decide

theorem test_decode_bits : allDecode [
    (0x00000009, 0x00802200, 0x1202400C, .bfx (gd true 2 (.v 3) (.v 1) (.v 2) .i32 0 0x9)),
    (0x00000009, 0x00802600, 0x1206400C, .bfi (gd true 2 (.v 3) (.v 1) (.v 2) .n32 0 0x9)),
    (0x00000000, 0x01000700, 0x120A400C, .popc (gd true 2 (.v 3) (.v 2) (.v 0) .n64 0 0x0)),
    (0x00000000, 0x01000700, 0x120E400C, .clz (gd true 2 (.v 3) (.v 2) (.v 0) .n64 0 0x0)),
    (0x00000000, 0x01000700, 0x1212400C, .ctz (gd true 2 (.v 3) (.v 2) (.v 0) .n64 0 0x0)),
    (0x00000000, 0x01000600, 0x1216400C, .brev (gd true 2 (.v 3) (.v 2) (.v 0) .n32 0 0x0)),
    (0x00000000, 0x01001600, 0x121A400C, .bperm (gd true 2 (.v 3) (.v 2) (.v 1) .n32 0 0x0))] = true := by decide

theorem test_decode_select : allDecode [
    (0x00000425, 0x00802600, 0x2002400C, .sel (gd true 2 (.v 3) (.v 1) (.v 2) .n32 0 0x425)),
    (0x00000000, 0x00802205, 0x20065090, .setp (gd true 2 (.p 4) (.v 1) (.v 2) .i32 5 0x0)),
    (0x00000000, 0x11423000, 0x200A5086, .pand (gd true 2 (.p 1) (.p 2) (.p 3) .i8 0 0x0)),
    (0x00000000, 0x11423000, 0x200E5086, .por (gd true 2 (.p 1) (.p 2) (.p 3) .i8 0 0x0)),
    (0x00000000, 0x11423000, 0x20125086, .pxor (gd true 2 (.p 1) (.p 2) (.p 3) .i8 0 0x0)),
    (0x00000000, 0x11000000, 0x20165086, .pnot (gd true 2 (.p 1) (.p 2) (.v 0) .i8 0 0x0))] = true := by decide

theorem test_decode_move : allDecode [
    (0x00000000, 0x00800600, 0x2102400E, .mov (gd true 2 (.v 3) (.q 1) (.v 0) .n32 0 0x0)),
    (0xDEADBEEF, 0x00000001, 0x21064010, .movi (gd true 2 (.v 4) (.v 0) (.v 0) .i8 1 0xDEADBEEF)),
    (0x00000000, 0x01780000, 0x210A4010, .lea (gd true 2 (.v 4) (.v 2) (.immS 128) .i8 0 0x0)),
    (0x00000108, 0x00000000, 0x210E400F, .srd (gd true 2 (.v 3) (.immL) (.v 0) .i8 0 0x108)),
    (0x00000000, 0x01800000, 0x2112541D, .swr (gd true 2 (.spec .pix) (.s 3) (.v 0) .i8 0 0x0))] = true := by decide

theorem test_decode_float : allDecode [
    (0x00000000, 0x00802E02, 0x3002400C, .fadd (gd true 2 (.v 3) (.v 1) (.v 2) .h2 2 0x0)),
    (0x00000000, 0x00802E02, 0x3006400C, .fsub (gd true 2 (.v 3) (.v 1) (.v 2) .h2 2 0x0)),
    (0x00000000, 0x00802E02, 0x300A400C, .fmul (gd true 2 (.v 3) (.v 1) (.v 2) .h2 2 0x0)),
    (0x0000000A, 0x03008B03, 0x300E4010, .ffma (gd true 2 (.v 4) (.v 6) (.v 8) .f64 3 0xA)),
    (0x00000000, 0x00802900, 0x3012400C, .fmin (gd true 2 (.v 3) (.v 1) (.v 2) .bf16 0 0x0)),
    (0x00000000, 0x00802900, 0x3016400C, .fmax (gd true 2 (.v 3) (.v 1) (.v 2) .bf16 0 0x0)),
    (0x00000000, 0x00800800, 0x301A400C, .fneg (gd true 2 (.v 3) (.v 1) (.v 0) .f16 0 0x0)),
    (0x00000000, 0x00802A07, 0x301E508C, .fsetp (gd true 2 (.p 3) (.v 1) (.v 2) .f32 7 0x0)),
    (0x00000000, 0x00800A00, 0x3022400C, .fclass (gd true 2 (.v 3) (.v 1) (.v 0) .f32 0 0x0)),
    (0x00000000, 0x00800A01, 0x3026400C, .frnd (gd true 2 (.v 3) (.v 1) (.v 0) .f32 1 0x0)),
    (0x00000000, 0x00FFFA02, 0x302A400C, .fscale (gd true 2 (.v 3) (.v 1) (.immS 255) .f32 2 0x0)),
    (0x00000007, 0x00802901, 0x302E400C, .fdot2 (gd true 2 (.v 3) (.v 1) (.v 2) .bf16 1 0x7))] = true := by decide

theorem test_decode_transcendental : allDecode [
    (0x00000000, 0x00800A00, 0x4002400C, .frcp (gd true 2 (.v 3) (.v 1) (.v 0) .f32 0 0x0)),
    (0x00000000, 0x00800A00, 0x4006400C, .frsq (gd true 2 (.v 3) (.v 1) (.v 0) .f32 0 0x0)),
    (0x00000000, 0x01000B03, 0x400A4010, .fsqrt (gd true 2 (.v 4) (.v 2) (.v 0) .f64 3 0x0)),
    (0x00000000, 0x00800A00, 0x400E400C, .fexp2 (gd true 2 (.v 3) (.v 1) (.v 0) .f32 0 0x0)),
    (0x00000000, 0x00800A00, 0x4012400C, .flog2 (gd true 2 (.v 3) (.v 1) (.v 0) .f32 0 0x0)),
    (0x00000000, 0x00800A00, 0x4016400C, .fsin (gd true 2 (.v 3) (.v 1) (.v 0) .f32 0 0x0)),
    (0x00000000, 0x00800A00, 0x401A400C, .fcos (gd true 2 (.v 3) (.v 1) (.v 0) .f32 0 0x0)),
    (0x00000000, 0x00800A00, 0x401E400C, .ftanh (gd true 2 (.v 3) (.v 1) (.v 0) .f32 0 0x0))] = true := by decide

theorem test_decode_cvt : allDecode [
    (0x00000000, 0x00800005, 0x502A400C, .cvt .f32 (gd true 2 (.v 3) (.v 1) (.v 0) .i8 5 0x0)),
    (0x00000000, 0x00800A00, 0x503A4010, .cvt .h2 (gd true 2 (.v 4) (.v 1) (.v 0) .f32 0 0x0)),
    (0x00000000, 0x01000803, 0x501E400C, .cvt .n64 (gd true 2 (.v 3) (.v 2) (.v 0) .f16 3 0x0))] = true := by decide

theorem test_decode_block : allDecode [
    (0x00000000, 0x00F02A06, 0x5102400C, .cvt8 (gd true 2 (.v 3) (.v 1) (.immS 2) .f32 6 0x0)),
    (0x00000000, 0x04703A04, 0x5106400C, .bpack (gd true 2 (.v 3) (.v 8) (.immS 3) .f32 4 0x0)),
    (0x00000000, 0x01F04800, 0x510A4020, .bunpack (gd true 2 (.v 8) (.v 3) (.immS 4) .f16 0 0x0)),
    (0x00000000, 0x00FFF000, 0x510E400C, .bscale (gd true 2 (.v 3) (.v 1) (.immS 255) .i8 0 0x0)),
    (0x00000000, 0x01708000, 0x5112400C, .btagr (gd true 2 (.v 3) (.v 2) (.immS 8) .i8 0 0x0)),
    (0x00000000, 0x01708000, 0x5116400C, .btagw (gd true 2 (.v 3) (.v 2) (.immS 8) .i8 0 0x0))] = true := by decide

theorem test_decode_exchange : allDecode [
    (0x00000000, 0x00F04603, 0x6002400C, .shfl (gd true 2 (.v 3) (.v 1) (.immS 4) .n32 3 0x0)),
    (0x00000000, 0x11000002, 0x6006480E, .vote (gd true 2 (.s 3) (.p 2) (.v 0) .i8 2 0x0)),
    (0x00000000, 0x11000000, 0x600A480E, .ballot (gd true 2 (.s 3) (.p 2) (.v 0) .i8 0 0x0)),
    (0x00000000, 0x00800A00, 0x600E480C, .redadd (gd true 2 (.s 3) (.v 1) (.v 0) .f32 0 0x0)),
    (0x00000000, 0x00800A00, 0x6012480C, .redmax (gd true 2 (.s 3) (.v 1) (.v 0) .f32 0 0x0)),
    (0x00000000, 0x00800205, 0x6016400C, .scan (gd true 2 (.v 3) (.v 1) (.v 0) .i32 5 0x0))] = true := by decide

theorem test_decode_scratchpad : allDecode [
    (0x00000000, 0x00F04C00, 0x7001E00C, .lds (gd false 15 (.v 3) (.v 1) (.immS 4) .b8 0 0x0)),
    (0x00000000, 0x00F04E00, 0x7005E00C, .sts (gd false 15 (.v 3) (.v 1) (.immS 4) .h2 0 0x0)),
    (0x00010000, 0x00701000, 0x7009F107, .bankmode (gd false 15 (.k 1) (.immL) (.immS 1) .i8 0 0x10000)),
    (0x00000000, 0x21443000, 0x700DF106, .qcfg (gd false 15 (.k 1) (.k 2) (.k 3) .i8 0 0x0)),
    (0x00000000, 0x00800000, 0x7011E00C, .qstat (gd false 15 (.v 3) (.v 1) (.v 0) .i8 0 0x0)),
    (0x00000000, 0x81701000, 0x7015E00F, .qdrain (gd false 15 (.v 3) (.immS 2) (.immS 1) .i8 0 0x0))] = true := by decide

theorem test_decode_atoms : allDecode [
    (0x00000000, 0x00805200, 0x7102400C, .atoms .fadd (gd true 2 (.v 3) (.v 1) (.v 5) .i32 0 0x0)),
    (0x00000000, 0x00805200, 0x7106400C, .atoms .fmin (gd true 2 (.v 3) (.v 1) (.v 5) .i32 0 0x0)),
    (0x00000000, 0x00805200, 0x710A400C, .atoms .fmax (gd true 2 (.v 3) (.v 1) (.v 5) .i32 0 0x0)),
    (0x00000000, 0x00805600, 0x710E400C, .atoms .fand (gd true 2 (.v 3) (.v 1) (.v 5) .n32 0 0x0)),
    (0x00000000, 0x00805600, 0x7112400C, .atoms .fior (gd true 2 (.v 3) (.v 1) (.v 5) .n32 0 0x0)),
    (0x00000000, 0x00805600, 0x7116400C, .atoms .fxor (gd true 2 (.v 3) (.v 1) (.v 5) .n32 0 0x0)),
    (0x00000000, 0x00805600, 0x711A400C, .atoms .xchg (gd true 2 (.v 3) (.v 1) (.v 5) .n32 0 0x0)),
    (0x00000006, 0x00805600, 0x711E400C, .atoms .cas (gd true 2 (.v 3) (.v 1) (.v 5) .n32 0 0x6))] = true := by decide

theorem test_decode_memory : allDecode [
    (0x00000000, 0x01708B00, 0x80024010, .ld (gd true 2 (.v 4) (.v 2) (.immS 8) .f64 0 0x0)),
    (0x00000040, 0x01600500, 0x80064010, .st (gd true 2 (.v 4) (.v 2) (.immL) .n16 0 0x40)),
    (0x00000000, 0x21446400, 0x8009F112, .ldc (gd false 15 (.k 4) (.k 2) (.k 6) .n8 0 0x0)),
    (0x00000000, 0x01701100, 0x800E480D, .ldt (gd true 2 (.s 3) (.s 2) (.immS 1) .i16 0 0x0)),
    (0x00000000, 0x01740000, 0x80124000, .pref (gd true 2 (.v 0) (.v 2) (.immS 64) .i8 0 0x0)),
    (0x00000000, 0x00000007, 0x80164000, .pathfence (gd true 2 (.v 0) (.v 0) (.v 0) .i8 7 0x0)),
    (0x00000000, 0x01700000, 0x801A400C, .probe (gd true 2 (.v 3) (.v 2) (.immS 0) .i8 0 0x0)),
    (0x00000000, 0x01700000, 0x801E4000, .cwb (gd true 2 (.v 0) (.v 2) (.immS 0) .i8 0 0x0))] = true := by decide

theorem test_decode_atom : allDecode [
    (0x00000000, 0x01005200, 0x8102400C, .atom .fadd (gd true 2 (.v 3) (.v 2) (.v 5) .i32 0 0x0)),
    (0x00000000, 0x01005200, 0x8106400C, .atom .fmin (gd true 2 (.v 3) (.v 2) (.v 5) .i32 0 0x0)),
    (0x00000000, 0x01005200, 0x810A400C, .atom .fmax (gd true 2 (.v 3) (.v 2) (.v 5) .i32 0 0x0)),
    (0x00000000, 0x01005600, 0x810E400C, .atom .fand (gd true 2 (.v 3) (.v 2) (.v 5) .n32 0 0x0)),
    (0x00000000, 0x01005600, 0x8112400C, .atom .fior (gd true 2 (.v 3) (.v 2) (.v 5) .n32 0 0x0)),
    (0x00000000, 0x01005600, 0x8116400C, .atom .fxor (gd true 2 (.v 3) (.v 2) (.v 5) .n32 0 0x0)),
    (0x00000000, 0x01005600, 0x811A400C, .atom .xchg (gd true 2 (.v 3) (.v 2) (.v 5) .n32 0 0x0)),
    (0x00000006, 0x01005600, 0x811E400C, .atom .cas (gd true 2 (.v 3) (.v 2) (.v 5) .n32 0 0x6))] = true := by decide

theorem test_decode_append : allDecode [
    (0x00000010, 0x01005000, 0x9002400D, .appendRow (gd true 2 (.v 3) (.s 2) (.v 5) .i8 0 0x10)),
    (0x00000000, 0x01700000, 0x9006400C, .tailr (gd true 2 (.v 3) (.v 2) (.immS 0) .i8 0 0x0)),
    (0x00000000, 0x01700000, 0x900A400C, .sealPage (gd true 2 (.v 3) (.v 2) (.immS 0) .i8 0 0x0)),
    (0x00000000, 0x01700000, 0x900E400C, .sealq (gd true 2 (.v 3) (.v 2) (.immS 0) .i8 0 0x0))] = true := by decide

theorem test_decode_copy : allDecode [
    (0x00000000, 0x01000000, 0xA001E010, .cpy (gd false 15 (.v 4) (.v 2) (.v 0) .i8 0 0x0)),
    (0x00000000, 0x01000000, 0xA005E010, .cpy2d (gd false 15 (.v 4) (.v 2) (.v 0) .i8 0 0x0)),
    (0x00000000, 0x01000D00, 0xA009E010, .gather (gd false 15 (.v 4) (.v 2) (.v 0) .blk 0 0x0)),
    (0x00000000, 0x01000D00, 0xA00DE010, .scatter (gd false 15 (.v 4) (.v 2) (.v 0) .blk 0 0x0)),
    (0x00000000, 0x01000500, 0xA011E010, .cfill (gd false 15 (.v 4) (.v 2) (.v 0) .n16 0 0x0)),
    (0x00000000, 0x01000000, 0xA015E00C, .publish (gd false 15 (.v 3) (.v 2) (.v 0) .i8 0 0x0)),
    (0x00000000, 0x01000000, 0xA019E00C, .pstat (gd false 15 (.v 3) (.v 2) (.v 0) .i8 0 0x0))] = true := by decide

theorem test_decode_gong : allDecode [
    (0x00000000, 0x01000000, 0xB002504C, .gset (gd true 2 (.g 3) (.v 2) (.v 0) .i8 0 0x0)),
    (0x00000000, 0x01000000, 0xB006504C, .garm (gd true 2 (.g 3) (.v 2) (.v 0) .i8 0 0x0)),
    (0x00000000, 0x00000000, 0xB00A504C, .sign (gd true 2 (.g 3) (.v 0) (.v 0) .i8 0 0x0)),
    (0x00000000, 0x0C800000, 0xB00E400E, .gstat (gd true 2 (.v 3) (.g 9) (.v 0) .i8 0 0x0))] = true := by decide

theorem test_decode_mma : allDecode [
    (0x00000000, 0x08020D03, 0xB102480C, .mmaRr (gd true 2 (.s 3) (.v 16) (.v 32) .blk 3 0x0)),
    (0x00000000, 0x08204D01, 0xB106480C, .mmaRs (gd true 2 (.s 3) (.v 16) (.s 4) .blk 1 0x0)),
    (0x00000000, 0x02010D02, 0xB10A480D, .mmaSr (gd true 2 (.s 3) (.s 4) (.v 16) .blk 2 0x0)),
    (0x00000000, 0x02206D00, 0xB10DE80D, .mmaSs (gd false 15 (.s 3) (.s 4) (.s 6) .blk 0 0x0))] = true := by decide

theorem test_decode_accumulator : allDecode [
    (0x00000000, 0x00000000, 0xB201E80C, .mzero (gd false 15 (.s 3) (.v 0) (.v 0) .i8 0 0x0)),
    (0x00000000, 0xFF800000, 0xB205F10F, .mscale (gd false 15 (.k 3) (.immS 255) (.v 0) .i8 0 0x0)),
    (0x00000000, 0x21782C06, 0xB209F112, .mcvt (gd false 15 (.k 4) (.k 2) (.immS 130) .b8 6 0x0))] = true := by decide

theorem test_decode_task : allDecode [
    (0x00000000, 0x01000000, 0xC0024000, .launch (gd true 2 (.v 0) (.v 2) (.v 0) .i8 0 0x0)),
    (0x00000000, 0x01000000, 0xC0064000, .spawn (gd true 2 (.v 0) (.v 2) (.v 0) .i8 0 0x0)),
    (0x00000001, 0x01000000, 0xC00A4001, .phase (gd true 2 (.v 0) (.s 2) (.v 0) .i8 0 0x1)),
    (0x00000000, 0x00000000, 0xC00E4000, .taskend (gd true 2 (.v 0) (.v 0) (.v 0) .i8 0 0x0)),
    (0x00000000, 0x00000000, 0xC0124000, .commit (gd true 2 (.v 0) (.v 0) (.v 0) .i8 0 0x0)),
    (0x00000000, 0x88700000, 0xC0164003, .alloc (gd true 2 (.v 0) (.immS 16) (.immS 0) .i8 0 0x0)),
    (0x00000000, 0x88000000, 0xC01A4003, .claim (gd true 2 (.v 0) (.immS 16) (.v 0) .i8 0 0x0)),
    (0x00000000, 0x88000000, 0xC01E4003, .releaseRegs (gd true 2 (.v 0) (.immS 16) (.v 0) .i8 0 0x0))] = true := by decide

theorem test_decode_ann : allDecode [
    (0x00000000, 0x01005200, 0xD00250BC, .ann .fadd (gd true 2 (.p 15) (.v 2) (.v 5) .i32 0 0x0)),
    (0x00000000, 0x01005200, 0xD00650BC, .ann .fmin (gd true 2 (.p 15) (.v 2) (.v 5) .i32 0 0x0)),
    (0x00000000, 0x01005200, 0xD00A50BC, .ann .fmax (gd true 2 (.p 15) (.v 2) (.v 5) .i32 0 0x0)),
    (0x00000000, 0x01005600, 0xD00E50BC, .ann .fand (gd true 2 (.p 15) (.v 2) (.v 5) .n32 0 0x0)),
    (0x00000000, 0x01005600, 0xD01250BC, .ann .fior (gd true 2 (.p 15) (.v 2) (.v 5) .n32 0 0x0)),
    (0x00000000, 0x01005600, 0xD01650BC, .ann .fxor (gd true 2 (.p 15) (.v 2) (.v 5) .n32 0 0x0)),
    (0x00000000, 0x01005600, 0xD01A50BC, .ann .xchg (gd true 2 (.p 15) (.v 2) (.v 5) .n32 0 0x0)),
    (0x00000006, 0x01005600, 0xD01E50BC, .ann .cas (gd true 2 (.p 15) (.v 2) (.v 5) .n32 0 0x6))] = true := by decide

theorem test_decode_help : allDecode [
    (0x00000000, 0x01000000, 0xD102400C, .helpObj (gd true 2 (.v 3) (.v 2) (.v 0) .i8 0 0x0)),
    (0x00000000, 0x01000000, 0xD1064010, .collect (gd true 2 (.v 4) (.v 2) (.v 0) .i8 0 0x0)),
    (0x00000000, 0x01000000, 0xD10A400C, .annq (gd true 2 (.v 3) (.v 2) (.v 0) .i8 0 0x0)),
    (0x00000005, 0x01004700, 0xD10E400C, .bcas (gd true 2 (.v 3) (.v 2) (.v 4) .n64 0 0x5))] = true := by decide

theorem test_decode_system : allDecode [
    (0x00000000, 0x83800000, 0xE0024003, .trap (gd true 2 (.v 0) (.immS 7) (.v 0) .i8 0 0x0)),
    (0x00000000, 0x00000000, 0xE0064000, .trapret (gd true 2 (.v 0) (.v 0) (.v 0) .i8 0 0x0)),
    (0x00000000, 0x01000000, 0xE00A400C, .hwin (gd true 2 (.v 3) (.v 2) (.v 0) .i8 0 0x0)),
    (0x00000000, 0x01000000, 0xE00E400C, .hwrd (gd true 2 (.v 3) (.v 2) (.v 0) .i8 0 0x0)),
    (0x00000000, 0x01003000, 0xE0124000, .hwwr (gd true 2 (.v 0) (.v 2) (.v 3) .i8 0 0x0)),
    (0x00000000, 0x81800000, 0xE0164003, .dispose (gd true 2 (.v 0) (.immS 3) (.v 0) .i8 0 0x0)),
    (0x00000000, 0x01000000, 0xE01A400C, .ctxsave (gd true 2 (.v 3) (.v 2) (.v 0) .i8 0 0x0)),
    (0x00000000, 0x01000000, 0xE01E400C, .ctxload (gd true 2 (.v 3) (.v 2) (.v 0) .i8 0 0x0)),
    (0x00000000, 0x01003000, 0xE0224001, .tlbinv (gd true 2 (.v 0) (.s 2) (.v 3) .i8 0 0x0))] = true := by decide

end Sys2Proof.Tests
end

