-- ==== Sys2Proof/Tests/WitnessControl.lean ====
section
/-!
SUPPORT. For each clause of the statements about clauses, clocks, handlers, faults, pre-emption and contexts, a
concrete state and operands that meet its premises together.
-/

set_option Elab.async false

namespace Sys2Proof.Tests

open Sys2Proof Sys2Proof.Machine Sys2Proof.Claims

/-! ## Clauses, gangs and bins -/

/-- Quad 0 of the group changed. -/
def withQuad (s : State) (f : Quad → Quad) : State :=
  s.updGroup (.lane 1 0 0) fun g => { g with quads := [f (g.quad 0)] ++ g.quads.drop 1 }
/-- The gang at the boundary before the clause at address 0, whose header has one slot. -/
def labStart : State :=
  (withQuad (lab []) fun q => { q with latch := none }).updGroup (.lane 1 0 0) (fun g =>
    { g with lanes := g.lanes.map fun l => { l with pc := 0 } }) |> fun s => s.setBytes 0 (bytesOfWord (encodeHeader oneSlot))
theorem witness_ClauseEvents_stopped :
    ((withTeam labStart fun x => { x with run := .halting }).pathsSettled (.lane 1 0 0)).mayStart (.lane 1 0 0) = false ∧
    ((lab []).pathsSettled (.lane 1 0 0)).mayStart (.lane 1 0 0) = true ∧
    (((withQuad labStart fun q => { q with sleep := some 9 }).pathsSettled (.lane 1 0 0)).starter (.lane 1 0 0)).isNone = true := by
  decide +kernel
theorem witness_ClauseEvents_start : (let s := labStart.pathsSettled (.lane 1 0 0)
    s.mayStart (.lane 1 0 0) && match s.starter (.lane 1 0 0) with
      | some (w, pc) => okB (startClause w pc s) fun _ _ => true
      | none => false) = true := by decide +kernel
theorem witness_ClauseEvents_parkq : ([4095, 4096].all fun n =>
    ({ withQuad labStart fun q => { q with parkSince := some 0 } with cyc := n } : State).holdSince (.lane 1 0 0) true = some 0) = true := by
  decide +kernel
theorem witness_ClauseEvents_reconv : ([0, 100000].all fun n =>
    ({ withQuad labStart fun q => { q with recSince := some 0 } with cyc := n } : State).holdSince (.lane 1 0 0) false = some 0) = true := by
  decide +kernel
theorem witness_ClauseEvents_boundary : (withQuad labStart fun q => { q with bound := true }).team? 1 ≠ none := by decide +kernel
/-- Quad 0 at a boundary, with n live lanes of it at places of their own. -/
def labBound (n : Nat) (solo : Option Nat := none) (timer : Nat := 0) : State :=
  (withQuad (lab []) fun q => { q with latch := none, bound := true, solo := solo, timer := timer }).updGroup (.lane 1 0 0) fun g =>
    { g with lanes := (List.range n).map (fun i => { g.lane 0 with pc := 96 * (4 - i), base := 96 * (4 - i), st := .live }) ++
        g.lanes.drop n }
/-- The same with bins that take no lane of it. -/
def labFullBins (s : State) : State := withTeam s fun x => { x with bins := (List.range 16).map fun b => (b, ⟨9600 + b, 4, 512, 0, []⟩) }
/-- Whether quad 0 stands at a boundary, and its paths before and after the filing pass a test. -/
def boundB (s : State) (p : Option Nat → Group → List Path → List Path → Bool) : Bool :=
  let a : Agent := .lane 1 0 0
  (s.group? a).any fun y =>
    let x := y.quad 0
    let l := y.paths 0 s.cyc
    let s₁ := (overPaths x.timer x.force l).foldl (fun s p => s.filePath a 0 p) s
    x.bound && x.latch.isNone && (s₁.group? a).any fun y₁ => p x.solo y l (y₁.paths 0 s₁.cyc)
theorem witness_ClauseEvents_settle : ([3, 4].all fun n => boundB (labBound n) fun solo _ l l₁ =>
    solo.isNone && decide (l.length = n) && decide (l₁.length = 3)) = true := by decide +kernel
theorem witness_ClauseEvents_solo : boundB (labFullBins (labBound 4)) (fun solo _ _ l₁ =>
      solo.isNone && decide (3 < l₁.length) && (lowestPath l₁).any fun p => p.mask.getLsbD 3 &&
        (List.range 3).all fun j => !p.mask.getLsbD j) = true ∧
    boundB (labBound 3 (some 1)) (fun solo y l _ => solo = some 1 && decide (l.length ≤ 3) && decide (0 < y.quads.length)) = true ∧
    boundB (labBound 4 (some 3)) (fun solo y l _ => solo = some 3 && decide (3 < l.length) && y.soloNext 0 3 = some 0) = true := by
  decide +kernel
/-- A path recorded before, with its PC and since when it waits, and one that none recorded. -/
def oldPath (m : BitVec 4) (pc since : Nat) : Path := ⟨m, pc, pc, since, true⟩
def newPath (m : BitVec 4) (pc : Nat) : Path := ⟨m, pc, pc, 9, false⟩
theorem witness_ClauseEvents_paths : ((labBound 4).group? (.lane 1 0 0)).any (fun y =>
      (y.lane (4 * 0 + 3)).st = .live && (y.paths 0 9).any fun p => p.since = 9 && !p.old) = true ∧
    ((withQuad (labBound 4) fun q => { q with recs := [⟨4, 2⟩] }).group? (.lane 1 0 0)).any (fun y =>
      (y.paths 0 9).any fun p => p.old && p.since = 2) = true := by decide +kernel
theorem witness_ClauseEvents_choice : ([(63, false), (64, false), (0, true)].all fun e =>
      (choosePath e.1 e.2 [newPath 1 5, oldPath 2 7 1, oldPath 4 6 1]).isSome) = true ∧
    (∃ p ∈ [newPath 1 5, oldPath 2 7 1], p.old = true) ∧ (∀ p ∈ [newPath 1 5], p.old = false) ∧
    overPaths 0 false [newPath 1 5, newPath 2 6, newPath 4 7, newPath 8 8] = [newPath 8 8] := by decide +kernel
theorem witness_ClauseEvents_file : ((labBound 4).team? 1).any (fun x => (SMap.get? x.groups 0).any fun y =>
    (newPath 8 96).lanes 0 = [3] && (x.fileLane 0 3 96 y.w 0).isSome) = true ∧
    ((labFullBins (labBound 4)).team? 1).any (fun x => (x.fileLane 0 3 96 512 0).isNone) = true := by decide +kernel
theorem witness_ClauseEvents_wake : ([4, 5].all fun (d : Nat) =>
    let s : State := { withQuad labStart fun q => { q with sleep := some d } with cyc := 4 }
    s.mayStart (.lane 1 0 0) && (s.group? (.lane 1 0 0)).any fun y => 0 < y.quads.length && (y.quad 0).sleep = some d) = true := by
  decide +kernel
theorem witness_ClauseEvents_age : ([1023, 1024].all fun n =>
    let s : State := { lab [] with cyc := n }
    (s.group? (.lane 1 0 0)).any (fun y => (y.quad (agentQuad (.lane 1 0 0))).lastCyc = 0) &&
      (s.who? (.lane 1 0 0)).any s.ready) = true ∧
    (let s := withQuad (lab []) fun q => { q with sleep := some 9 };
    (s.group? (.lane 1 0 0)).isSome && (s.who? (.lane 1 0 0)).any fun w => !s.ready w) = true := by decide +kernel
/-- The team with a bin of n lanes filed at cycle 0, group 1 ended, at a cycle. -/
def labBin (n cyc : Nat) : State :=
  { withTeam (lab []) fun x => { x with bins := [(0, ⟨96, 4, 512, 0, (List.range n).map fun i => ⟨[], 0, 0, i⟩⟩)] } with cyc := cyc }
theorem witness_ClauseEvents_none : (let s : State := { labBin 3 Config.binAge with cores := [(0, { labCore with claimq0 := [(1, 4)], claimq1 := [(1, 4)] })] }
    (s.team? 1).any fun (x : Team) => x.fault.isNone && (SMap.get? x.bins 0).any fun b => (s.drawSlot x b).isNone &&
      decide (b.since + Config.binAge ≤ s.cyc) &&
      okB (collectM b.lanes (fun f => returnLane 1 b f) (s.updTeam 1 fun x => { x with bins := SMap.del x.bins 0 })) fun _ _ => true) =
      true := by decide +kernel
theorem witness_ClauseEvents_bin : (let ok (s : State) (p : Team → Bin → Bool) : Bool :=
      ((s.team? 1).any (fun x => x.fault.isNone && (SMap.get? x.bins 0).any (fun b => p x b)));
    ok (labBin 3 0) (fun _ b => b.lanes.length < 32 && 0 < b.since + Config.binAge) &&
    ok (labBin 32 0) (fun _ b => 32 ≤ b.lanes.length) &&
    ok (labBin 3 Config.binAge) fun _ b => b.since + Config.binAge ≤ Config.binAge) = true := by decide +kernel
theorem witness_ClauseEvents_slot : (let s := (labBin 32 Config.binAge).updGroup (.lane 1 0 0) fun g =>
      { g with live := false, lanes := g.lanes.map (fun l => { l with st := .filed }), quads := g.quads.map fun q => { q with latch := none, cur := 0 } }
    (s.team? 1).any fun x => x.fault.isNone && (SMap.get? x.bins 0).any fun b => (s.drawSlot x b).isSome &&
      decide (b.since + Config.binAge ≤ s.cyc)) = true := by decide +kernel

/-! ## Clocks, deliveries, sweeps, prefetches -/

theorem witness_DeviceEvents_tick : ((lab []).partOfCore 0).isSome ∧ ((lab []).team? 1).isSome ∧ (lab []).upsets = [] := by
  decide +kernel
/-- A push to FIFO 1 on its way. -/
def labPush : State := (lab []).updCore 0 fun k => { k with inflight := [⟨2, 1, ⟨List.replicate 32 5, 1, 9, 2, 1, 0⟩⟩] }
theorem witness_DeviceEvents_nothing : (lab []).oldestPushes 0 = [] := by decide +kernel
theorem witness_DeviceEvents_delivery : labPush.oldestPushes 0 ≠ [] ∧ (labPush.core 0).inflight = [⟨2, 1, ⟨List.replicate 32 5, 1, 9, 2, 1, 0⟩⟩] ∧
    SMap.get? (labPush.core 0).fifos 1 ≠ none := by decide +kernel
theorem witness_DeviceEvents_sweep : (let k := ((List.range 1000).find? (homedAt 0 1 5)).getD 0
    let s := (lab []).updSlice 5 fun x => { x with sweep := true, cb := 1, base1 := 100 }
    let s : State := { s with lines := SMap.put (SMap.put s.lines k (s.line k)) (2 ^ 40) (s.line (2 ^ 40)) }
    (s.slice 5).sweep && s.partOfTwelfth (twelfthOfSlice 5) = some 0 && (s.part? 0).any fun p => homedAt 0 p.size 5 k &&
      !homedAt 0 p.size 5 (2 ^ 40) && (SMap.get? s.lines k).isSome && (SMap.get? s.lines (2 ^ 40)).isSome) = true := by decide +kernel
/-- Whether a line of the pinned pages has a class, and the fetches of a hardware prefetch of it answer. -/
def prefB (c va : Nat) : Bool :=
  let s := lab []
  let s' : State := { s with free := s.free + 1 }
  (s.teamWho 1).any fun w => s.inLease w va 1 [rightR] && (s.peekLeaf w va).map leafClass = some c &&
    okB (prefetchLine w va .near s') (fun _ _ => true) && (c ≠ 0 || okB (tryPlace w va s') fun p s₁ =>
      p.any fun pl => okB (meetLine (pl.pa / 64) s₁) fun _ s₂ => !s₂.isPoison (pl.pa / 64) &&
        [true, false].all fun tile => okB (pathLine w.part 0 (pl.pa / 64) tile true true s₂) fun _ _ => true)
theorem witness_DeviceEvents_inside : prefB 0 0x100000 = true ∧ prefB 0 0x10FFFF = true ∧ prefB 2 0x110000 = true := by
  decide +kernel
/-- Whether the front context of the team runs. -/
def teamOn (s : State) : Bool := (s.team? 1).any fun x => x.front.run
theorem witness_DeviceEvents_prefetch : ((lab []).teamWho 1).any (fun w => w.core = 0 && !(lab []).inLease w 0x50000 1 [rightR]) = true ∧
    ((lab []).teamWho 1).any (fun w => (lab []).inLease w 0x60 48 [rightX] && okB (fetchBlock w 0 0x60 (lab [])) fun _ _ => true) =
      true ∧ teamOn (lab []) = true ∧ teamOn (withTeam (lab []) fun x => { x with front := { x.front with run := false } }) = false :=
  by decide +kernel

/-! ## Handlers -/

/-- Whether an instruction with one 32-bit source is executed. -/
def oneB (i : Instr) (s : State) (p : Who → Fields → (Nat → DWord) → State → Bool) : Bool :=
  issueB i s fun w fm f => src1 (readSrcs w f.imm [srcRaw f.sa] (onward s w fm)) fun a s₁ => p w f a s₁
theorem witness_HandlerForms_trap : oneB (.trap (fl (.v 0) (.v 2) (.v 0))) (lab []) (fun _ _ _ _ => true) = true ∧
    oneB (.trap (fl (.v 0) (.v 2) (.v 0))) (labH .handler []) (fun _ _ _ _ => true) = true := by decide +kernel
theorem witness_HandlerForms_hwin : ([4, 9].all fun n => oneB (.hwin (fl (.v 8) (.v 2) (.v 0))) (labH .handler [(2, n)]) fun w f a s₁ =>
    let tok := (a w.low).toNat % 2 ^ 32
    let found := s₁.tokenOf w.core tok
    decide (found.isSome = (n = 4)) && okB (writeDst w f.dst false false (fun _ => if found.isSome then 0 else 1) (s₁.updCore w.core fun k =>
      { k with handler := k.handler.map fun h => { h with window := found.map fun _ => tok } })) fun _ _ => true) = true := by decide +kernel
/-- The handler with its window open on the stopped team. -/
def labOpen (regs : SMap Word) : State := (labH .handler regs).updCore 0 fun k =>
  { k with handler := k.handler.map fun h => { h with window := some 4 } }
theorem witness_HandlerForms_hwrd : ([0, 0x1000000, 0xFFFFFFFF].all fun n => oneB (.hwrd (fl (.v 8) (.v 2) (.v 0))) (labOpen [(2, n)])
    fun w f a s₁ =>
      let val (i : Nat) : Option Nat := (s₁.windowOn w.core).bind fun t =>
        (itemOf ((a i).toNat % 2 ^ 32)).bind fun it => s₁.winRead w.core t it
      okB (writeDst w f.dst false false (fun i => (w32 ((val i).getD 0)).setWidth 64) s₁) fun _ _ => true) = true := by decide +kernel
theorem witness_HandlerForms_hwwr : issueB (.hwwr (fl (.v 0) (.v 2) (.v 4))) (labOpen [(2, 0)]) (fun w fm f =>
    src2 (readSrcs w f.imm [srcRaw f.sa, srcRaw f.sb] (onward (labOpen [(2, 0)]) w fm)) fun _ _ _ => true) = true := by decide +kernel
theorem witness_HandlerForms_dispose : ([0, 3].all fun (k : BitVec 8) => issueB (.dispose (fl (.v 0) (.immS k) (.v 0))) (labH .handler [])
    fun w fm _ => ((onward (labH .handler []) w fm).core w.core).handler.isSome) = true ∧
    issueB (.trapret none') (labH .handler []) (fun w fm _ => decide (w.level = .handler) &&
      ((onward (labH .handler []) w fm).core w.core).handler.isSome) = true := by decide +kernel
/-- Firmware above a handler group stopped by a fault of its own. -/
def labFw (regs : SMap Word) : State := labH .firmware regs (some (labGroup [], labFault, 4, some 4))
theorem witness_HandlerForms_below : issueB (.trapret none') (labFw []) (fun w fm _ => decide (w.level = .firmware) &&
    (((onward (labFw []) w fm).core w.core).handler.any fun h => h.below.isSome)) = true := by decide +kernel
/-- The team stopped by a fault, first in line before the handler slot. -/
def labStopped : State := (withTeam (lab []) fun x => { x with run := .halting, fault := some labFault, token := some 4 }).updCore 0
  fun k => { k with stops := [1] }
/-- The handler halted by a fault of its own. -/
def labHalted : State := (labH .handler []).updCore 0 fun k =>
  { k with handler := k.handler.map fun h => { h with halt := some labFault } }
theorem witness_HandlerForms_start : ((labH .handler []).core 0).handler.any (fun h => h.halt = none) ∧
    (labHalted.core 0).handler.any (fun h => h.halt ≠ none) ∧
    ((lab []).core 0).handler = none ∧ ((lab []).core 0).stops = [] ∧ (labStopped.core 0).handler = none ∧
    (labStopped.core 0).stops = [1] ∧ (labStopped.team? 1).any (fun x => x.fault = some labFault ∧ x.token = some 4 ∧
      (labStopped.life? x.life).any fun l => (labStopped.part? l.part).isSome) := by decide +kernel

/-! ## Faults and dispositions -/

theorem witness_Faults_first : (let p (s : State) (a : Agent) (q : Team → Bool) : Bool :=
      ((s.who? a).any (fun w => w.level = .lane && (s.team? w.team).any q));
    p (lab []) (.lane 1 0 0) (fun x => x.fault.isNone) && p (labF []) (.front 1) (fun x => x.fault.isNone && x.token.isNone) &&
    p labStopped (.lane 1 0 0) fun x => x.fault.isSome) = true := by decide +kernel
theorem witness_Faults_quiet : (let s := withTeam (lab []) fun x => { x with front := { x.front with run := false, latch := none } }
    (s.who? (.lane 1 0 0)).any fun w => (s.team? w.team).any fun x => x.fault.isNone && x.token.isNone &&
      ((s.raiseTrap w false { kind := 1 }).team? w.team).any Team.quiet) = true := by decide +kernel
theorem witness_Faults_later : ((labStopped.who? (.lane 1 0 0)).any fun w => !w.front && (labStopped.groupOf w).pfault.isNone) = true := by
  decide +kernel
theorem witness_Faults_escalate : (let p (s : State) (q : Handler → Bool) : Bool :=
      ((s.core 0).handler.any (fun h => s.partOfCore 0 = some 0 && (s.part? 0).isSome && q h));
    let inside (h : Handler) : Bool := h.group.quads.any fun q => q.latch.isSome && q.sleep.isNone
    let out (s : State) : State := s.updCore 0 fun k => { k with handler := k.handler.map fun h =>
      { h with group := { h.group with quads := h.group.quads.map fun q => { q with latch := none } } } }
    let asleep (s : State) : State := s.updCore 0 fun k => { k with handler := k.handler.map fun h =>
      { h with group := { h.group with quads := h.group.quads.map fun q => { q with sleep := some 9 } } } }
    p (labFw []) (fun h => h.level = .firmware) && p (labH .handler []) (fun h => h.level ≠ .firmware && h.halt.isNone && inside h) &&
    p labHalted (fun h => h.level ≠ .firmware && h.halt.isSome && inside h) &&
    p (out (labH .handler [])) (fun h => h.level ≠ .firmware && h.halt.isNone && !inside h) &&
    p (asleep (labH .handler [])) fun h => h.level ≠ .firmware && h.halt.isNone && !inside h) = true := by decide +kernel
theorem witness_Faults_fix : labStopped.team? 1 ≠ none ∧ (labStopped.team? 1).bind (·.fault) = some labFault ∧
    (labStopped.team? 1).bind (·.pending) = none ∧ plainKind labFault ∧
    (labStopped.life? 2).any (fun l => !l.ended) = true :=
  ⟨by decide +kernel, by decide +kernel, by decide +kernel, ⟨by decide, by decide, by decide, by decide⟩, by decide +kernel⟩

/-! ## Time slices and contexts -/

/-- A test of the team of the small machine. -/
def teamOk (s : State) (p : Team → Bool) : Bool := (s.team? 1).any p
/-- No `ctxsave` and no team of the cluster asks this one to leave. -/
def freeB (s : State) (x : Team) : Bool :=
  !s.saving x.life && (s.mates 1).all fun m => (s.team? m).all fun y => !y.leaving
/-- The team runs, without fault or end. -/
def runs (x : Team) : Bool := x.run = .running && x.fault.isNone && x.ending.isNone
theorem witness_Preemption_idle : teamOk labStopped (fun x => x.run ≠ .running || x.fault.isSome || x.ending.isSome) = true := by
  decide +kernel
theorem witness_Preemption_slice :
    (let s := (withTeam (lab []) fun x => { x with slice := 0 }).updPart 0 fun p => { p with queue := [⟨placedTask, 0, 3, none, [], 0, 0, 0, []⟩] };
      teamOk s fun x => runs x && freeB s x && x.slice = 0 && s.recordsWait 0 x.core) = true ∧
    (let s := withTeam (lab []) fun x => { x with allowOut := true };
      teamOk s fun x => runs x && freeB s x && x.allowOut) = true ∧
    (let s := withTeam (lab []) fun x => { x with slice := 0 };
      teamOk s fun x => runs x && freeB s x && x.slice = 0 && !s.recordsWait 0 x.core && !x.allowOut) = true ∧
    teamOk (lab []) (fun x => runs x && freeB (lab []) x && x.slice ≠ 0 && !x.allowOut) = true := by decide +kernel
theorem witness_Preemption_ctxsave : (let s := (lab []).updPart 0 fun p => { p with ctxs := [(0, ⟨1, 1, true, true, []⟩)] };
    teamOk s fun x => runs x && s.saving x.life) = true := by decide +kernel
theorem witness_Preemption_forced : ([23999, 24000].all fun n =>
    let s : State := { withTeam (lab []) fun x => { x with run := .preempting 0 } with cyc := n };
    teamOk s fun x => x.run = .preempting 0) = true := by decide +kernel
/-- The team stopped at its pre-emption point, with nothing that runs. -/
def labLeft (mode : Mode) : State := withTeam (lab []) fun x => { x with
  mode := mode, run := .preempting 0, front := { x.front with latch := none, atPoint := true }
  groups := SMap.modify x.groups 0 fun g => { g with atPoint := true, quads := g.quads.map fun q => { q with latch := none } } }
/-- Every team of the cluster is resident with its life. -/
def matesB (s : State) (p : Team → Bool) : Bool :=
  (s.mates 1).all fun m => (s.team? m).any fun y => (s.life? y.life).isSome && p y
theorem witness_Preemption_waits : (matesB (lab []) (fun _ => true) && (matesB (lab []) fun y => !y.stopped) &&
    decide ((lab []).mates 1 = [1])) = true := by decide +kernel
theorem witness_Preemption_again : (matesB (labLeft .tentative) (fun y => y.stopped && y.leaving) &&
    decide (((labLeft .tentative).mates 1).find? (fun m => (((labLeft .tentative).team? m).map fun y =>
      y.mode ≠ .committed && !y.task.later).getD false) = some 1) && !(labLeft .tentative).matFlight [2]) = true := by decide +kernel
/-- A matrix command of the team that has accepted nothing yet. -/
def labMatQueued (s : State) : State := s.updCore 0 fun k => { k with mq := [⟨1, ⟨2, 0, 0, 0, 0⟩, 3, .mzero, 0, [], 0, [], false, false, 0⟩] }
/-- A push of another team to the team's FIFO 0 on its way. -/
def labWay (s : State) : State := s.updCore 0 fun k => { k with inflight := [⟨2, 0, ⟨List.replicate 32 5, 0, 9, 9, 0, 0⟩⟩] }
theorem witness_Preemption_mat : (matesB (labMatQueued (labLeft .committed)) (fun _ => true) &&
    (labMatQueued (labLeft .committed)).matFlight ((((labMatQueued (labLeft .committed)).mates 1).filterMap (labMatQueued (labLeft .committed)).team?).map (·.life))) =
      true := by decide +kernel
/-- What every clause about a committed cluster of one team asks. -/
def saveB (s : State) (p : Team → Life → Bool) : Bool :=
  decide (s.mates 1 = [1]) && (s.team? 1).any fun x => x.stopped && x.leaving && x.mode = .committed && !s.matFlight [x.life] &&
    (s.life? x.life).any fun l => p x l
theorem witness_Preemption_way : saveB (labWay (labLeft .committed)) (fun x _ => (labWay (labLeft .committed)).inFlight [x.life]) = true := by
  decide +kernel
/-- The same in a later phase that has not committed. -/
def labLaterPhase (s : State) : State := withTeam s fun x => { x with task := { x.task with later := true } }
/-- What the clauses about a later phase that has not committed ask. -/
def phaseB (s : State) (p : Bool → Bool) : Bool :=
  decide (s.mates 1 = [1]) && (s.team? 1).any fun x => x.stopped && x.leaving && x.mode ≠ .committed && x.task.later &&
    !s.matFlight [x.life] && (s.life? x.life).isSome && p (s.inFlight [x.life])
theorem witness_Preemption_phase : phaseB (labLaterPhase (labLeft .tentative)) (fun b => !b) = true ∧
    phaseB (labWay (labLaterPhase (labLeft .tentative))) id = true := by decide +kernel
theorem witness_Preemption_full : saveB (labLeft .committed) (fun x l => !(labLeft .committed).inFlight [x.life] &&
    ((labLeft .committed).saveSlots l.part l.ctx 1).isEmpty && ((labLeft .committed).part? l.part).isSome) = true := by decide +kernel
/-- The same, committed, with two save slots at 0x240000. -/
def labSlots : State := ((labLeft .committed).setLe (0x200000 + 100) 4 2).setLe (0x200000 + 104) 8 0x240000
theorem witness_Preemption_save : saveB labSlots (fun x l => !labSlots.inFlight [x.life] &&
    (labSlots.saveSlots l.part l.ctx 1).length = 1) = true := by decide +kernel
theorem witness_Preemption_none : (lab []).popChoice 0 1 = none := by decide +kernel
/-- A resume entry of the saved team, whose life holds no bank. -/
def labSaved : State :=
  let s := lab []
  match s.team? 1 with
  | none => s
  | some x =>
    let s := (s.removeTeam 1).updLife 2 fun f => { f with banks := [], core := slotCore 2 }
    { s with saved := [(7, ⟨0, 1, x, [], [], 0⟩)] }.updPart 0 fun p => { p with queue := [⟨placedTask, 0, 3, none, [7], 0, 0, 0, []⟩] }
theorem witness_Preemption_resume : (match labSaved.popChoice 0 5 with
    | none => false
    | some e => !e.resume.isEmpty && match labSaved.resumePlaces 5 e with
      | none => false
      | some l => l.length = 1 && okB (each l (fun x => resumeOne 0 x.1 x.2.1 x.2.2) (labSaved.popEntry 0 e)) fun _ _ => true) = true := by
  decide +kernel

/-- Firmware at work, with a register. -/
def labF1 (n : Word) : State := labH .firmware [(2, n)]
/-- Whether a context form is executed by firmware, and its context passes a test. -/
def ctxB (i : Instr) (s : State) (p : Who → State → Part → Nat → Bool) : Bool :=
  oneB i s fun w _ a s₁ => (s₁.part? w.part).any fun q => p w s₁ q ((a w.low).toNat % 2 ^ 32)
/-- The fields of a context form. -/
def cx : Fields := fl (.v 8) (.v 2) (.v 0)
/-- Context 0 with bits of its first byte and save slots. -/
def labCtx (bits slots : Nat) : State := ((labF1 0).setLe 0x200000 1 bits).setLe (0x200000 + 100) 4 slots
theorem witness_ContextForms_saved : ctxB (.ctxsave cx) (labCtx 3 0) (fun _ s p c => decide (c < p.cfg.nctx) && s.ctxSaved p c) = true := by
  decide +kernel
theorem witness_ContextForms_invalid : ctxB (.ctxsave cx) (labF1 1) (fun _ s p c => !s.ctxValid p c && !(decide (c < p.cfg.nctx) && s.ctxSaved p c)) = true ∧
    ctxB (.ctxsave cx) (labF1 2) (fun _ s p c => !s.ctxValid p c && decide (p.cfg.nctx ≤ c)) = true := by decide +kernel
theorem witness_ContextForms_full : ctxB (.ctxsave cx) (labCtx 1 0) (fun w s p c => s.ctxValid p c && !s.ctxSaved p c &&
    decide (s.ctxField p c 100 4 < (s.teamsOfCtx w.part c).length + (s.savedOfCtx w.part c).length)) = true := by decide +kernel
theorem witness_ContextForms_save : ctxB (.ctxsave cx) (labCtx 1 1) (fun w s _ c => (saveRefusal s w.part c).isNone && w.pix = 0) = true := by
  decide +kernel
/-- The handler's group with a progress index that its gang started. -/
def atPix (n : Nat) (s : State) : State := s.updCore 0 fun k => { k with handler := k.handler.map fun h =>
  { h with group := { h.group with pix := n, pixBy := some 0 } } }
/-- The same with a second team of the life on the core. -/
def twoTeams (s : State) : State := { s with teams := SMap.put s.teams 5 ((s.team? 1).getD (placedTeam 2)) }
theorem witness_ContextForms_progress : ctxB (.ctxsave cx) (atPix 1 (labCtx 1 2)) (fun w s _ c =>
      (saveRefusal s w.part c).isNone && w.pix ≠ 0 && decide ((s.teamsOfCtx w.part c).length ≤ w.pix)) = true ∧
    ctxB (.ctxsave cx) (atPix 1 (twoTeams (labCtx 1 2))) (fun w s _ c =>
      (saveRefusal s w.part c).isNone && w.pix ≠ 0 && decide (w.pix < (s.teamsOfCtx w.part c).length)) = true ∧
    ctxB (.ctxload cx) (atPix 1 (labCtx 3 0)) (fun w s _ c => s.ctxSaved ((s.part? w.part).getD (Part.blank 1)) c &&
      s.ctxValid ((s.part? w.part).getD (Part.blank 1)) c && w.pix ≠ 0 && decide ((s.savedOfCtx w.part c).length ≤ w.pix)) = true := by
  decide +kernel
theorem witness_ContextForms_outside : ctxB (.ctxload cx) (labF1 2) (fun _ _ p c => decide (p.cfg.nctx ≤ c)) = true := by decide +kernel
theorem witness_ContextForms_load : ctxB (.ctxload cx) (labCtx 1 0) (fun _ s p c => decide (c < p.cfg.nctx) && !s.ctxSaved p c) = true ∧
    ctxB (.ctxload cx) (labCtx 2 0) (fun _ s p c => decide (c < p.cfg.nctx) && s.ctxSaved p c && !s.ctxValid p c) = true ∧
    ctxB (.ctxload cx) (labCtx 3 0) (fun w s p c => s.ctxSaved p c && s.ctxValid p c && w.pix = 0) = true := by decide +kernel
theorem witness_ContextForms_tlbinv : ([0, 0x10000, 0x20000, 0x2FFFF, 0x30000, 0x40000].all fun n =>
    issueB (.tlbinv (fl (.v 0) (.s 2) (.v 2))) (labF1 n) fun w fm f =>
      src2 (readSrcs w f.imm [srcPair f.sa, srcRaw f.sb] (onward (labF1 n) w fm)) fun _ b s₁ =>
        decide ((b w.low).toNat = n.toNat) && okB (settleLeaves w.part (s₁.leftShared w.part w.pix (n.toNat / 2 ^ 16)
          (n.toNat % 2 ^ 16) 0) s₁) fun _ s₂ => (s₂.part? w.part).isSome) = true ∧
    (SMap.get? (labF1 0).cores 0).isSome = true := by decide +kernel
/-- A `ctxsave` of context 0 by firmware that is not complete. -/
def labSaving (s : State) : State :=
  { s with ops := [(4, ⟨⟨0, 2, 0, handlerSrc, 0⟩, none, .ctxsave 0, [.v 0 8], [(.v 0 8, 0)], none, 9, [], 12⟩)], serial := 5 }
theorem witness_ContextForms_complete : ((labSaving (labF1 0)).teamsOfCtx 0 0 ≠ []) ∧
    (let s := labSaving (labWay { labF1 0 with teams := [] });
      s.teamsOfCtx 0 0 = [] ∧ s.inFlight (s.ctxLives 0 0) = true ∧ (s.part? 0).isSome) ∧
    (let s := labSaving { labF1 0 with teams := [] };
      s.teamsOfCtx 0 0 = [] ∧ s.inFlight (s.ctxLives 0 0) = false ∧ (s.part? 0).isSome) := by decide +kernel

end Sys2Proof.Tests
end

