-- ==== Sys2Proof/Tests/WitnessEngines.lean ====
section
/-!
SUPPORT. For each clause of the statements about append pages, the copy and matrix engines and gongs, a concrete state
and operands that meet its premises together.
-/

set_option Elab.async false

namespace Sys2Proof.Tests

open Sys2Proof Sys2Proof.Machine Sys2Proof.Claims

/-! ## Append pages -/

/-- The small machine with a state and a tail for frame 0x120000. -/
def labAppend (regs : SMap Word) (st tail : Nat) : State :=
  (lab regs).setAppendRec 0 labPart 0x120000 ⟨tail, tail, 1024, st, true⟩

/-- Whether an `append` of 16 bytes by lane 0 at an address is executed, and its checks pass a test. -/
def appendB (va src : Word) (p : Who → Fields → List Acc → List Acc → State → Bool) : Bool :=
  let s := labAppend [(5, src)] 0 0
  let s := s.updGroup (.lane 1 0 0) fun g => { g with sreg := [(2, va)] }
  issueB (.appendRow (only (fl (.v 8) (.s 2) (.v 5) .i8 0 16))) s fun w fm f =>
    src2 (readSrcs w f.imm [srcPair f.sa, srcRaw f.sb] s) fun a b s₁ =>
      let va := (a w.low).toNat
      p w f ((accessLanes w f.dst).map fun i => ⟨i, va, va⟩)
        (spadAccs (fun i => (b i).toNat % 2 ^ 32) (accessLanes w f.dst)) s₁ && fm.long
theorem witness_AppendForms_fault : ([0x120040, 0x110000, 0x50000].all fun va => appendB va 0xF0000000 fun w f l src s₁ =>
    (appendFault s₁ w f.imm.toNat l src).isSome) = true := by decide +kernel
theorem witness_AppendForms : appendB 0x120000 0xF0000000 (fun w f l src s₁ =>
    (appendFault s₁ w f.imm.toNat l src).isNone && okB (commitTask w s₁) fun _ s₂ => okB (placeOf w 0x120000 s₂) fun _ s₃ =>
      okB (collectM src (fun x => do
        let g ← look fun s => s.laneSpad w.life x.ea
        match g with
        | none => pure (⟨List.replicate f.imm.toNat 0, [], []⟩, false)
        | some g => appendSrc g x.ea f.imm.toNat) s₃) fun _ s₄ =>
          (s₄.group? w.agent).isSome && w.quads.all fun q => q < (s₄.groupOf w).quads.length) = true := by decide +kernel
theorem witness_AppendForms_tail : ([(Instr.tailr (fl (.v 8) (.v 2) (.immS 0)), 0x120000), (.sealq (fl (.v 8) (.v 2) (.immS 0)), 0x100000)].all
    fun (e : Instr × Word) =>
      let s := lab [(2, e.2)]
      issueB e.1 s fun w fm f => okB (readEa w f (onward s w fm)) fun ea s₁ =>
        let l := s₁.accs w false ea (accessLanes w f.dst)
        (l.all fun a => s₁.inLease w a.va 1 [rightR]) && okB (collectM l (fun x => do
          let pl ← placeOf w x.va
          let c := leafClass pl.leaf
          if c = 3 || c = 4 || c = 5 then do
            let r ← readRec w (pl.pa / 65536 * 65536)
            pure (x.lane, r.settled)
          else pure (x.lane, 2 ^ 32 - 1)) s₁) fun _ s₂ => okB (reserveDst w f.dst s₂) fun _ _ => true) = true := by
  decide +kernel
theorem witness_AppendForms_outside : ([Instr.tailr (fl (.v 8) (.v 2) (.immS 0)), .sealq (fl (.v 8) (.v 2) (.immS 0))].all fun i =>
    let s := lab [(2, 0x50000)]
    issueB i s fun w fm f => okB (readEa w f (onward s w fm)) fun ea s₁ =>
      (s₁.accs w false ea (accessLanes w f.dst)).any fun a => !(s₁.inLease w a.va 1 [rightR])) = true := by decide +kernel
theorem witness_AppendForms_unsealable : (let s := lab [(2, 0x110000)]
    issueB (.sealPage (only (fl (.v 8) (.v 2) (.immS 0)))) s fun w fm f => okB (readEa w f (onward s w fm)) fun ea s₁ =>
      (sealFault s₁ w (s₁.accs w false ea (accessLanes w f.dst))).isSome) = true := by decide +kernel
theorem witness_AppendForms_seal : ([0, 1, 2].all fun st =>
    let s := labAppend [(2, 0x120000)] st 64
    issueB (.sealPage (only (fl (.v 8) (.v 2) (.immS 0)))) s fun w fm f => okB (readEa w f (onward s w fm)) fun ea s₁ =>
      let l := s₁.accs w false ea (accessLanes w f.dst)
      (sealFault s₁ w l).isNone && okB (commitTask w s₁) fun _ s₂ => okB (collectM l (fun x => do
        let pl ← placeOf w x.va
        let frame := pl.pa / 65536 * 65536
        let rl ← look fun s => s.recLine w.part frame
        mergeLine w.part rl
        meetLine rl
        let r ← look fun s => s.frameRec w.part frame
        let starts ← look fun s => s.openStarts w.part frame
        if r.st = 0 then do
          let pts ← ptsOf w.core
          let ts ← appendWrite w.part pts frame ({ r with st := 1 }.settle starts)
          raisePts w.core ts
        else pure ()
        pure (x.lane, frame)) s₂) fun _ s₃ => okB (reserveDst w f.dst s₃) fun _ _ => true) = true := by decide +kernel

/-- A request of 16 bytes for one lane. -/
def labReq (room : Nat) : AppendReq := ⟨0x120000, 0x120000, 16, [0], [0], [⟨List.replicate 16 5, [0], []⟩], [2], .v 8, false, room, 0, false⟩
theorem witness_AppendAnswer : (let r := labReq 64
    let a (st tail limit : Nat) : AppendRec := ⟨tail, tail, limit, st, true⟩
    let k := r.lanes.length * r.n
    decide ((a 1 0 1).st = 1 ∧ (a 0 49 1).st ≠ 2 ∧ 64 * (a 0 49 1).limit < (a 0 49 1).tail + k ∧
      (a 0 49 2).tail + k ≤ 64 * (a 0 49 2).limit ∧ r.room < (a 0 49 2).tail + k ∧
      (a 0 48 1).tail + k ≤ 64 * (a 0 48 1).limit ∧ (a 0 48 1).tail + k ≤ r.room)) = true := by decide +kernel

/-- The machine with an append request outstanding as operation 4. -/
def labGrant (st tail : Nat) (k : OpKind) : State :=
  { labAppend [] st tail with ops := [(4, ⟨⟨2, 1, 0, 0, 0⟩, some 3, k, [.v 0 8], [], none, 9, [], 12⟩)], serial := 5 }
/-- The home event that reads frame 0x120000's record. -/
def recMet (s : State) : Except Stop (Unit × State) := (do mergeLine 0 (s.recLine 0 0x120000); meetLine (s.recLine 0 0x120000)) s
theorem witness_AppendEvents_fault : (let s := labGrant 2 64 (.append (labReq 65536))
    okB (recMet s) fun _ s₁ => (grantFault (labReq 65536) (s₁.frameRec 0 0x120000)).isSome &&
      (s₁.awaiter 4 ⟨2, 1, 0, 0, 0⟩).isNone) = true := by decide +kernel
theorem witness_AppendEvents_grant : (let s := labGrant 0 64 (.append (labReq 65536))
    okB (recMet s) fun _ s₁ => (grantFault (labReq 65536) (s₁.frameRec 0 0x120000)).isNone &&
      (s₁.awaiter 4 ⟨2, 1, 0, 0, 0⟩).isNone && okB (grantAt 0 9 3 0 (labReq 65536) (s₁.frameRec 0 0x120000) s₁) fun _ _ => true) =
    true := by decide +kernel
theorem witness_AppendEvents_offsets : (let g := labGroup []
    let r : AppendReq := { labReq 65536 with lanes := [0, 31] }
    r.lanes.all (fun i => decide (i < 32)) && decide (r.lanes.Nodup ∧ g.lanes.length = 32 ∧ r.dst = .v 8 ∧ r.lanes[1]? = some 31)) =
    true ∧ (let r : AppendReq := { labReq 65536 with lanes := [0], act := [0, 31], dst := .s 8 }
    decide (r.dst = .s 8 ∧ r.act = [0, 31] ∧ (labGroup []).lanes.length = 32)) = true := by decide +kernel
/-- A reservation of 16 bytes that is not complete. -/
def labResv : Resv := ⟨6, 3, 0x120000, 0, ⟨List.replicate 16 5, [0], []⟩, false, 0, 9, 0, 0x120000, 0⟩
theorem witness_AppendEvents_complete : (let s := (labAppend [] 0 16).updPart 0 fun p => { p with resvs := [labResv] }
    match s.part? 0 with
    | none => false
    | some p => decide (p.resvs.find? (fun r => r.id = 6) = some labResv) &&
      okB (setLeafBitAt 0 labResv.clk labResv.entry 7 s) fun _ s₁ =>
      okB (collectM (pieces labResv.start labResv.src.bytes.length) (fun e => do
        let l := (labResv.frame + e.1) / 64
        mergeLine 0 l
        if e.2 < 64 then meetLine l else pure ()
        stampWrite 0 l labResv.clk fun h => LineSt.dirtied { h with lastCore := none, lastMask := 0 } (some labResv.ctx)) s₁) fun ts s₂ =>
        let s₃ := ((s₂.lateLost labResv (s₂.lostPieces labResv)).landBytes 0 labResv).updPart 0 fun p => { p with resvs := p.resvs.filter fun x => x.id ≠ 6 }
        okB (appendWrite 0 (ts.foldl maxN 0) labResv.frame
          ((s₃.frameRec 0 labResv.frame).settle (s₃.openStarts 0 labResv.frame)) s₃) fun _ _ => true) = true := by decide +kernel
theorem witness_AppendEvents_sealing : (let s := labGrant 0 64 (.seal [(.v 0 8, 0x120000)])
    (SMap.get? s.ops 4).isSome && decide (¬(1 ≤ (s.frameRec 0 0x120000).st ∧
      (s.frameRec 0 0x120000).settled = (s.frameRec 0 0x120000).tail))) = true := by decide +kernel
theorem witness_AppendEvents_seal : ([1, 2].all fun st =>
    let s := labGrant st 64 (.seal [(.v 0 8, 0x120000)])
    (SMap.get? s.ops 4).any fun o => decide (1 ≤ (s.frameRec 0 0x120000).st ∧
      (s.frameRec 0 0x120000).settled = (s.frameRec 0 0x120000).tail) &&
      okB (collectM [(RegRef.v 0 8, 0x120000)] (fun e => do
        let r ← look fun s => s.frameRec 0 e.2
        if r.st = 1 then appendWrite 0 o.ts e.2 { r with st := 2 }
        else do
          let (wts, _) ← homeTs 0 ((← look fun s => s.recLine 0 e.2))
          pure wts) s) fun _ _ => true) = true := by decide +kernel

/-! ## Copy engines -/

/-- A command of the pool: 64 bytes between scratchpad rows. -/
def labCmd (form : CopyForm) (st : CmdSt) (done : List Nat) : Cmd :=
  ⟨9, 1, 0, 3, ⟨2, 1, 0, 0, 0⟩, form, .i8, ⟨0, 0xF0000100, 0xF0000200, 64, 0, 0, 0, 0, 3, 0, 0⟩, [], st, 5, false, false, 0, done, false, 0⟩
/-- The machine with a command record in its scratchpad: CTL, ADDRS, ADDRD, LEN, ADDRI, ROWS and both pitches. -/
def labCopy (ctl addrs addrd len addri rows pitch : Nat) : State :=
  (lab [(2, 0xF0000000)]).setSpad labLife 0xF0000000
    (leBytesOf 7 0 ++ leBytesOf 1 ctl ++ leBytesOf 8 0 ++ leBytesOf 8 addri ++ leBytesOf 4 pitch ++ leBytesOf 4 pitch ++
      leBytesOf 4 rows ++ leBytesOf 4 len ++ leBytesOf 8 addrd ++ leBytesOf 8 addrs ++ leBytesOf 8 0)
/-- Whether a copy form of lane 0 is executed and its command is accepted. -/
def copyB (i : Instr) (cf : CopyForm) (s : State) : Bool :=
  issueB i s fun w fm f => src1 (readSrcs w f.imm [srcRaw f.sa] (onward s w fm)) fun a s₁ =>
    let issuers := copyIssuers w f.dst
    decide (s₁.poolUse w.part + issuers.length ≤ Config.maxCmds) &&
      let l := issuers.map fun j => (j, (a j).toNat % 2 ^ 32, CopyRec.ofBytes (s₁.recordBytes w ((a j).toNat % 2 ^ 32)))
      okB (copyChecks w cf f.ty l s₁) fun idx s₂ => okB (copyCommits w (l.map fun e => e.2.2) s₂) fun _ s₃ =>
        okB (collectM (l.zip idx) (fun e => acceptCopy w cf f.ty e.1.2.1 e.1.2.2 e.2) s₃) fun got s₄ =>
          okB (writeDst w f.dst true false (fun j => w64 ((((issuers.zip got).find? fun e => e.1 = j).map (·.2.1)).getD 0)) s₄)
            fun _ s₅ => okB (copyTouches w cf l s₅) fun _ _ => true
/-- A copy form's fields for lane 0. -/
def cf (t : Ty) : Fields := only (fl (.v 8) (.v 2) (.v 0) t)
theorem witness_CopyForms : copyB (.cpy (cf .i8)) .cpy (labCopy 3 0xF0000100 0xF0000200 64 0 0 0) = true ∧
    copyB (.cpy2d (cf .i8)) .cpy2d (labCopy 3 0xF0000100 0xF0000200 16 0 2 64) = true ∧
    copyB (.gather (cf .n32)) .gather (labCopy 0x13 0xF0000100 0xF0000200 2 0xF0000300 0 0) = true ∧
    copyB (.scatter (cf .n32)) .scatter (labCopy 0x13 0xF0000100 0xF0000200 2 0xF0000300 0 0) = true ∧
    copyB (.cfill (cf .n8)) .cfill (labCopy 2 0xAB 0xF0000200 64 0 0 0) = true ∧
    copyB (.cpy (cf .i8)) .cpy (labCopy 0 0x100000 0x110000 64 0 0 0) = true := by decide +kernel
theorem witness_CopyForms_held : issueB (.cpy (cf .i8)) ((labCopy 3 0xF0000100 0xF0000200 64 0 0 0).updPart 0 fun p =>
      { p with cmds := List.replicate Config.maxCmds (labCmd .cpy .running []) }) (fun w fm f =>
    let s := (labCopy 3 0xF0000100 0xF0000200 64 0 0 0).updPart 0 fun p =>
      { p with cmds := List.replicate Config.maxCmds (labCmd .cpy .running []) }
    src1 (readSrcs w f.imm [srcRaw f.sa] (onward s w fm)) fun _ s₁ =>
      decide (Config.maxCmds < s₁.poolUse w.part + (copyIssuers w f.dst).length)) = true := by decide +kernel
theorem witness_CopyForms_late : issueB (.cpy (cf .i8)) (labCopy 3 0xF0000100 0xF0008000 64 0 0 0) (fun w fm f =>
    let s := labCopy 3 0xF0000100 0xF0008000 64 0 0 0
    src1 (readSrcs w f.imm [srcRaw f.sa] (onward s w fm)) fun a s₁ =>
      match copyChecks w .cpy f.ty ((copyIssuers w f.dst).map fun j => (j, (a j).toNat % 2 ^ 32,
        CopyRec.ofBytes (s₁.recordBytes w ((a j).toNat % 2 ^ 32)))) s₁ with
      | .error (.trap t) => t.kind = kLEASE
      | _ => false) = true := by decide +kernel
theorem witness_CopyForms_fault : issueB (.cpy (cf .i8)) (lab [(2, 0xF0000001)]) (fun w fm f =>
    let s := lab [(2, 0xF0000001)]
    src1 (readSrcs w f.imm [srcRaw f.sa] (onward s w fm)) fun a s₁ =>
      (firstFault w ((copyIssuers w f.dst).map fun j => (j, copyCheckA s₁ w .cpy f.ty ((a j).toNat % 2 ^ 32)
        (CopyRec.ofBytes (s₁.recordBytes w ((a j).toNat % 2 ^ 32)))))).isSome) = true := by decide +kernel
theorem witness_CopyForms_accepts : ((lab []).who? (.lane 1 0 0)).any (fun w => ([0, 1, 64].all fun n =>
    let r : CopyRec := ⟨0, 0xF0000100, 0xF0000200, n, 0, 0, 0, 0, 3, 0, 0⟩
    decide (moved .cpy .i8 r [] = n) && okB (acceptCopy w .cpy .i8 0xF0000000 r [] (lab [])) fun _ _ => true)) = true := by
  decide +kernel
theorem witness_CopyForms_pstat : issueB (.pstat (fl (.v 8) (.v 2) (.v 0))) (lab [(2, 1)]) (fun w fm f =>
    src1 (readSrcs w f.imm [srcRaw f.sa] (onward (lab [(2, 1)]) w fm)) fun a s₁ =>
      okB (writeDst w f.dst false false (fun i => (w32 (s₁.pstat w ((a i).toNat % 2 ^ 32))).setWidth 64) s₁) fun _ _ => true) = true := by
  decide +kernel

/-- The machine whose page at 0x110000 is shadowed: descriptor at 0x220000, its pair entry at 0x220040. -/
def labShadow (s : State) : State :=
  ((((s.setLe 0x220000 1 1).setLe (0x220000 + 36) 4 1).setLe (0x220000 + 40) 8 0x110000).setLe (0x220000 + 48) 8 0x228000).setLe
    (0x228000 + 8) 8 0x118000 |> fun s => s.updLaunch 3 fun l =>
      { l with pins := [⟨0, 0x10000, codeLeaf 0, 0⟩, ⟨0x110000, 0x10000, leaf 2 0x110000 ||| w64 (2 ^ 58), 0⟩] }
theorem witness_CopyForms_publish : (let s := labShadow ((lab [(2, 0x110000)]).updPart 0 fun p =>
      { p with cfg := { p.cfg with nctx := 2 } })
    let s := s.setLe (0x200000 + 56) 8 0x220000
    issueB (.publish (cf .i8)) s fun w fm f => src1 (readSrcs w f.imm [srcPair f.sa] (onward s w fm)) fun a s₁ =>
      let issuers := copyIssuers w f.dst
      decide (s₁.poolUse w.part + issuers.length ≤ Config.maxCmds) &&
        (firstFault w (issuers.map fun i => (i, publishFault s₁ w (a i).toNat))).isNone &&
        okB (commitTask w s₁) fun _ s₂ => okB (collectM issuers (fun i => acceptPublish w (a i).toNat) s₂) fun got s₃ =>
          (s₂.part? w.part).isSome && !got.isEmpty && okB (writeDst w f.dst false false
            (fun j => w64 ((((issuers.zip got).find? fun e => e.1 = j).map (·.2.1)).getD 0)) s₃) fun _ _ => true) = true := by
  decide +kernel
theorem witness_CopyForms_unpublished : (let s := lab [(2, 0x110000)]
    issueB (.publish (cf .i8)) s fun w fm f => src1 (readSrcs w f.imm [srcPair f.sa] (onward s w fm)) fun a s₁ =>
      (firstFault w ((copyIssuers w f.dst).map fun i => (i, publishFault s₁ w (a i).toNat))).isSome) = true := by decide +kernel
theorem witness_CopyForms_publishHeld : (let s := (lab [(2, 0x110000)]).updPart 0 fun p =>
      { p with cmds := List.replicate Config.maxCmds (labCmd .publish .waiting []) }
    issueB (.publish (cf .i8)) s fun w fm f => src1 (readSrcs w f.imm [srcPair f.sa] (onward s w fm)) fun _ s₁ =>
      decide (Config.maxCmds < s₁.poolUse w.part + (copyIssuers w f.dst).length)) = true := by decide +kernel
/-- The machine with that command. -/
def labPool (c : Cmd) : State := { (lab []).updPart 0 fun p => { p with cmds := [c] } with cyc := 6 }
theorem witness_CopyEvents_start : (let s := labPool (labCmd .cpy .queued [])
    (s.part? 0).any fun p => decide (p.cmds.find? (fun c => c.st = .queued && c.form ≠ .publish) = some (labCmd .cpy .queued [])) &&
      decide ((p.cmds.filter fun c => c.form ≠ .publish && (c.st = .running || c.st = .waiting) && c.ticket ≠ 0).length < p.engines)) =
    true := by decide +kernel
theorem witness_CopyEvents_end : (let s := labPool (labCmd .cpy .running [0])
    (s.cmd? 0 9).any fun c => decide (c.form ≠ .publish ∧ c.st = .running ∧ c.units ≤ c.done.length)) = true := by decide +kernel
theorem witness_CopyEvents_release : (let s := labPool (labCmd .cpy .waiting [])
    (s.cmd? 0 9).any fun c => decide (c.form ≠ .publish ∧ c.st = .waiting) &&
      (dstRuns c.form c.ty c.cr c.idx).any fun e => !s.lineHeld 0 c e.1) = true := by decide +kernel
theorem witness_CopyEvents_flush : (let s := labPool (labCmd (.flush [⟨0x110000, [(0, [1, 2])], none, false, 0, 0⟩]) .waiting [])
    (s.cmd? 0 9).any fun c => match c.form with
      | .flush l => ((List.range l.length).zip l).any fun e => !c.done.contains e.1 && !s.lineHeld 0 c e.2.va
      | _ => false) = true := by decide +kernel
theorem witness_CopyEvents_line : ([0, 5].all fun line =>
    let s := labPool (labCmd .cpy .running [])
    (s.cmd? 0 9).any fun c =>
      let u := line % max c.places 1
      ((s.part? 0).any fun p => p.pstate = 1) && !c.done.contains u && ((c.lineVa u).all fun va => !s.lineHeld 0 c va) &&
        !(c.pieces u).isEmpty && okB (moveLine 0 c (c.pieces u) s) fun _ _ => true) = true := by decide +kernel
theorem witness_CopyEvents_flushed : (let s := labPool (labCmd (.flush [⟨0x110000, [(0, [1, 2])], none, false, 0, 0⟩]) .running [])
    (s.cmd? 0 9).any fun c => match c.form with
      | .flush l => match l with
        | st :: _ => !s.lineHeld 0 c st.va &&
            okB (landOrStage (engineWho 0 c.ctx c.launch c.owner) (.cmd 9) c.owner false c.clk st s) fun _ _ => true
        | [] => false
      | _ => false) = true := by decide +kernel
theorem witness_CopyEvents_left : (let s := labPool (labCmd .cpy .running [])
    (s.cmd? 0 9).any fun c => decide (c.form ≠ .publish ∧ c.st = .running ∧ c.done.length < c.units)) = true := by decide +kernel
theorem witness_CopyEvents_held : (let s := labShadow (labPool { labCmd .cpy .running [] with
      cr := ⟨0, 0xF0000100, 0x110000, 64, 0, 0, 0, 0, 1, 0, 0⟩ })
    let s := (s.setLe (0x220000 + 8) 8 100).setLe (0x200000 + 56) 8 0x220000
    ((s.part? 0).any fun p => p.pstate = 1) && (s.cmd? 0 9).any fun c =>
      c.st = .running && !c.done.contains 0 && (c.lineVa 0).any fun va => s.lineHeld 0 c va) = true := by decide +kernel
theorem witness_CopyEvents_miss : (let ok (c : Cmd) (f : State → State) (p : State → Cmd → Bool) : Bool :=
      ((f (labPool c)).cmd? 0 9).any (p (f (labPool c)));
    let c := labCmd .cpy .running []
    ok { c with promise := 6 } id (fun s c => !c.overdue s.cyc) &&
    ok { c with cr := { c.cr with ctl := 3 + 8 } } id (fun s c => c.overdue s.cyc &&
      (c.cr.miss || !s.canStop c.owner) && okB (takePromise (moved c.form c.ty c.cr c.idx) 0 s) fun _ _ => true) &&
    ok c id (fun s c => c.overdue s.cyc && !c.cr.miss && s.canStop c.owner && s.runsNow c.owner) &&
    ok c (fun s => withTeam s fun x => { x with run := .halting }) (fun s c =>
      c.overdue s.cyc && !c.cr.miss && s.canStop c.owner && !s.runsNow c.owner)) = true := by decide +kernel
theorem witness_CopyEvents_publish : (let c : Cmd := { labCmd .publish .waiting [] with cr := ⟨0, 0, 0x110000, 0, 0, 0, 0, 0, 0, 0, 0⟩ }
    let s := (labShadow (labPool c)).setLe (0x200000 + 56) 8 0x220000
    match s.shadow 0 0 0x110000 with
    | none => false
    | some sh => !s.publishBlocked 0 c sh.2.2.2.1 sh.2.2.2.2 && okB (publishAt 0 0 c.clk [sh.1] s) fun _ _ => true) = true := by
  decide +kernel

theorem witness_CopyEvents_blocked : (let c : Cmd := { labCmd .publish .waiting [] with id := 10, cr := ⟨0, 0, 0x110000, 0, 0, 0, 0, 0, 0, 0, 0⟩ }
    let before : Cmd := { labCmd .cpy .running [] with cr := ⟨0, 0xF0000100, 0x110000, 64, 0, 0, 0, 0, 1, 0, 0⟩ }
    let s := (labShadow (labPool c)).setLe (0x200000 + 56) 8 0x220000 |> fun s => s.updPart 0 fun p => { p with cmds := [before, c] }
    match s.shadow 0 0 0x110000 with
    | none => false
    | some sh => s.cmd? 0 10 = some c && s.publishBlocked 0 c sh.2.2.2.1 sh.2.2.2.2) = true := by decide +kernel

/-! ## Matrix engine -/

/-- Lane registers of a matrix operand: blocks of 8-bit integers (code 0x50) with scale 127 from v16 and from v32. -/
def matRegs' : SMap Word :=
  ((List.range 16).map fun i => (16 + i, (0x7F500000 : Word))) ++
    ((List.range 16).map fun i => (32 + i, (0x7F500000 : Word)))
/-- The machine with those registers, descriptors in the scalar pairs s2 and s4 and the accumulator's in s6. -/
def labMat : State := (lab matRegs').updGroup (.lane 1 0 0) fun g => { g with sreg := [(2, 0xF0000000), (4, 0xF0001000), (6, 0xF0000800)] }
/-- The front context with descriptors in k2, k4 and k6. -/
def labMatF : State := labF [(2, 0xF0000000), (4, 0xF0000400), (6, 0x20F0000800)]
/-- Whether a form of the matrix engine is executed and its command is accepted. -/
def matB (i : Instr) (s : State) (srcs : Fields → List SrcSpec) (form : State → Who → Fields → (Nat → DWord) → MatForm)
    (acc : Nat) : Bool :=
  issueB i s fun w fm f => okB (readSrcs w f.imm (srcs f) (onward s w fm)) fun vals s₁ =>
    let x (n : Nat) : DWord := (vals.getD n fun _ => 0) w.low
    okB (acceptMat w (form s₁ w f x) ((x acc).setWidth 32) s₁) fun _ _ => true
/-- Whether an `mma` is executed and its command is accepted. -/
def mmaB (i : Instr) (s : State) : Bool :=
  matB i s (fun f => [srcRaw f.dst, srcPair f.sa, srcPair f.sb]) (fun s w f x =>
    let k := kSteps (f.mod.getLsbD 0)
    .mma (f.mod.getLsbD 0) (f.mod.getLsbD 1) (matSrc s w f.sa k (x 1)) (matSrc s w f.sb k (x 2))) 0
theorem witness_MatrixForms_mma : mmaB (.mmaRr (fl (.s 6) (.v 16) (.v 32) .blk 2)) labMat = true ∧
    mmaB (.mmaRs (fl (.s 6) (.v 16) (.s 2) .blk)) labMat = true ∧ mmaB (.mmaSr (fl (.s 6) (.s 4) (.v 32) .blk)) labMat = true ∧
    mmaB (.mmaSs (fl (.k 6) (.k 2) (.k 4) .blk 1)) labMatF = true := by decide +kernel
theorem witness_MatrixForms_rows : matB (.mzero (fl (.k 6) (.v 0) (.v 0))) labMatF (fun f => [srcRaw f.dst]) (fun _ _ _ _ => .mzero) 0 =
      true ∧
    matB (.mscale (fl (.k 6) (.immS 255) (.v 0))) labMatF (fun f => [srcRaw f.dst, srcRaw f.sa])
      (fun _ _ _ x => .mscale ((x 1).setWidth 32)) 0 = true ∧
    matB (.mcvt (fl (.k 6) (.k 2) (.immS 0) .f16)) labMatF (fun f => [srcPair f.dst, srcRaw f.sa, srcRaw f.sb])
      (fun _ _ f x => .mcvt f.ty f.mod ((x 2).setWidth 32) (x 0)) 1 = true := by decide +kernel

/-- A command of the engine with blocks read and rows done. -/
def labMCmd (blocks rows : Nat) (failed : Bool) : MCmd :=
  ⟨9, ⟨2, 1, 0, 0, 0⟩, 3, .mma false false (.sp 0xF0000000 64) (.sp 0xF0001000 64), 0xF0000800, List.replicate blocks
    ⟨List.replicate 64 1, 0x7F50, false⟩, rows, [], failed, false, 5⟩
/-- Whether an `mma` of scratchpad operands is executed, and its command's checks pass a test. -/
def mmaBad (acc : DWord) (full : Bool) (p : Option CmdFault → Option Trap → Nat → Bool) : Bool :=
  let s := (labF [(2, 0xF0000000), (4, 0xF0000400), (6, acc)]).updCore 0 fun k =>
    { k with mq := if full then List.replicate Config.maxMat (labMCmd 0 0 false) else [] }
  let i := Instr.mmaSs (fl (.k 6) (.k 2) (.k 4) .blk 1)
  issueB i s fun w fm f => okB (readSrcs w f.imm [srcRaw f.dst, srcPair f.sa, srcPair f.sb] (onward s w fm)) fun vals s₁ =>
    let x (n : Nat) : DWord := (vals.getD n fun _ => 0) w.low
    let mf : MatForm := .mma true false (matSrc s₁ w f.sa 2 (x 1)) (matSrc s₁ w f.sb 2 (x 2))
    p (matFault s₁ w mf ((x 0).setWidth 32)) (matFormat w mf) (s₁.core w.core).mq.length
theorem witness_MatrixForms_fault : mmaBad 0xF0000801 false (fun e _ _ => e.isSome) = true ∧
    mmaBad 0xF0000800 true (fun e t n => e.isNone && t.isNone && decide (Config.maxMat ≤ n)) = true := by decide +kernel
theorem witness_MatrixForms_regFormat : (let s := labMat.updGroup (.lane 1 0 0) fun g => g.updLane 0 fun l => { l with v := [] }
    issueB (.mmaRs (fl (.s 6) (.v 16) (.s 2) .blk)) s fun w fm f =>
      okB (readSrcs w f.imm [srcRaw f.dst, srcPair f.sa, srcPair f.sb] (onward s w fm)) fun vals s₁ =>
        let x (n : Nat) : DWord := (vals.getD n fun _ => 0) w.low
        let mf : MatForm := .mma false false (matSrc s₁ w f.sa 1 (x 1)) (matSrc s₁ w f.sb 1 (x 2))
        (matFault s₁ w mf ((x 0).setWidth 32)).isNone && (matFormat w mf).isSome) = true := by decide +kernel
theorem witness_MatrixForms_accepts : ((lab []).who? (.lane 1 0 0)).any (fun w =>
    okB (leaveDirect w (lab [])) (fun _ t => t == lab []) && okB (acceptMat w .mzero 0xF0000800 (lab [])) fun _ _ => true) = true := by
  decide +kernel

/-- The machine with that command at the head of its core's queue. -/
def labEngine (c : MCmd) : State := (lab []).updCore 0 fun k => { k with mq := [c] }
theorem witness_MatrixForms_block : (let s := labEngine (labMCmd 3 0 false)
    decide (s.partOfCore 0 = some 0) && (s.matHead 0).any fun c => decide (c.failed = false ∧ c.rows < 16 ∧
      c.blocks.length + 1 < c.blockAddrs.length) && (c.blockAddrs[c.blocks.length]?).any fun a => okB (c.row 0 a s) fun _ _ => true) =
    true := by decide +kernel
theorem witness_MatrixForms_badFormat : ([true, false].all fun good =>
    let b : Block := ⟨List.replicate 64 1, if good then 0x7F50 else 0x7F00, false⟩
    let s := labEngine { labMCmd 31 0 false with blocks := List.replicate 31 b }
    (s.matHead 0).any fun c => (c.blockAddrs[c.blocks.length]?).any fun a => okB (c.row 0 a s) fun b _ =>
      let c' : MCmd := { c with blocks := c.blocks ++ [{ b with tag := if good then 0x7F50 else b.tag }] }
      decide (c'.blocks.length = c'.blockAddrs.length) && (c'.format.isNone = good)) = true := by decide +kernel
theorem witness_MatrixForms_rows2 : ([MatForm.mzero, .mscale 0xFF, .mma false false (.sp 0xF0000000 64) (.sp 0xF0001000 64)].all fun mf =>
    let s := labEngine { labMCmd (match mf with | .mma .. => 32 | _ => 0) 15 false with form := mf }
    (s.matHead 0).any fun c => decide (c.failed = false ∧ c.rows < 16 ∧ c.blockAddrs.length ≤ c.blocks.length) &&
      ((accRows c.acc)[c.rows]?).any fun a => okB (c.row 0 a s) fun _ s₁ => (s₁.cmdSpad c.owner.life a).isSome) = true := by
  decide +kernel
theorem witness_MatrixForms_cvt : ([0, 15].all fun n =>
    let s := labEngine { labMCmd 0 n false with form := .mcvt .f16 0 0 0x20F0002000 }
    (s.matHead 0).any fun c => decide (c.failed = false ∧ c.rows < 16 ∧ c.blockAddrs.length ≤ c.blocks.length) &&
      okB (matRow 0 0 c s) fun _ _ => true) = true := by decide +kernel
theorem witness_MatrixForms_notOver : ((labEngine (labMCmd 32 15 false)).matHead 0).any (fun c => decide (c.failed = false ∧ c.rows < 16)) =
    true := by decide +kernel
theorem witness_MatrixForms_row : ([0, 15].all fun n =>
    let s := labEngine (labMCmd 32 n false)
    (s.matHead 0).any fun c => decide (c.failed = false ∧ c.rows < 16 ∧ c.blockAddrs.length ≤ c.blocks.length) &&
      okB (matRow 0 0 c s) fun _ _ => true) = true := by decide +kernel
theorem witness_MatrixForms_end : ([labMCmd 32 16 false, labMCmd 32 0 true].all fun c =>
    ((labEngine c).matHead 0).any fun c => decide (c.failed = true ∨ 16 ≤ c.rows)) = true := by decide +kernel

/-! ## Gongs -/

/-- Whether a gong form with one source is executed, and the gong that it names passes a test. -/
def gongB (i : Instr) (s : State) (p : Who → Option Gong → Word → State → Bool) : Bool :=
  issueB i s fun w fm f => src1 (readSrcs w f.imm [srcRaw f.sa] (onward s w fm)) fun a s₁ =>
    p w (s₁.gong? w.core (gongIndex f.dst)) ((a w.low).setWidth 32) s₁
/-- The small machine with a count in gong 1. -/
def labRung (n count : Nat) (regs : SMap Word) : State :=
  (lab regs).updCore 0 fun k => { k with gongs := SMap.put k.gongs 1 ⟨2, true, 0, n, count, 0⟩ }
theorem witness_Gongs_other : ([Instr.gset (fl (.g 2) (.v 2) (.v 0)), .garm (fl (.g 2) (.v 2) (.v 0))].all fun i =>
      gongB i (lab [(2, 4)]) fun w g _ _ => g.any fun g => g.holder ≠ w.life) = true ∧
    issueB (.sign (fl (.g 2) (.v 0) (.v 0))) (lab []) (fun w _ f =>
      ((lab []).gong? w.core (gongIndex f.dst)).any fun g => g.holder ≠ w.life) = true := by decide +kernel
theorem witness_Gongs_counting : ([Instr.gset (fl (.g 1) (.v 2) (.v 0)), .garm (fl (.g 1) (.v 2) (.v 0))].all fun i =>
    gongB i (labRung 4 1 [(2, 4)]) fun w g _ _ => g.any fun g => decide (g.holder = w.life ∧ g.count ≠ 0)) = true := by decide +kernel
theorem witness_Gongs_free : gongB (.garm (fl (.g 9) (.v 2) (.v 0))) (lab [(2, 4)]) (fun _ g _ _ => g.isNone) = true ∧
    ([3, 9].all fun (n : BitVec 4) => issueB (.sign (fl (.g n) (.v 0) (.v 0))) (lab []) fun w _ f =>
      match (lab []).gong? w.core (gongIndex f.dst) with
      | none => n = 9
      | some g => decide (g.holder = w.life ∧ (g.armed = false ∨ g.n = 0))) = true := by decide +kernel
theorem witness_Gongs_record : ([0xF0000041, 0xF0008000].all fun (a : Word) => gongB (.garm (fl (.g 3) (.v 2) (.v 0))) (lab [(2, a)])
    fun w g v s₁ => (g.any fun g => decide (g.holder = w.life ∧ g.count = 0)) &&
      (decide (v.toNat % 64 ≠ 0) || spadBad (s₁.laneSpad w.life v.toNat) v.toNat 64)) = true := by decide +kernel
/-- Gong 1 one sign before the end of its round, its record at an address. -/
def labLast (a : Word) : State := (labCopy 3 0xF0000100 0xF0000200 64 0 0 0).updCore 0 fun k =>
  { k with gongs := SMap.put k.gongs 1 ⟨2, true, 0, 4, 3, a⟩ }
theorem witness_Gongs_last : ([0xF0000000, 0xF0008000].all fun (a : Word) => issueB (.sign (fl (.g 1) (.v 0) (.v 0))) (labLast a) fun w fm f =>
    let s := onward (labLast a) w fm
    ((labLast a).gong? w.core (gongIndex f.dst)).any fun g => decide (g.holder = w.life ∧ g.armed = true ∧ g.n ≠ 0 ∧ g.n ≤ g.count + 1) &&
      (if spadBad (s.laneSpad w.life g.recAddr.toNat) g.recAddr.toNat 64 then a = 0xF0008000
       else okB (boundIssue w g.recAddr.toNat (s.recordBytes w g.recAddr.toNat) s) fun _ _ => true)) = true := by decide +kernel
theorem witness_Gongs_gset : ([0, 1, 4095, 4096].all fun n => gongB (.gset (fl (.g 1) (.v 2) (.v 0))) (lab [(2, n)]) fun w g v _ =>
    decide (v = n) && g.all fun g => decide (g.holder = w.life ∧ g.count = 0)) = true ∧
    gongB (.gset (fl (.g 9) (.v 2) (.v 0))) (lab [(2, 4)]) (fun _ g _ _ => g.isNone) = true := by decide +kernel
theorem witness_Gongs_garm : gongB (.garm (fl (.g 3) (.v 2) (.v 0))) (lab [(2, 0xF0000040)]) (fun w g v s₁ =>
    (g.any fun g => decide (g.holder = w.life ∧ g.count = 0)) && decide (v.toNat % 64 = 0) &&
      !spadBad (s₁.laneSpad w.life v.toNat) v.toNat 64) = true := by decide +kernel
theorem witness_Gongs_sign : ([0, 2].all fun n => issueB (.sign (fl (.g 1) (.v 0) (.v 0))) (labRung 4 n []) fun w _ f =>
    ((labRung 4 n []).gong? w.core (gongIndex f.dst)).any fun g =>
      decide (g.holder = w.life ∧ g.armed = true ∧ g.count + 1 < g.n)) = true := by decide +kernel
theorem witness_Gongs_gstat : ([1, 2, 9].all fun (n : BitVec 4) => issueB (.gstat (fl (.v 8) (.g n) (.v 0))) (lab []) fun w fm f =>
    okB (writeDst w f.dst false false (fun _ => (w32 ((onward (lab []) w fm).gstat w (gongIndex f.sa))).setWidth 64)
      (onward (lab []) w fm)) fun _ _ => true) = true := by decide +kernel

end Sys2Proof.Tests
end

