-- ==== Sys2Proof/Tests/WitnessForms.lean ====
section
/-!
SUPPORT. For each statement about the encodings, the register forms and control flow, and for each of its clauses, a
concrete state and operands that meet its premises together. `issueB_spec` turns the check `issueB` into the premise
`Issues` of the statements.
-/

set_option Elab.async false

namespace Sys2Proof.Tests

open Sys2Proof Sys2Proof.Machine Sys2Proof.Claims

/-! ## Encodings -/

theorem witness_DecodeOfEncode : (Instr.mad (fl (.v 511) (.v 1) (.immS 255) .i32 1 5)).wellFormed = true ∧
    encode (Instr.mad (fl (.v 511) (.v 1) (.immS 255) .i32 1 5)) = some (word96 5 0x00FFF201 0x1015E7FC) := by decide
theorem witness_EncodeOfDecode : decode (word96 5 0x00FFF201 0x1015E7FC) =
      .ok (Instr.mad (fl (.v 511) (.v 1) (.immS 255) .i32 1 5)) ∧
    Header.wellFormed ⟨15, 0xFFF, some 11, some 0, some 15, 2, true, 63⟩ = true ∧
    decodeHeader (word96 0 0x00400000 0xFF200188) = some ⟨2, 1, some 1, none, none, 0, true, 0⟩ :=
  ⟨rfl, by decide, by decide⟩

/-! ## Operands -/

theorem witness_PlainSourcesRead : issueB (.add (r3 .i32)) (lab []) (fun w _ _ =>
    [srcTyped .i32 (.v 511), srcPair (.s 126), srcRaw (.p 15), srcTyped .n64 (.immS 255), srcRaw .immL].all fun sp =>
      plainSrc w sp.opnd) = true ∧
    issueB (.add (fl (.k 8) (.k 2) (.k 4) .i32)) (labF []) (fun w _ _ =>
      [srcTyped .i64 (.k 63), srcRaw (.immS 0)].all fun sp => plainSrc w sp.opnd) = true := by decide +kernel

theorem witness_PlainSourcesRead_special : ([Sreg.cyc, .laneid, .pix].all fun r =>
    ((lab []).who? (.lane 1 0 0)).any fun w => ((lab []).special w 0 r).isSome) = true := by decide +kernel

/-- The premises of `ResultLands` that speak of the issuer. -/
def landsB (i : Instr) (s : State) (o : Opnd) : Bool :=
  issueB i s fun w _ _ => plainDst w o && w.takesPart &&
    (if w.front then (s.prog? w.agent).isSome else (s.group? w.agent).any fun g => g.lanes.length = 32) &&
    decide ((∀ i ∈ w.act, i < 32) ∧ w.act.Nodup)

theorem witness_ResultLands : ([.v 0, .v 510, .s 126, .p 15, .p 0].all (landsB (.add (r3 .i32)) (lab []))) = true ∧
    ([.k 0, .k 63].all (landsB (.add (fl (.k 8) (.k 2) (.k 4) .i32)) (labF []))) = true := by decide +kernel

/-! ## Register forms -/

/-- Whether a result form executes: its sources are read and its result is written. -/
def writesB (table : Instr → Option ResultForm) (s : State) (i : Instr) : Bool :=
  match table i with
  | none => false
  | some k => issueB i s fun w fm f =>
    okB (readSrcs w f.imm (k.srcs f) (onward s w fm)) fun vals s₁ =>
      okB (writeDst w f.dst (k.wide f) (k.signed f) (k.value w f fun n => vals.getD n fun _ => 0) s₁) fun _ _ => true

theorem witness_IntegerArithmetic : ([.add (r3 .i32), .sub (r3 .n32), .mul (r3 .i64), .mulhi (r3 .n64), .mad (r4 .i32),
    .madhi (r4 .n32), .min (r3 .i32), .max (r3 .n32), .abs (r2 .i32), .neg (r2 .i64)].all
      (writesB arithmetic (lab [(2, 5), (4, 7)]))) = true ∧
    writesB arithmetic (labF [(2, 5)]) (.add (fl (.k 8) (.k 2) (.immS 255) .i64)) = true ∧
    writesB arithmetic (lab []) (.add (fl (.q 1) (.q 0) (.v 4) .i32)) = true := by decide +kernel
theorem witness_CountForms : ([.popc (r2 .n32), .clz (r2 .n64), .ctz (r2 .n32), .bperm (r3 .n32)].all
    (writesB counts (lab [(2, 5), (4, 7)]))) = true := by decide +kernel
theorem witness_SelectForms : ([.sel (r4 .n64), .setp (fl (.p 2) (.v 2) (.v 4) .i32 5), .pand (fl (.p 3) (.p 1) (.p 2)),
    .por (fl (.p 3) (.p 1) (.p 2)), .pxor (fl (.p 3) (.p 1) (.p 2)), .pnot (fl (.p 15) (.p 1) (.v 0)), .mov (r2 .n64)].all
      (writesB selects (lab [(2, 5), (4, 7)]))) = true ∧
    writesB selects (labF []) (.mov (fl (.k 8) (.k 2) (.v 0) .n64)) = true := by decide +kernel
theorem witness_FloatForms : ([.fadd (r3 .h2), .fsub (r3 .f64), .fmul (r3 .bf16), .ffma (r4 .f32), .fmin (r3 .f32),
    .fmax (r3 .h2), .fneg (r2 .f16), .fsetp (fl (.p 2) (.v 2) (.v 4) .f32 7), .fclass (r2 .f32), .frnd (r2 .f32), .fscale (r3 .f32),
    .fdot2 { r4 .h2 with imm := 6 }, .frcp (r2 .f32), .frsq (r2 .f16), .fsqrt (r2 .f64), .fexp2 (r2 .h2), .flog2 (r2 .f32),
    .fsin (r2 .f32), .fcos (r2 .f32), .ftanh (r2 .f32)].all
      (writesB floats (lab [(2, 0x3F800000), (4, 0x40000000)]))) = true := by decide +kernel
theorem witness_ExchangeForms : ([.shfl { r3 .n32 with mod := 3 }, .vote { r2 .i8 with mod := 2 }, .ballot (r2 .i8),
    .redadd (r2 .f32), .redmax (r2 .i64), .scan { r2 .n32 with mod := 5 }].all
      (writesB exchanges (lab [(2, 5), (4, 7)]))) = true := by decide +kernel

theorem witness_AddWithCarry : issueB (.addc (r3 .i64)) (lab [(2, 5)]) (fun w fm f => !w.front &&
    src2 (readSrcs w f.imm (two f) (onward (lab [(2, 5)]) w fm)) fun a b s₁ =>
      let n := 2 ^ tyBits f.ty
      let sum (i : Nat) : Nat := (a i).toNat % n + (b i).toNat % n + (if ((s₁.groupOf w).lane i).pred 13 then 1 else 0)
      okB (writeDst w f.dst f.ty.wide f.ty.signed (fun i => w64 (sum i % n))
        (s₁.updGroup w.agent fun g => g.updLanes w.act fun i l => l.setPred 13 (decide (n ≤ sum i)))) fun _ _ => true) = true := by
  decide +kernel

theorem witness_AddWithCarry_front : (let s := labF [(2, 5)]
    issueB (.addc (fl (.k 8) (.k 2) (.k 4) .i64)) s fun w fm f => w.front && src2 (readSrcs w f.imm (two f) (onward s w fm)) fun a b s₁ =>
      let n := 2 ^ tyBits f.ty
      [true, false].all fun c => okB (writeDst w f.dst f.ty.wide f.ty.signed
        (fun i => w64 (((a i).toNat % n + (b i).toNat % n + (if c then 1 else 0)) % n)) { s₁ with free := s₁.free + 1 }) fun _ _ => true) =
      true := by decide +kernel

theorem witness_BitForms : ([.andb (r3 .n32), .orb (r3 .n64), .xorb (r3 .n32), .notb (r2 .n32), .andn (r3 .n32), .shl (r3 .n64),
    .shr (r3 .n32), .sar (r3 .i64), .rol (r3 .n32), .bfx (r4 .i64), .bfi (r4 .n32), .brev (r2 .n32)].all fun i =>
      match bitwise i with
      | none => false
      | some k => issueB i (lab [(2, 5), (4, 300)]) fun w fm f =>
        okB (readSrcs w f.imm (k.1 f) (onward (lab [(2, 5), (4, 300)]) w fm)) fun vals s₁ =>
          okB (writeDst w f.dst f.ty.wide f.ty.signed (vals.getD 0 fun _ => 0) s₁) fun _ _ => true) = true := by decide +kernel

theorem witness_MoveForms :
    ([Instr.movi (fl (.v 8) (.v 0) (.v 0) .i8 0 7), .movi (fl (.v 510) (.v 0) (.v 0) .i8 1 7), .movi (fl (.s 126) (.v 0) (.v 0) .i8 1 7)].all fun i =>
      issueB i (lab []) fun w _ f => plainDst w f.dst && decide (((lab []).groupOf w).lanes.length = 32)) = true ∧
    issueB (.movi (fl (.k 63) (.v 0) (.v 0) .i8 1 7)) (labF []) (fun w _ f => plainDst w f.dst) = true ∧
    ([Opnd.v 8, .s 8].all fun d => issueB (.lea (fl d (.s 2) (.immS 255))) (lab []) fun w fm f =>
      okB (readEa w f (onward (lab []) w fm)) fun ea s₁ => okB (writeDst w f.dst true false (fun i =>
        w64 (if w.front = false ∧ inWindow (ea i) = true then s₁.windowTarget w i (ea i - Config.privBase) else ea i)) s₁)
        fun _ _ => true) = true ∧
    issueB (.swr (fl (.spec .pix) (.v 2) (.v 0))) (lab [(2, 31)]) (fun w fm f =>
      src1 (readSrcs w f.imm [srcRaw f.sa] (onward (lab [(2, 31)]) w fm)) fun _ s₁ => (s₁.group? w.agent).isSome) = true ∧
    ([256, 265, 272, 277, 278, 5].all fun n => issueB (.srd (fl (.v 8) (.v 2) (.v 0))) (lab [(2, n)]) fun w fm f =>
      src1 (readSrcs w f.imm [srcRaw f.sa] (onward (lab [(2, n)]) w fm)) fun a s₁ =>
        ((w.low :: w.act).all fun i => (a i).toNat % 2 ^ 32 ≠ 266) &&
        okB (writeDst w f.dst false false (fun i =>
          match Sreg.ofIndex ((a i).toNat % 2 ^ 32) with
          | none => 0
          | some r => ((s₁.special w i r).getD (w32 (Config.freeNat (Config.freeNat s₁.free + i)))).setWidth 64)
          { s₁ with free := s₁.free + 1 }) fun _ _ => true) = true := by decide +kernel

theorem witness_MoveForms_dq : (let s := withTeam (lab [(2, 266)]) fun x => { x with dq := [(5, 7)] }
    issueB (.srd (fl (.v 8) (.immL) (.v 0) .i8 0 266)) s fun w fm f => popsNothing w f.sa &&
      src1 (readSrcs w f.imm [srcRaw f.sa] (onward s w fm)) fun a s₁ => ((w.low :: w.act).all fun i => (a i).toNat % 2 ^ 32 = 266) &&
        okB (popDecision w s₁) fun d s₂ =>
          let s₃ : State := s₂.updGroup w.agent fun y => y.updLanes w.act fun i l => l.setPred 14 (d.2 i)
          okB (writeDst w f.dst false false (fun i => ((d.1 i).setWidth 32).setWidth 64) { s₃ with free := s₃.free + 1 }) fun _ _ =>
            true) = true := by decide +kernel

theorem witness_NaNRules : ([(Fmt.f16, 0x7E00, 0x3C00), (.bf16, 0x7FC0, 0x3F80), (.f32, 0x7F800001, 0x3F800000),
    (.f64, 0x7FF8000000000000, 0)].all fun e => e.1 ∈ [Fmt.f16, Fmt.bf16, Fmt.f32, Fmt.f64] ∧ e.1.decode e.2.1 = .nan ∧
      e.1.decode e.2.2 ≠ .nan) = true := by decide +kernel

theorem witness_ConvertForms :
    ([(Ty.h2, fl (.v 8) (.v 2) (.v 0) .f32), (.f32, fl (.v 8) (.v 2) (.v 0) .h2), (.f32, fl (.v 8) (.v 2) (.v 0) .i64 7),
      (.n64, fl (.v 8) (.v 2) (.v 0) .f16)].all fun e => issueB (.cvt e.1 e.2) (lab [(2, 7)]) fun w fm f =>
        src1 (readSrcs w f.imm [if e.1 ≠ .h2 ∧ f.ty = .h2 then srcPair f.sa else srcTyped e.1 f.sa] (onward (lab [(2, 7)]) w fm))
          fun a s₁ => okB (writeDst w f.dst (decide (e.1 = .h2) || f.ty.wide) false a s₁) fun _ _ => true) = true ∧
    ([Instr.cvt8 (fl (.v 8) (.v 2) (.v 4) .f32), .bscale (r3 .i8), .bunpack (fl (.v 8) (.v 2) (.v 4) .f16)].all fun i =>
      issueB i (lab [(2, 7), (4, 0x114)]) fun w fm f =>
        src2 (readSrcs w f.imm [srcRaw f.sa, srcRaw f.sb] (onward (lab [(2, 7), (4, 0x114)]) w fm)) fun a _ s₁ =>
          okB (writeDst w f.dst false false a s₁) fun _ _ => true) = true ∧
    ([0, 0x50, 255].all fun n => issueB (.bpack (fl (.v 8) (.v 16) (.v 4) .f32)) (lab [(4, n)]) fun w fm f => plainDst w f.dst &&
      src1 (readSrcs w f.imm [srcRaw f.sb] (onward (lab [(4, n)]) w fm)) fun c _ =>
        decide ((c w.low).toNat = n.toNat)) = true ∧
    elemOf 0x50 ≠ none ∧ elemOf 255 = none := by decide +kernel

theorem witness_RegisterFormFrame :
    ([Instr.add (r3 .i32), .fadd (r3 .f32), .ballot (r2 .i8), .popc (r2 .n32), .setp (fl (.p 2) (.v 2) (.v 4) .i32)].all fun i =>
      match resultForm i with
      | none => false
      | some k => issueB i (lab []) fun w _ f => ((k.srcs f).all fun sp => plainSrc w sp.opnd) && plainDst w f.dst &&
          nextB (exec i (lab [])) fun _ => true) = true ∧
    issueB (.shl (r3 .n32)) (lab []) (fun w _ f =>
      (match bitwise (.shl f) with | none => false | some k => (k.1 f).all fun sp => plainSrc w sp.opnd) && plainDst w f.dst &&
        nextB (exec (.shl (r3 .n32)) (lab [])) fun _ => true) = true := by decide +kernel

/-! ## Control flow -/

/-- Whether an instruction is executed and reads one pair that passes a test. -/
def pairB (i : Instr) (s : State) (p : Who → (Nat → DWord) → State → Bool) : Bool :=
  issueB i s fun w fm f => src1 (readSrcs w f.imm [srcPair f.sa] (onward s w fm)) fun a s₁ => p w a s₁

theorem witness_Transfers : issueB (.nop none') (lab []) (fun _ _ _ => true) = true ∧
    issueB (.bra { none' with imm := 0xFFFFFFFF }) (lab []) (fun _ _ _ => true) = true ∧
    pairB (.brx (fl (.v 0) (.k 2) (.v 0))) (labF [(2, 96)]) (fun w a _ => w.actors.all fun i => (a i).toNat % 48 = 0) = true ∧
    pairB (.brx (fl (.v 0) (.s 2) (.v 0))) (lab []) (fun w a _ => w.actors.all fun i => (a i).toNat % 48 = 0) = true ∧
    pairB (.brx (fl (.v 0) (.k 2) (.v 0))) (labF [(2, -48)]) (fun w a _ => w.actors.all fun i => (a i).toInt % 48 = 0) = true ∧
    pairB (.jmpx (fl (.v 0) (.v 2) (.v 0))) (lab [(2, 96)]) (fun w a _ => w.actors.all fun i => (a i).toNat % 48 = 0) = true ∧
    ([0, 1, 0x100000000].all fun (n : DWord) => issueB (.bru (fl (.v 0) (.k 2) (.v 0))) (labF [(2, n)]) fun w fm f =>
      src1 (readSrcs w f.imm [srcRaw f.sa] (onward (labF [(2, n)]) w fm)) fun a _ =>
        decide ((a 0).setWidth 32 = n.setWidth 32)) = true := by decide +kernel

theorem witness_MisalignedTarget :
    ([Instr.jmpx (fl (.v 0) (.v 2) (.v 0)), .callx (fl (.v 0) (.v 2) (.v 0)), .reform (fl (.v 0) (.v 2) (.v 0) .i8 0 1)].all fun i =>
      pairB i (lab [(2, 47)]) fun w a _ => w.actors.any fun j => (a j).toNat % 48 ≠ 0) = true ∧
    ([1, -47, -16].all fun (n : DWord) => pairB (.brx (fl (.v 0) (.k 2) (.v 0))) (labF [(2, n)]) fun w a _ =>
      w.actors.any fun j => (a j).toInt % 48 ≠ 0) = true := by decide +kernel

/-- Lane 0 and 1 with a return depth. -/
def labDeep (n : Nat) : State :=
  (lab []).updGroup (.lane 1 0 0) fun g => { g with lanes := g.lanes.map fun l => { l with rsd := n } }

/-- The front context with one return address. -/
def labCalled : State := withTeam (labF []) fun x => { x with front := { x.front with stack := [96] } }
/-- The front context with a rendezvous that waits for one program. -/
def labForked : State := withTeam (labF []) fun x => { x with front := { x.front with rdv := some ⟨48, 2, 0⟩ } }

theorem witness_CallsAndReturns :
    ([(lab []), labF [], labDeep 127].all fun s => issueB (.call { none' with imm := 1 }) s fun w fm _ =>
      okB (pushReturn w (onward s w fm)) fun _ _ => true) = true ∧
    ([(lab [(2, 48)], Opnd.v 2), (labF [(2, 48)], .k 2)].all fun e => pairB (.callx (fl (.v 0) e.2 (.v 0))) e.1 fun w a s₁ =>
      (w.actors.all fun i => (a i).toNat % 48 = 0) && okB (pushReturn w s₁) fun _ _ => true) = true ∧
    issueB (.call { none' with imm := 1 }) (labF []) (fun w fm _ => w.front && ((labF []).prog? w.agent).isSome &&
      okB (pushReturn w (onward (labF []) w fm)) fun _ _ => true) = true ∧
    issueB (.ret none') (labF []) (fun w _ _ => w.front && decide (((labF []).progOf w).stack = [])) = true ∧
    issueB (.ret none') labCalled (fun w _ _ => w.front && decide ((labCalled.progOf w).stack.getLast? = some 96)) = true ∧
    issueB (.ret none') (lab []) (fun w _ _ => !w.front && w.act.all fun i => (((lab []).groupOf w).lane i).rsd = 0) = true ∧
    ([1, 128].all fun n => issueB (.ret none') (labDeep n) fun w fm _ =>
      let s := labDeep n
      let l : List Acc := w.act.map fun i =>
        ⟨i, Config.privBase + 0x3C00 + 8 * ((((s.groupOf w).lane i).rsd - 1) % 128),
          s.windowTarget w i (0x3C00 + 8 * ((((s.groupOf w).lane i).rsd - 1) % 128))⟩
      !w.front && (w.act.all fun i => ((s.groupOf w).lane i).rsd ≠ 0) && decide w.act.Nodup &&
      (accessFault (onward s w fm) w 8 8 [rightR] false l).isNone &&
      okB (collectM l (fun a => genRead w a.va 8 .near) (onward s w fm)) fun got s₁ =>
        (got.all fun e => leOf e.1 % 48 = 0 && !e.2) &&
        (w.act.zip got).all fun e => e.1 < (s₁.groupOf w).lanes.length) = true := by decide +kernel

theorem witness_ExitAndReform : issueB (.exitLane none') (labF []) (fun w _ _ => w.front) = true ∧
    issueB (.exitLane none') (lab []) (fun w _ _ => !w.front && w.act.all fun i => i < ((lab []).groupOf w).lanes.length) = true ∧
    pairB (.reform (fl (.v 0) (.v 2) (.v 0) .i8 0 16)) (lab [(2, 96)]) (fun w a s₁ =>
      (w.actors.all fun i => (a i).toNat % 48 = 0) && w.act.all fun i => i < (s₁.groupOf w).lanes.length) = true := by
  decide +kernel

/-- The group inside a clause of two slots, quad 1 in a gang of its own before a slot of it. -/
def labSplit (slot : Nat) : State := (lab []).updGroup (.lane 1 0 0) fun g =>
  let l : Latch := { atSlotOne with hdr := { atSlotOne.hdr with count := 2 } }
  { g with quads := [{ g.quad 0 with latch := some l }, { g.quad 1 with latch := some { l with gang := 1, slot := slot }, gang := 1 }] ++ g.quads.drop 2 }
theorem witness_GangAndFrontForms_gathers : ([1, 2].all fun slot => issueB (.regang none') (labSplit slot) fun w fm _ =>
    let g := (onward (labSplit slot) w fm).groupOf w
    let joins (q : Nat) : Bool := !w.quads.contains q && (g.quad q).sleep.isNone && (g.quad q).await.isNone && (g.quad q).solo.isNone &&
      (g.quad q).latch.any fun l => decide (l.start = w.latch.start ∧ l.slot = w.latch.slot + 1)
    decide (w.latch.slot ≠ w.latch.hdr.count.toNat) && (w.quads.all fun q => (g.quad q).solo.isNone) &&
      decide (((List.range 8).any joins) = (slot = 2))) = true := by decide +kernel
theorem witness_GangAndFrontForms_rest :
    pairB (.sleepto (fl (.v 0) (.v 2) (.v 0))) (lab [(2, 1)]) (fun w a s₁ => (w.actors.all fun i => (a i).toNat ≤ 1) &&
      (w.actors.any fun i => (a i).toNat = 1) && decide (s₁.cyc < 1) && !w.front && (s₁.group? w.agent).isSome) = true ∧
    pairB (.ipref (fl (.v 0) (.v 2) (.v 0) .i8 0 2)) (lab [(2, 0xFFC0)]) (fun w a s₁ =>
      let blocks := (((w.actors.map fun i => (a i).toNat / 48 * 48).foldl insertNat []).flatMap fun b =>
        (List.range 2).map fun k => b + 48 * k).foldl insertNat []
      let inside := blocks.filter fun b => s₁.inLease w b 48 [rightX]
      let lost := ((blocks.filter fun b => !(s₁.inLease w b 48 [rightX])).flatMap fun b =>
        [b / 65536, (b + 47) / 65536]).foldl insertNat []
      !inside.isEmpty && !lost.isEmpty && okB (each inside (fun b => fetchBlock w 0 b)
        (s₁.updPart w.part fun p => { p with dropspec := p.dropspec + w64 lost.length })) fun _ _ => true) = true ∧
    (let s := withTeam (labF []) fun x => { x with dq := List.replicate 64 (5, 7) }
    issueB (.decide (fl (.v 0) (.k 2) (.v 0))) s fun w fm f =>
      src1 (readSrcs w f.imm [srcRaw f.sa] (onward s w fm)) fun _ s₁ => (s₁.teamOf w).any fun x => decide (64 ≤ x.dq.length)) = true := by
  decide +kernel

theorem witness_GangAndFrontForms : issueB (.regang none') (lab []) (fun _ _ _ => true) = true ∧
    issueB (.yieldGang none') (lab []) (fun w _ _ => !w.front && w.quads.all fun q => q < ((lab []).groupOf w).quads.length) = true ∧
    issueB (.yieldGang none') (labF []) (fun _ _ _ => true) = true ∧
    pairB (.sleepto (fl (.v 0) (.k 2) (.v 0))) (labF []) (fun w a s₁ => w.actors.all fun i => (a i).toNat ≤ s₁.cyc) = true ∧
    pairB (.sleepto (fl (.v 0) (.k 2) (.v 0))) (labF [(2, 1)]) (fun w a s₁ =>
      (w.actors.any fun i => s₁.cyc < (a i).toNat) && w.front && (s₁.prog? w.agent).isSome) = true ∧
    pairB (.ipref (fl (.v 0) (.v 2) (.v 0) .i8 0 2)) (lab [(2, 96)]) (fun w a s₁ =>
      let blocks := ((w.actors.map fun i => (a i).toNat / 48 * 48).foldl insertNat []).flatMap fun b =>
        (List.range 2).map fun k => b + 48 * k
      (blocks.all fun b => s₁.inLease w b 48 [rightX]) &&
      okB (each (blocks.foldl insertNat []) (fun b => fetchBlock w 0 b) (s₁.updPart w.part id)) fun _ _ => true) = true ∧
    issueB (.decide (fl (.v 0) (.k 2) (.v 0))) (labF []) (fun w fm f =>
      src1 (readSrcs w f.imm [srcRaw f.sa] (onward (labF []) w fm)) fun _ s₁ => (s₁.teamOf w).any fun x => x.dq.length < 64) = true ∧
    ([(0, 0), (48, 0), (0, 96), (1, 0), (0, 47)].all fun (e : DWord × DWord) =>
      issueB (.fork (fl (.k 8) (.k 2) (.k 4))) (labF [(2, e.1), (4, e.2)]) fun w fm f => plainDst w f.dst &&
        src2 (readSrcs w f.imm [srcPair f.sa, srcPair f.sb] (onward (labF [(2, e.1), (4, e.2)]) w fm)) fun a b s₁ =>
          decide (a 0 = e.1 ∧ b 0 = e.2) && (s₁.teamOf w).any fun x => x.front.rdv.isNone) = true ∧
    issueB (.fork (fl (.k 8) (.k 2) (.k 4))) labForked (fun w fm f => plainDst w f.dst &&
      src2 (readSrcs w f.imm [srcPair f.sa, srcPair f.sb] (onward labForked w fm)) fun _ _ s₁ =>
        (s₁.teamOf w).any fun x => x.front.rdv.isSome) = true := by decide +kernel

end Sys2Proof.Tests
end

