-- ==== Sys2Proof/Tests/WitnessMemory.lean ====
section
/-!
SUPPORT. For each clause of the statements about long-latency operations, memory, the scratchpad, queues, tags, append
pages, the copy and matrix engines and gongs, a concrete state and operands that meet its premises together.
-/

set_option Elab.async false

namespace Sys2Proof.Tests

open Sys2Proof Sys2Proof.Machine Sys2Proof.Claims

/-! ## Long-latency operations and memory -/

theorem witness_OperationStarts : issueB (.ld (r3 .i32)) (lab [(2, 0x100000)]) (fun w _ f =>
    let s := lab [(2, 0x100000)]
    (s.group? w.agent).isSome && decide ((destRefs w f.dst false).map (·.2) ≠ [])) = true ∧
    issueB (.ld (fl (.k 8) (.k 2) (.immS 0) .i64)) (labF [(2, 0x100000)]) (fun w _ _ =>
      w.front && ((labF []).prog? w.agent).isSome) = true ∧
    (⟨15, 0xFFF, some 11, some 0, some 15, 2, true, 63⟩ : Header).seta = some 11 := by decide +kernel

/-- Whether a load is executed in a state and its accesses pass a test. -/
def loadB (i : Instr) (s : State) (p : Who → Fields → Bool → (Who → Nat → Nat → Cache → M (List Byte × Bool)) → List Acc → State → Bool) :
    Bool :=
  match loads i with
  | none => false
  | some (window, read) => issueB i s fun w fm f => okB (readEa w f (onward s w fm)) fun ea s₁ =>
      p w f window read (s₁.accs w window ea (accessLanes w f.dst)) s₁

theorem witness_Loads_fault : ([(Instr.ld (r3 .i32), 0x100001), (.ldc (r3 .i32), 0x50000), (.ldt (r3 .n16), 0x100003)].all
    fun (e : Instr × Word) => loadB e.1 (lab [(2, e.2)]) fun w f _ _ l s₁ =>
      (accessFault s₁ w f.ty.bytes f.ty.bytes [rightR] false l).isSome) = true := by decide +kernel
theorem witness_Loads : ([(Instr.ld (only (r3 .i32)), 0x100000), (.ld (r3 .i64), 0x110038), (.ld (only (r3 .n8)), 0x12FFFF),
    (.ld (only (r3 .f32)), 0x130000), (.ldc (r3 .i16), 0x110002), (.ldt (r3 .n32), 0x110004)].all fun (e : Instr × Word) => loadB e.1 (lab [(2, e.2)]) fun w f _ read l s₁ =>
      (accessFault s₁ w f.ty.bytes f.ty.bytes [rightR] false l).isNone &&
        okB (collectM l (fun a => read w a.va f.ty.bytes f.cache) s₁) fun got _ => got.all fun e => e.1.length = f.ty.bytes) = true := by
  decide +kernel
theorem witness_Loads_window : loadB (.ld (r3 .n8)) (lab [(2, 0x3FFF), (3, 0xFFFF00)]) (fun w f _ read l s₁ =>
    (accessFault s₁ w f.ty.bytes f.ty.bytes [rightR] false l).isNone &&
      okB (collectM l (fun a => read w a.va f.ty.bytes f.cache) s₁) fun got _ => got.all fun e => e.1.length = f.ty.bytes) = true := by
  decide +kernel
theorem witness_Loads_front : loadB (.ld (fl (.k 8) (.k 2) (.immS 0) .i64)) (labF [(2, 0x100000)]) (fun w f _ read l s₁ =>
    (accessFault s₁ w f.ty.bytes f.ty.bytes [rightR] false l).isNone &&
      okB (collectM l (fun a => read w a.va f.ty.bytes f.cache) s₁) fun got _ => got.all fun e => e.1.length = f.ty.bytes) = true := by
  decide +kernel

/-- Whether a store is executed in a state, and its accesses and values pass a test. -/
def storeB (i : Instr) (s : State) (p : Who → Fields → (Nat → DWord) → List Acc → State → Bool) : Bool :=
  issueB i s fun w fm f =>
    let kb : Bool := match f.sb with | .k _ => true | _ => false
    src3 (readSrcs w f.imm [srcPair f.sa, ⟨f.sb, kb, none⟩, ⟨f.dst, f.ty.wide, none⟩] (onward s w fm)) fun a b c s₁ =>
      p w f c (s₁.accs w true (fun i => (a i + if kb then b i else ((b i).setWidth 32).signExtend 64).toNat) w.actors) s₁

theorem witness_Stores_fault : storeB (.st (r3 .i32)) (lab [(2, 0x100002)]) (fun w f _ l s₁ =>
    (accessFault s₁ w f.ty.bytes f.ty.bytes [rightW] true l).isSome) = true := by decide +kernel
/-- Whether a store passes its checks and is written. -/
def storedB (i : Instr) (s : State) : Bool :=
  storeB i s fun w f c l s₁ => (accessFault s₁ w f.ty.bytes f.ty.bytes [rightW] true l).isNone &&
    okB (leaveDirect w s₁) fun _ s₂ => okB (collectM l (fun x => genWrite (w.only x.lane) x.va
      ((List.range f.ty.bytes).map fun k => (c x.lane).extractLsb' (8 * k) 8)) s₂) fun _ _ => true
theorem witness_Stores : storedB (.st (r3 .i32)) (lab [(2, 0x100000), (4, 0)]) = true ∧
    storedB (.st (only (r3 .n64))) (lab [(2, 0x130038)]) = true ∧
    storedB (.st (fl (.k 8) (.k 2) (.k 4) .i64)) (labF [(2, 0x110000), (4, 8)]) = true := by decide +kernel

theorem witness_Atomics : ([AOp.fadd, .fmin, .fmax, .fand, .fior, .fxor, .xchg, .cas].all fun op =>
    let s := lab [(2, 0x100004), (4, 7)]
    issueB (.atom op (if op = .cas then r4 .n32 else r3 .n32)) s fun w fm f =>
      src3 (readSrcs w f.imm [srcPair f.sa, srcTyped f.ty f.sb,
        if op = .cas then srcTyped f.ty (thirdOf f) else srcRaw (.v 0)] (onward s w fm)) fun a c e s₁ =>
        let n := f.ty.bytes
        let l := s₁.accs w true (fun i => (a i).toNat) (accessLanes w f.dst)
        (accessFault s₁ w n n [rightR, rightW] true l).isNone && okB (commitTask w s₁) fun _ s₂ =>
          okB (collectM l (fun x => genAtomic w x.va f.ty op (c x.lane).toNat (e x.lane).toNat) s₂)
            fun _ _ => true) = true := by decide +kernel

theorem witness_Atomics_fault : ([0x100002, 0x50000].all fun n =>
    let s := lab [(2, n), (4, 7)]
    issueB (.atom .fadd (r3 .n32)) s fun w fm f =>
      src3 (readSrcs w f.imm [srcPair f.sa, srcTyped f.ty f.sb, srcRaw (.v 0)] (onward s w fm)) fun a _ _ s₁ =>
        (accessFault s₁ w 4 4 [rightR, rightW] true (s₁.accs w true (fun i => (a i).toNat) (accessLanes w f.dst))).isSome) =
      true := by decide +kernel

theorem witness_CacheForms_fence : issueB (.pathfence { none' with mod := 7 }) (lab []) (fun _ _ _ => true) = true := by
  decide +kernel
/-- Whether a form with an effective address is executed, and its addresses pass a test. -/
def eaB (i : Instr) (s : State) (p : Who → Fields → (Nat → Nat) → State → Bool) : Bool :=
  issueB i s fun w fm f => okB (readEa w f (onward s w fm)) fun ea s₁ => p w f ea s₁
theorem witness_CacheForms_pref : ([0x100000, 0x50000, 0x13FFF0].all fun n => eaB (.pref (fl (.v 0) (.v 2) (.immS 0)))
    (lab [(2, n)]) fun w f ea s₁ =>
      let inside := (w.actors.map ea).filter fun a => s₁.inLease w a 1 [rightR]
      let lost := (((w.actors.map ea).filter fun a => !(s₁.inLease w a 1 [rightR])).map fun a => a / 65536).foldl insertNat []
      okB (each ((inside.map fun a => a / 64 * 64).foldl insertNat []) (fun a => prefetchLine w a f.cache)
        (s₁.updPart w.part fun p => { p with dropspec := p.dropspec + w64 lost.length })) fun _ _ => true) = true := by decide +kernel
/-- The lab with a `pathfence` of the group that is not complete, the quads of the issuing gang behind it. -/
def fenced (s : State) : State := { s with ops := [(4, ⟨⟨2, 1, 0, 0, 0⟩, none, .fence 4, [], [], none, 9, [], 12⟩)], serial := 5 }
theorem witness_CacheForms_probe : ([0x100000, 0x130000].all fun n => eaB (.probe (fl (.v 8) (.v 2) (.immS 0))) (lab [(2, n)])
    fun w f ea s₁ =>
      let l := s₁.accs w true ea (accessLanes w f.dst)
      (accessFault s₁ w 1 1 [rightR] false l).isNone && !s₁.fencing w && okB (collectM l (fun a => do
        let pl ← peek (placeOf w a.va)
        let held ← peek (storePlace w a.va true)
        let inl1 ← look fun s => s.inL1 w pl (held.1.pa / 64)
        if leafClass pl.leaf = 6 ∨ leafClass pl.leaf = 7 then pure () else mergeLine w.part (pl.pa / 64)
        let v ← look fun s => probeValue s w a pl (held.1.pa / 64) inl1
        pure (a.lane, v)) s₁) fun _ _ => true) = true := by decide +kernel
theorem witness_CacheForms_held : eaB (.probe (fl (.v 8) (.v 2) (.immS 0))) (fenced (lab [(2, 0x130000)])) (fun w f ea s₁ =>
      let l := s₁.accs w true ea (accessLanes w f.dst)
      (accessFault s₁ w 1 1 [rightR] false l).isNone && (l.any fun a => s₁.classAt w a = 6) && s₁.fencing w) = true ∧
    eaB (.cwb (fl (.v 0) (.v 2) (.immS 0))) (fenced (lab [(2, 0x130000)])) (fun w _ ea s₁ =>
      let l := s₁.accs w false ea w.actors
      (l.all fun a => s₁.inLease w a.va 1 [rightW] && decide (s₁.classAt w a ≠ 4 ∧ s₁.classAt w a ≠ 5)) &&
        (l.any fun a => s₁.classAt w a = 6) && s₁.fencing w) = true ∧
    eaB (.probe (fl (.v 8) (.v 2) (.immS 0))) (lab [(2, 0x50000)]) (fun w f ea s₁ =>
      (accessFault s₁ w 1 1 [rightR] false (s₁.accs w true ea (accessLanes w f.dst))).isSome) = true := by decide +kernel
theorem witness_CacheForms_outside : ([0x50000, 0x10].all fun n => eaB (.cwb (fl (.v 0) (.v 2) (.immS 0)))
      (lab [(2, n)]) fun w _ ea s₁ => (s₁.accs w false ea w.actors).any fun a => !s₁.inLease w a.va 1 [rightW]) = true ∧
    (let s := (lab [(2, 0x120000)]).updLaunch 3 fun l => { l with pins := [⟨0, 0x10000, codeLeaf 0, 0⟩, ⟨0x120000, 0x10000, leaf 4 0x120000, 0⟩] }
    eaB (.cwb (fl (.v 0) (.v 2) (.immS 0))) s fun w _ ea s₁ =>
      let l := s₁.accs w false ea w.actors
      (l.all fun a => s₁.inLease w a.va 1 [rightW]) && l.any fun a => s₁.classAt w a = 4) = true := by decide +kernel
theorem witness_CacheForms_cwb : ([0x100000, 0x130000].all fun n => eaB (.cwb (fl (.v 0) (.v 2) (.immS 0))) (lab [(2, n)])
    fun w _ ea s₁ =>
      let l := s₁.accs w false ea w.actors
      (l.all fun a => s₁.inLease w a.va 1 [rightW] && decide (s₁.classAt w a ≠ 4 ∧ s₁.classAt w a ≠ 5)) && !s₁.fencing w &&
        okB (collectM (l.filter fun a => s₁.classAt w a = 6) (fun a => placeOf w a.va) s₁) fun _ _ => true) = true := by decide +kernel

/-- An operation of group 0 of the team, with flag 3 and one value, of a kind. -/
def labOp (k : OpKind) : State :=
  (withTeam (lab []) fun x => { x with groups := SMap.modify x.groups 0 fun g => g.setFlag 3 1 }) |> fun s =>
    { s with ops := [(4, ⟨⟨2, 1, 0, 0, 0⟩, some 3, k, [.v 0 8], [(.v 0 8, 7)], none, 9, [], 12⟩)], serial := 5 }
theorem witness_CompletionEvents_finish : (let s := labOp .load
    match SMap.get? s.ops 4, s.team? 1 with
    | some o, some x => decide (s.ownerAt o.owner = .team 1 ∧ o.owner.src < 64) && (SMap.get? x.groups o.owner.src).isSome &&
        o.late.isNone
    | _, _ => false) = true := by decide +kernel
theorem witness_CompletionEvents_kinds : ([OpKind.load, .store, .engine, .atomic, .fence 3, .fence 0].all fun k =>
    (SMap.get? (labOp k).ops 4).any fun o => o.kind = k ∧ o.waits = []) = true ∧ (3 : BitVec 3).getLsbD 2 = false := by
  decide +kernel
theorem witness_CompletionEvents_host : (let s := labOp (.fence 7)
    okB (hostFence ((s.partOfCore 0).getD 0) 0 (s.updCore 0 fun k =>
      { k with con := if (7 : BitVec 3).getLsbD 0 then [] else k.con, tile := if (7 : BitVec 3).getLsbD 1 then [] else k.tile }))
      fun _ _ => true) = true ∧ (7 : BitVec 3).getLsbD 2 = true := by decide +kernel
theorem witness_CompletionEvents_cwb : (let s := labOp (.cwb [Config.hostBase / 64])
    okB (each [Config.hostBase / 64] (fun l => do
      cleanLine6 ((s.partOfCore 0).getD 0) l
      let _ ← hlcOwn ((s.partOfCore 0).getD 0) l
      pure ()) s) fun _ _ => true) = true := by decide +kernel

theorem witness_CompletionEvents_spawn : (let s := labOp (.spawn 0 [7])
    s.pushWaits 0 [7] = false ∧ (SMap.get? s.ops 4).any (fun o => o.waits = []) ∧
    (let u := s.updPart 0 fun p => { p with pushq := [⟨placedTask, 0, 3, none, [], 0, 7, 0, []⟩] };
      u.pushWaits 0 [7] = true)) := by decide +kernel
/-- A lane's part of a `bcas` with records 1 and 2: not begun, begun, or with an argument block that is lost. -/
def labLane (begun lost : Bool) : BcasPart :=
  ⟨0, 1, 2, 0xF0000000, List.replicate 32 0, lost, 0x110000, 0x110000, 0, 0x110008, 0x110008, 0, 0, [.v 0 8], begun, false⟩
/-- A `bcas` with that lane alone, and record 1 in a state. -/
def labBcas (begun lost : Bool) (st : Nat) : State :=
  (labOp (.bcas 0 .n32 labFault [labLane begun lost])).annPut 0 0 1 11 1 st
theorem witness_CompletionEvents_bcas : okB (bcasBegin 0 9 0 .n32 (labLane false false) (labBcas false false 0)) (fun _ s₁ =>
      okB (homeTs 0 (0x110000 / 64) s₁) fun ta s₂ => okB (raisePts 0 ta.1 s₂) fun _ _ => true) = true ∧
    (labBcas true false 1).partBad 0 0 (labLane true false) = false ∧
    (labBcas true false 1).annState 0 0 1 = 1 ∧
    ([true, false].all fun y => okB (bcasStep 0 9 0 1 y { labBcas true false 1 with free := (labBcas true false 1).free + 1 }) fun _ _ => true) =
      true ∧
    (labBcas true false 2).annState 0 0 1 ≠ 1 ∧
    okB (bcasEnd 0 9 0 2 .n32 (labLane true false) (labBcas true false 2)) (fun _ _ => true) = true ∧
    okB (bcasEnd 0 9 0 2 .n32 (labLane false true) (labBcas false true 0)) (fun _ _ => true) = true := by decide +kernel

/-! ## Scratchpad, queues and tags -/

/-- Whether a scratchpad form is executed in a state, and its addresses pass a test. -/
def spadB (i : Instr) (s : State) (lanes : Who → Fields → List Nat) (p : Who → Fields → List Acc → State → Bool) : Bool :=
  issueB i s fun w fm f =>
    let rest : List SrcSpec := match i with | .sts _ => [⟨f.dst, f.ty.wide, none⟩] | _ => []
    okB (readSrcs w f.imm ([srcRaw f.sa, srcRaw f.sb] ++ rest) (onward s w fm)) fun vals s₁ =>
      p w f ((lanes w f).map fun i =>
        let e := ((vals.getD 0 (fun _ => 0) i).toNat + (vals.getD 1 (fun _ => 0) i).toNat) % 2 ^ 32
        ⟨i, e, e⟩) s₁
theorem witness_ScratchpadForms_fault : ([0xF0000001, 0xF0008000, 0xC0000000].all fun n =>
    spadB (.sts (r3 .i32)) (lab [(2, n)]) (fun w _ => w.actors) (fun w f l s₁ => (spadFault s₁ w f.ty.bytes f.ty.bytes l).isSome) &&
    spadB (.lds (r3 .i32)) (lab [(2, n)]) (fun w f => accessLanes w f.dst) fun w f l s₁ =>
      (spadFault s₁ w f.ty.bytes f.ty.bytes l).isSome) = true := by decide +kernel
/-- The lab with row 0 of bank 16 poisoned. -/
def rowPoison (s : State) : State := s.updCore 0 fun k => { k with spois := [512 * 16] }
theorem witness_ScratchpadForms : ([lab [(2, 0xF0000000)], lab [(2, 0xF0007FFC)], rowPoison (lab [(2, 0xF0000000)])].all fun s =>
    spadB (.sts (r3 .i32)) s (fun w _ => w.actors) (fun w f l s₁ => (spadFault s₁ w f.ty.bytes f.ty.bytes l).isNone) &&
    spadB (.lds (r3 .i32)) s (fun w f => accessLanes w f.dst) fun w f l s₁ =>
      let s₂ := rowsMet w l s₁
      (spadFault s₁ w f.ty.bytes f.ty.bytes l).isNone && okB (writeDst w f.dst f.ty.wide f.ty.signed (fun i =>
        match l.find? fun x => x.lane = i with
        | none => 0
        | some x => match s₂.laneSpad w.life x.ea with
          | none => 0
          | some g => if s₂.spadPoison g x.ea then 0 else loaded f.ty (s₂.spadBytes g x.ea f.ty.bytes)) s₂) fun _ _ => true) =
      true ∧
    spadB (.lds (r3 .i32)) (rowPoison (lab [(2, 0xF0000000)])) (fun w f => accessLanes w f.dst) (fun w _ l s₁ =>
      l.any (badRow (rowsMet w l s₁) w)) = true := by decide +kernel
theorem witness_ScratchpadForms_atoms : ([AOp.fadd, .cas].all fun op => [lab [(2, 0xF0000010), (4, 7)],
      rowPoison (lab [(2, 0xF0000010), (4, 7)])].all fun s =>
    issueB (.atoms op (only (if op = .cas then r4 .n32 else r3 .n32))) s fun w fm f =>
      src3 (readSrcs w f.imm [srcRaw f.sa, srcTyped f.ty f.sb, if op = .cas then srcTyped f.ty (thirdOf f) else srcRaw (.v 0)]
        (onward s w fm)) fun a c e s₁ =>
        let n := f.ty.bytes
        let l : List Acc := (accessLanes w f.dst).map fun i => ⟨i, (a i).toNat % 2 ^ 32, (a i).toNat % 2 ^ 32⟩
        let r := atomsRun w op f.ty c e l s₁
        (spadFault s₁ w n n l).isNone && okB (writeDst w f.dst f.ty.wide f.ty.signed (fun i =>
          match r.2.find? fun x => x.1.lane = i with
          | none => 0
          | some x => w64 x.2.1) r.1) fun _ _ => true) = true := by decide +kernel
theorem witness_ScratchpadForms_atomsFault : (let s := lab [(2, 0xF0000001), (4, 7)]
    issueB (.atoms .fadd (only (r3 .n32))) s fun w fm f =>
      src3 (readSrcs w f.imm [srcRaw f.sa, srcTyped f.ty f.sb, srcRaw (.v 0)] (onward s w fm)) fun a _ _ s₁ =>
        (spadFault s₁ w 4 4 ((accessLanes w f.dst).map fun i => ⟨i, (a i).toNat % 2 ^ 32, (a i).toNat % 2 ^ 32⟩)).isSome) = true := by
  decide +kernel

theorem witness_StoredBytes : (let a := 0x1000003E
    let at' (i : Nat) : Nat := spotOf labLife (spRot a) (spOff a + i)
    ((List.range 4).all fun i => (List.range 4).all fun j => at' i ≠ at' j || i = j)) = true := by decide +kernel

theorem witness_BanksAndQueues_bankmode : ([0x10000, 0x40000, 0x1000000000000].all fun (n : DWord) =>
    issueB (.bankmode (fl (.k 8) (.k 2) (.immS 0))) (labF [(2, n)]) fun w fm f =>
      src1 (readSrcs w f.imm [srcPair f.sa] (onward (labF [(2, n)]) w fm)) fun m s₁ => decide (m 0 = n) && (decide (2 ^ 48 ≤ (m 0).toNat) ||
        okB (switchBanks w.core (modeOfCode (rawImm 0 f.sb).toNat) ((List.range 48).filter fun i => bitN (m 0).toNat i) s₁) fun _ _ => true)) =
      true := by decide +kernel
theorem witness_BanksAndQueues_qcfg : issueB (.qcfg (fl (.k 8) (.k 2) (.k 4))) (labF []) (fun w fm f =>
    src2 (readSrcs w f.imm [srcPair f.sa, srcPair f.sb] (onward (labF []) w fm)) fun a b s₁ =>
      okB (writeDst w f.dst false false (fun _ => (w32 (s₁.qcfg w.life w.core (a 0).toNat (b 0).toNat).1).setWidth 64)
        (s₁.qcfg w.life w.core (a 0).toNat (b 0).toNat).2) fun _ _ => true) = true := by decide +kernel
theorem witness_BanksAndQueues_qstat : ([0, 15, 16, 0xFFFFFFFF].all fun n => issueB (.qstat (fl (.v 8) (.v 2) (.v 0))) (lab [(2, n)])
    fun w fm f => src1 (readSrcs w f.imm [srcRaw f.sa] (onward (lab [(2, n)]) w fm)) fun a s₁ =>
      okB (writeDst w f.dst false false (fun i => (w32 (s₁.qstat w ((a i).toNat % 2 ^ 32))).setWidth 64) s₁) fun _ _ => true) = true := by
  decide +kernel
theorem witness_BanksAndQueues_qdrain : issueB (.qdrain (fl (.v 8) (.v 2) (.immS 3))) (lab [(2, 0xF0000000)]) (fun w fm f =>
    plainDst w f.dst && src1 (readSrcs w f.imm [srcRaw f.sa] (onward (lab [(2, 0xF0000000)]) w fm)) fun _ s₁ =>
      (popCheck s₁ w 3).isNone && match s₁.capOf w 3 with
        | none => false
        | some c => ((s₁.fifoOf w c).any fun x => x.2.2.slots.isEmpty) && okB (leaveDirect w s₁) fun _ s₂ =>
            okB (reserveDst w f.dst s₂) fun _ _ => true) = true := by decide +kernel
theorem witness_BanksAndQueues_drained : ([0xF0000000, 0xF0007F80, 0xF0007FC0].all fun (n : Word) =>
    issueB (.qdrain (fl (.v 8) (.v 2) (.immS 0))) (lab [(2, n)]) fun w fm f =>
      src1 (readSrcs w f.imm [srcRaw f.sa] (onward (lab [(2, n)]) w fm)) fun a s₁ => (popCheck s₁ w 0).isNone &&
        (s₁.capOf w 0).any fun c => (s₁.fifoOf w c).any fun x =>
          let b := (a w.low).toNat % 2 ^ 32
          let k := x.2.2.slots.length
          k ≠ 0 && if (spadFault s₁ w 1 (128 * k) [⟨w.low, b, b⟩]).isSome then n = 0xF0007FC0
            else okB (leaveDirect w s₁) fun _ s₂ => (s₂.laneSpad w.life b).any fun g =>
              okB (drainTo w g x.2.1 c.fifo b k 0 s₂) fun r s₃ => okB (reserveDst w f.dst (s₃.updGroup w.agent fun y =>
                y.updLanes w.act fun i l => l.setPred 14 (alsoPopped s₃ w f.sa i && r.2.getLsbD i))) fun _ _ => true) = true := by
  decide +kernel
theorem witness_BanksAndQueues_pops : ((lab []).who? (.lane 1 0 0)).any (fun w => okB (leaveDirect w (lab [])) fun _ s₁ => [0, 3].all fun n =>
    (s₁.capOf w n).any fun c => (s₁.fifoOf w c).any fun x => x.2.2.slots.isEmpty = decide (n = 3)) = true := by decide +kernel
theorem witness_BanksAndQueues_push : ((lab []).who? (.lane 1 0 0)).any (fun w => okB (leaveDirect w (lab [])) (fun _ t => t == lab []) &&
    ((lab []).capOf w 1).any fun c => ((lab []).fifoOf w c).any fun x => decide (x.1 = w.life ∧ x.2.1 = w.core) &&
      (lab []).fifoRoom w.core c.fifo) = true := by decide +kernel

/-- The premises of `QueueFaults` but for the entry. -/
def queueB (i : Instr) (s : State) (p : Who → Bool) : Bool :=
  match s.who? s.cur, form i, fields i with
  | some w₀, some fm, some f =>
    let w := s.issuer i w₀ f
    !illegalUse s w i fm f && !s.held w fm f && w.takesPart && p w
  | _, _, _ => false
/-- The lab with an entry changed. -/
def labCap (n : Nat) (f : Cap → Cap) : State := (lab []).updLife 2 fun l => { l with cap := SMap.modify l.cap n f }
/-- Forms that pop an entry at each source, first or after a good pop. -/
def popForms (n : BitVec 4) : List Instr :=
  [.mov (fl (.v 8) (.q n) (.v 0) .n32), .add (fl (.v 8) (.v 2) (.q n) .i32), .add (fl (.v 8) (.q 0) (.q n) .i32),
   .ffma (fl (.v 8) (.v 2) (.v 4) .f32 0 (1024 + n.setWidth 32))]
/-- Forms that push into an entry, after no pop and after a good one. -/
def pushForms (n : BitVec 4) : List Instr := [.mov (fl (.q n) (.v 2) (.v 0) .n32), .add (fl (.q n) (.q 0) (.v 4) .i32)]
theorem witness_QueueFaults_pop : ((popForms 9).all fun i => queueB i (lab []) (fun w => ((lab []).capOf w 9).isNone)) = true ∧
    ((popForms 1).all fun i => queueB i (lab []) (fun w => ((lab []).capOf w 1).any fun c => ((lab []).fifoOf w c).isSome && !c.r)) =
      true ∧
    ((popForms 2).all fun i => queueB i (lab []) (fun w => ((lab []).capOf w 2).any fun c => c.r && ((lab []).fifoOf w c).isNone)) =
      true := by decide +kernel
theorem witness_QueueFaults_good : ((lab []).who? (.lane 1 0 0)).any (fun w => ((lab []).capOf w 0).any fun c => c.r &&
    ((lab []).fifoOf w c).isSome) = true := by decide +kernel
theorem witness_QueueFaults_push : ((pushForms 9).all fun i => queueB i (lab []) (fun w => ((lab []).capOf w 9).isNone)) = true ∧
    ((pushForms 3).all fun i => queueB i (lab []) (fun w => ((lab []).capOf w 3).any fun c => !c.w)) = true ∧
    ([(4, 4), (4, 5)].all fun (e : Nat × Nat) => let s := labCap 1 fun c => { c with allow := e.1, out := e.2 };
      (pushForms 1).all fun i => queueB i s fun w => (s.capOf w 1).any fun c => c.w && decide (c.allow ≤ c.out)) = true ∧
    (let s := labCap 2 fun c => { c with allow := 4, out := 3 };
      (pushForms 2).all fun i => queueB i s fun w => (s.capOf w 2).any fun c => c.w && decide (c.out < c.allow) &&
        (s.fifoOf w c).isNone) = true := by decide +kernel

/-- A block of memory, rows of the scratchpad, and places where no tag lies. -/
def tagPlaces : List (Word × Word) := [(0x100000, 0), (0xF0000000, 0xFFFFFFFF), (0xF0008000, 0xFFFFFFFF), (0x50000, 0)]
theorem witness_TagForms_read : (tagPlaces.all fun n => eaB (.btagr (only (fl (.v 8) (.v 2) (.immS 0)))) (lab [(2, n.1), (3, n.2)]) fun w f ea s₁ =>
    let l := s₁.accs w false ea (accessLanes w f.dst)
    match tagFault s₁ w false (splitAccs l).1 (splitAccs l).2 with
    | some _ => n.1 = 0xF0008000 ∨ n.1 = 0x50000
    | none => okB (collectM l (laneTag w) s₁) fun _ _ => true) = true := by decide +kernel
theorem witness_TagForms_write : (tagPlaces.all fun n => let s := lab [(2, n.1), (3, n.2)]
    issueB (.btagw (only (fl (.v 8) (.v 2) (.immS 0)))) s fun w fm f =>
      src3 (readSrcs w f.imm [srcPair f.sa, srcRaw f.sb, srcRaw f.dst] (onward s w fm)) fun a b c s₁ =>
        let l := (s₁.accs w false (fun i => (a i + ((b i).setWidth 32).signExtend 64).toNat) w.actors)
        match tagFault s₁ w true (splitAccs l).1 (splitAccs l).2 with
        | some _ => n.1 = 0xF0008000 ∨ n.1 = 0x50000
        | none => okB (if (splitAccs l).1 = [] then .ok ((), s₁) else leaveDirect w s₁) fun _ s₂ =>
            okB (collectM l (fun x => laneSetTag w x ((c x.lane).setWidth 16)) s₂) fun _ _ => true) = true := by decide +kernel

/-! ## Append pages -/

end Sys2Proof.Tests
end

