-- ==== Sys2Proof/Tests/WitnessSystem.lean ====
section
/-!
SUPPORT. For each clause of the statements about partitions, the host, management, issue, the step and memory as a
whole, a concrete state and operands that meet its premises together.
-/

set_option Elab.async false

namespace Sys2Proof.Tests

open Sys2Proof Sys2Proof.Machine Sys2Proof.Claims

/-! ## Partitions -/

/-- A test of partition 0 of the small machine. -/
def partB (s : State) (p : Part → Bool) : Bool := (s.part? 0).any p
/-- The partition with a PSTATE and the regions and sizes that START accepts, or a slice one cycle too short. -/
def labReady (n slice : Nat) : State := (lab []).updPart 0 fun p =>
  { p with pstate := n, cfg := { p.cfg with tslice := slice, resqn := 16, taskn := 1024, fpooln := 1 } }
theorem witness_PartitionCommands_start : ([1, 2, 4].all fun n => partB (labReady n 12000) fun p => p.pstate ≠ 0 && p.pstate ≠ 3) = true ∧
    ([0, 3].all fun n => partB (labReady n 12000) (fun p => p.cfgOk 0) && partB (labReady n 11999) fun p => !p.cfgOk 0) = true := by
  decide +kernel
theorem witness_PartitionCommands_stop : partB (labReady 2 12000) (fun p => p.pstate = 2 && !(labReady 2 12000).drained 0 p) = true ∧
    (let s : State := { labReady 2 12000 with teams := [], launches := [] }; partB s fun p => p.pstate = 2 && s.drained 0 p) = true := by
  decide +kernel
theorem witness_PartitionCommands_reset : ([0, 1, 2, 3, 4].all fun n => partB (labReady n 12000) fun p => p.pstate = n) = true := by
  decide +kernel
/-- Context 0 in checkpoint mode. -/
def labCkpt : State := (lab []).setLe 0x200000 1 5
theorem witness_PartitionCommands_rollback : partB (lab []) (fun p => p.pstate = 1 && !(lab []).ctxCkpt p 0) = true ∧
    partB labCkpt (fun p => p.pstate = 1 && 0 < p.cfg.nctx && labCkpt.ctxCkpt p 0) = true ∧
    okB (rollbackContext 0 0 (labCkpt.updLaunch 3 fun l => { l with killed := some 24 })) (fun _ _ => true) = true := by decide +kernel
theorem witness_PartitionCommands_refused : ([6, 255].all fun (v : DWord) => 6 ≤ v.toNat % 256) = true ∧
    partB ((lab []).updPart 0 fun p => { p with suberr := true }) (·.suberr) = true := by decide +kernel
/-- Context 0 maps its first GiB, class 0, and a launch descriptor at 0x110000 names the status record 0x100100. -/
def labPages : State :=
  ((((lab []).setLe 0x220000 8 0x221001).setLe 0x221000 8 0x222001).setLe 0x222000 8 (leaf 0 0).toNat).setLe (0x110000 + 24) 8 0x100100
theorem witness_PartitionCommands_dropped : partB labPages (fun p => !labPages.takesLaunch p 0x110001) = true := by decide +kernel
theorem witness_PartitionCommands_submit : partB labPages (fun p => labPages.takesLaunch p 0x110000 &&
    okB (schedRead 0 p.lsubctx.toNat p.hostclk 0x110000 64 labPages) fun r s₁ => match r with
      | none => false
      | some (h, _, clk) => fieldOf h 7 1 ≤ 16 && okB (schedRead 0 p.lsubctx.toNat clk (0x110000 + 64) (24 * fieldOf h 7 1) s₁) fun r s₂ =>
          r.any fun x => okB (timedWalk 0 x.2.2 p.lsubctx.toNat (fieldOf h 24 8) s₂) fun _ s₃ =>
            (s₃.hostStatus 0 p.lsubctx.toNat (fieldOf h 24 8)).isSome) = true := by decide +kernel
theorem witness_PartitionCommands_freedesc : partB (lab []) (fun p => inPartHbm 0 p.size 0x150000 32) = true ∧
    partB (lab []) (fun p => !inPartHbm 0 p.size (2 * Config.stackStride) 32) = true := by decide +kernel
/-- A free request for one frame at 0x150000. -/
def labFree (f : Nat) (o : Option Nat) : State :=
  (((lab []).updPart 0 fun p => { p with freeq := [0x150000], freeing := o }).setLe (0x150000 + 12) 4 1).setLe (0x150000 + 16) 8 f
theorem witness_PartitionCommands_free : partB (lab []) (fun p => p.freeq = []) = true ∧
    (let s := labFree 0x160001 none;
      partB s (fun p => p.freeing.isNone && (s.requestFrames 0x150000).any (p.frameKept 0)) && okB (writeFreeStatus 0 0x150000 2 s) fun _ _ => true) = true ∧
    (let s := labFree 0x160000 none;
      partB s (fun p => p.freeing.isNone && (s.requestFrames 0x150000).all fun f => !p.frameKept 0 f) &&
        okB (beginFree 0 (s.requestFrames 0x150000) s) fun _ _ => true) = true ∧
    (let s := labFree 0x100000 (some 0);
      (s.requestFrames 0x150000)[0]? = some 0x100000 ∧ s.frameHeld 0 0x100000 = true) ∧
    (let s := (labFree 0x160000 (some 0)).setAppendRec 0 labPart 0x160000 ⟨0, 64, 1024, 0, true⟩;
      decide ((s.requestFrames 0x150000)[0]? = some 0x160000) && !s.frameHeld 0 0x160000 &&
        decide ((s.frameRec 0 0x160000).st ≠ 3 ∧ (s.frameRec 0 0x160000).settled ≠ (s.frameRec 0 0x160000).tail)) = true ∧
    (let s := labFree 0x160000 (some 0);
      decide ((s.requestFrames 0x150000)[0]? = some 0x160000) && !s.frameHeld 0 0x160000 && partB s fun p =>
        decide ((s.frameRec 0 0x160000).st = 3 ∨ (s.frameRec 0 0x160000).settled = (s.frameRec 0 0x160000).tail) &&
          okB (each (s.recordsIn 0 p 0x160000 65536) (fun e => settleRecord 0 e.1 e.2) s) fun _ s₁ => okB (scrubFrame 0 0x160000 s₁) fun _ _ => true) =
      true ∧
    (let s := labFree 0x160000 (some 1);
      (s.requestFrames 0x150000).length ≤ 1 ∧ okB (writeFreeStatus 0 0x150000 1 s) (fun _ _ => true) = true) := by decide +kernel

/-! ## The host and its peers -/

theorem witness_HostEvents_read : ([0x100000, 2 * Config.stackBytes - 8].all fun d => decide (pieces d 8 = [(d, 8)] ∧ d < 2 * 1 * Config.stackBytes) &&
    (let pa := (d / Config.stackBytes) * Config.stackStride + d % Config.stackBytes;
      !(lab []).lostLine 0 1 (pa / 64) && ({ lab [] with poison := [pa / 64] } : State).isPoison (pa / 64) && !(lab []).isPoison (pa / 64) &&
      okB (deviceRead 0 0 (pa / 64) (lab [])) fun _ _ => true)) = true ∧ (lab []).upsets = [] := by decide +kernel
theorem witness_HostEvents_beyond : (let d := 2 * Config.stackBytes; pieces d 8 = [(d, 8)] ∧ 2 * 1 * Config.stackBytes ≤ d) := by decide +kernel
/-- The small machine that has lost die 0, and with it partition 0's stacks. -/
def labLost : State := { lab [] with deadDies := [0] }
theorem witness_HostEvents_lost : pieces 0x100000 8 = [(0x100000, 8)] ∧ labLost.lostLine 0 1 (0x100000 / 64) = true ∧
    (lab []).lostLine 0 1 (0x100000 / 64) = false ∧ pieces 0x10003F 1 = [(0x10003F, 1)] := by decide +kernel
theorem witness_HostEvents_write : ([[], [0x100000 / 64]].all fun held =>
    let s : State := { lab [] with hostHeld := held }
    let pa := 0x100000
    decide (s.lostLine 0 1 (pa / 64) = false ∧ s.upsets = [] ∧ s.isPoison (pa / 64) = false ∧ pieces 0x100000 2 = [(0x100000, 2)]) &&
      okB (deviceWrite 0 0 none pa [1, 2] { s with hostHeld := s.hostHeld.filter fun l => l ≠ pa / 64 }) fun _ _ => true) = true := by
  decide +kernel
theorem witness_HostEvents_snoop : (let line := Config.hostBase / 64;
    partB (lab []) (fun p => isHostWin (64 * line) && 64 * line - Config.hostBase < p.cfg.hsize) &&
      (SMap.get? (lab []).hlc (key6 0 line)).isNone && (lab []).hlcPoison.isEmpty) = true ∧
    ([Config.hostBase / 64, Config.hostBase / 64 + 1023].all fun line => [Mesi.s, Mesi.m].all fun st =>
      let s : State := { lab [] with hlc := [(key6 0 line, (st, List.replicate 64 7))] }
      partB s (fun p => isHostWin (64 * line) && 64 * line - Config.hostBase < p.cfg.hsize) && (SMap.get? s.hlc (key6 0 line)).isSome) = true := by
  decide +kernel
theorem witness_HostEvents_inv : (let line := Config.hostBase / 64;
    partB (lab []) (fun p => isHostWin (64 * line) && 64 * line - Config.hostBase < p.cfg.hsize) &&
      [[], [key6 0 line]].all fun l => let s : State := { lab [] with hlcPoison := l };
        (s.hlcPoison.contains (key6 0 line)) == !l.isEmpty) = true := by decide +kernel
theorem witness_HostEvents_atomic : okB (mergeLine 0 0x4000 (lab [])) (fun _ u =>
    !(lab []).lostLine 0 1 0x4000 && !(lab []).isPoison 0x4000 && okB (deviceWrite 0 0 none 0x100000
      (leBytesOf 4 (atomicOp .fadd .n32 (leOf (u.bytes 0x100000 4)) 7 0)) u) fun _ _ => true) = true ∧ (lab []).upsets = [] := by
  decide +kernel
/-- The first entry of the partition's table names peer 5's partition 2. -/
def labPeers : State := (lab []).updPart 0 fun p => { p with peers := [w64 (2 ^ 63 + 5 * 2 ^ 32 + 2 * 2 ^ 8)] ++ p.peers.drop 1 }
theorem witness_HostEvents_peerRefused : partB (labPeers.updPart 0 fun p => { p with lost := true }) (fun p => p.namesPeer 5 2 && p.lost) =
    true ∧ inPartHbm 0 1 (2 * Config.stackStride) 8 = false := by decide +kernel
theorem witness_HostEvents_peer : partB labPeers (fun p => !p.namesPeer 5 3 && p.namesPeer 5 2 && !p.lost) = true ∧
    inPartHbm 0 1 0x100000 8 = true ∧ okB (each (pieces 0x100000 8) (fun e => peerLine 0 e.1 e.2 (peerFrom .read (e.1 - 0x100000))) labPeers) (fun _ _ => true) = true := by
  decide +kernel

/-! ## Management -/

/-- A partition of one twelfth with unit 0. -/
def oneTwelfth (j0 : Nat) : AssignPart := ⟨j0, 1, 1, 0, 0x200000, 1, 255, []⟩
theorem witness_ManagementEvents_assign : State.reset.assignOk [oneTwelfth 0] = true ∧ State.reset.assignOk [oneTwelfth 12] = false ∧
    State.reset.parts = [] ∧ State.reset.deadDies = [] ∧
    (let l := [oneTwelfth 0, oneTwelfth 1];
      l.length = 2 ∧ (⟨0, 1, 1⟩ : Plan) ∈ State.reset.plans l ∧ (⟨1, 1, 1⟩ : Plan) ∈ State.reset.plans l ∧
        (1 : BitVec 48) &&& 1 ≠ 0) := by decide +kernel
theorem witness_ManagementEvents_spdm : (lab []).hasLd none = true ∧ (lab []).hasLd (some 0) = true ∧ (lab []).part? 1 = none := by
  decide +kernel
theorem witness_ManagementEvents_scrub : (lab []).upsets = [] ∧
    (let s : State := { lab [] with upsets := [.block 0x4000 false] }; s.upsets = [.block 0x4000 false] ∧ stackOf (64 * 0x4000) = 0) := by
  decide +kernel
theorem witness_ManagementEvents_hub : (let s : State := { State.reset with upsets := [.hub] }; s.upsets = [.hub]) := rfl
theorem witness_ManagementEvents_die : 0 ∉ State.reset.deadDies ∧ (let s : State := { State.reset with parts := [(0, labPart)] };
    s.parts = [(0, labPart)] ∧ 0 < 2 * 0 + 2 ∧ 2 * 0 < 0 + labPart.size ∧ 0 ∉ s.deadDies) := by decide +kernel
theorem witness_ManagementEvents_frozen : ({ State.reset with frozen := true } : State).frozen = true ∧ State.reset.frozen = false ∧
    State.reset.tokenWindow = true := by decide +kernel

/-! ## Issue and the step -/

/-- The premises of `IssueRules` but for what a clause asks. -/
def ruleB (i : Instr) (s : State) (p : Who → Form → Fields → Bool) : Bool :=
  match s.who? s.cur, form i, fields i with
  | some w₀, some fm, some f => p (s.issuer i w₀ f) fm f
  | _, _, _ => false
theorem witness_IssueRules_illegal : ruleB (.add (r3 .f32)) (lab []) (fun w fm f => illegalUse (lab []) w (.add (r3 .f32)) fm f) = true := by
  decide +kernel
/-- The destination pair of an operation on its way. -/
def labPending : State :=
  { lab [] with ops := [(4, ⟨⟨2, 1, 0, 0, 0⟩, some 3, .load, [.v 0 4], [(.v 0 4, 7)], none, 9, [], 12⟩)], serial := 5 }
theorem witness_IssueRules_reform : (let i : Instr := .reform (fl (.v 0) (.v 2) (.v 0) .i8 0 5)
    ruleB i labPending fun w fm f => !illegalUse labPending w i fm f && w.takesPart && labPending.held w fm f &&
      (List.range f.imm.toNat).any fun n => w.act.any fun l => (labPending.pendingRefs w).contains (.v l n)) = true := by decide +kernel
theorem witness_IssueRules_held : ruleB (.add (r3 .i32)) labPending (fun w fm f =>
    !illegalUse labPending w (.add (r3 .i32)) fm f && w.takesPart && labPending.held w fm f &&
    (operands fm f).any fun e => (operandRefs w f.mod e).any fun r => (labPending.pendingRefs w).contains r) = true := by decide +kernel
/-- The clause of the group binds flag 3, which stands at n. -/
def labFlag (n : Nat) : State :=
  (lab []).updGroup (.lane 1 0 0) fun g => { g.setFlag 3 n with
    quads := [{ g.quad 0 with latch := some { atSlotOne with hdr := { oneSlot with seta := some 3 } } }] ++ g.quads.drop 1 }
theorem witness_IssueRules_flag : ([62, 63].all fun n => ruleB (.ld (fl (.v 8) (.v 2) (.immS 0) .n32)) (labFlag n) fun w fm _ =>
    fm.long && w.takesPart && decide (w.latch.flag = some 3 ∧ (labFlag n).flag w 3 = n)) = true := by decide +kernel
theorem witness_IssueRules_no_lane : (let i : Instr := .add { r3 .i32 with neg := true }
    ruleB i (lab []) fun w fm f => !illegalUse (lab []) w i fm f && !(lab []).held w fm f && !w.takesPart) = true := by decide +kernel
theorem witness_IssueRules_channel : (let i : Instr := .mov (fl (.v 8) (.q 1) (.v 0) .n32)
    ruleB i (lab []) fun w fm f => !illegalUse (lab []) w i fm f && !(lab []).held w fm f && w.takesPart &&
      (channelChecks (lab []) w fm f).isSome) = true := by decide +kernel
theorem witness_IssueRules_static : (let far (s : State) : State := s.updGroup (.lane 1 0 0) fun g => { g with
        quads := [{ g.quad 0 with latch := some { atSlotOne with hdr := { oneSlot with count := 2 } } }] ++ g.quads.drop 1 }
    decide (staticCheck (.add (r3 .f32)) ≠ none) &&
    ruleB (.exitLane none') (far (lab [])) (fun w fm _ => fm.ends && w.latch.slot ≠ w.latch.hdr.count.toNat) &&
    ruleB (.decide none') (lab []) (fun w fm _ => fm.frontOnly && !w.front) &&
    ruleB (.mov { fl (.k 8) (.k 2) (.v 0) .n64 with pred := 3 }) (labF []) (fun w _ f => w.front && f.pred ≠ 15) &&
    ruleB (.trapret none') (lab []) (fun w fm _ => fm.level = .handler && w.level = .lane) &&
    ruleB (.ctxsave none') (labH .handler []) (fun w fm _ => fm.level = .firmware && w.level ≠ .firmware) &&
    (let s := (lab []).updGroup (.lane 1 0 0) fun g => { g with w := 128 };
      ruleB (.add (fl (.v 128) (.v 2) (.v 4) .i64)) s fun w fm f => !w.front &&
        overWindow (.add (fl (.v 128) (.v 2) (.v 4) .i64)) fm f (s.groupOf w).w) &&
    ruleB (.trap none') (labH .firmware []) (fun w _ _ => w.level = .firmware)) = true := by decide +kernel

/-- The small machine with the words of an instruction at address 12, and an agent about to be looked at. -/
def labWords (bs : List Byte) (a : Agent) : State := { (lab []).setBytes 12 bs with agenda := [.issue a] }
theorem witness_StepRunsDecoded_issue : (let s₀ : State := { labWords (bytesOfWord 0x1001E00C00F0520000000000) (.lane 1 0 0) with agenda := [] }
    (s₀.who? (.lane 1 0 0)).any fun w => s₀.mayIssue w && okB (fetchBytes w w.iaddr s₀) fun b _ => match b with
      | none => false
      | some bs => match decodeBytes bs with | .ok (.add _) => true | _ => false) = true := by decide +kernel
theorem witness_StepRunsDecoded_bad : (let s₀ : State := { labWords (List.replicate 12 255) (.lane 1 0 0) with agenda := [] }
    (s₀.who? (.lane 1 0 0)).any fun w => okB (fetchBytes w w.iaddr s₀) fun b _ => match b with
      | none => false
      | some bs => match decodeBytes bs with | .ok _ => false | .error _ => true) = true := by decide +kernel
theorem witness_StepRunsDecoded_trap : (let s₀ : State := { lab [] with launches := [(3, { labLaunch with pins := [] })], agenda := [] }
    (s₀.who? (.lane 1 0 0)).any fun w => s₀.mayIssue w && match fetchBytes w w.iaddr s₀ with
      | .error (.trap _) => true
      | _ => false) = true := by decide +kernel
theorem witness_StepRunsDecoded_lease : (let s₀ : State := { lab [] with launches := [(3, { labLaunch with ranges := [] })] }
    (s₀.who? (.lane 1 0 0)).any fun w => !s₀.inLease w w.iaddr 12 [rightX] && okB (fetchBytes w w.iaddr s₀) fun b _ => b.isNone) = true := by
  decide +kernel
theorem witness_StepRunsDecoded_none : ({ lab [] with agenda := [] } : State).who? (.lane 1 0 3) = none := by decide +kernel
theorem witness_StepRunsDecoded_asleep : (let s := (lab []).updGroup (.lane 1 0 0) fun g => { g with
        quads := [{ g.quad 0 with sleep := some 9 }] ++ g.quads.drop 1 }
    (s.who? (.lane 1 0 0)).any fun w => !s.mayIssue w) = true := by decide +kernel
theorem witness_StepRunsDecoded_bytes : ([0, 65524].all fun va => ((lab []).who? (.lane 1 0 0)).any fun w =>
    (lab []).inLease w va 12 [rightX] && decide (va / 65536 = (va + 11) / 65536) && okB (placeOf w va (lab [])) fun a s₁ =>
      leafClass a.leaf = 5 && okB (replicate w.part w.core (a.pa / 65536 * 65536) s₁) fun _ s₂ =>
        decide (a.pa % 65536 + 12 ≤ (s₂.frameRec w.part (a.pa / 65536 * 65536)).settled) && (s₂.part? 0).any fun p => p.replicas.isEmpty) =
    true := by decide +kernel
theorem witness_StepRunsDecoded_quiet : (lab []).strikes = [] ∧ (∀ e ∈ (lab []).parts, e.2.clkmax < 2 ^ 63) ∧ (lab []).upsets = [] ∧
    ({ lab [] with frozen := true, agenda := [.event .frzInput] } : State).agenda = [.event .frzInput] ∧
    frozenAllows (.event .frzInput) = false := by decide +kernel

/-! ## Memory as a whole -/

theorem witness_MemoryCanonical : Memory.wf State.reset.mem ∧ nextB (step { State.reset with agenda := [.event .frzInput] }) (fun _ => true) = true := by
  decide +kernel

/-- A state in which no line has a holder is tidy. -/
theorem tidy_of_unheld {s : State} (h : (s.lines.all fun e => e.2.holders.isEmpty) = true) : Tidy s := by
  have get : ∀ (l : SMap LineSt) (n : Nat), (l.all fun e => e.2.holders.isEmpty) = true →
      (SMap.getD LineSt.init l n).holders = [] := fun l n => by
    induction l with
    | nil => intro _; rfl
    | cons e t ih =>
      intro h
      simp only [List.all_cons, Bool.and_eq_true, List.isEmpty_iff] at h
      by_cases hn : e.1 = n
      · simpa [SMap.getD, SMap.get?, hn] using h.1
      · simpa [SMap.getD, SMap.get?, hn] using ih h.2
  have e : ∀ n, (s.line n).holders = [] := fun n => get s.lines n h
  exact ⟨fun n => by simp [e n], fun n => by simp [e n], fun n => by simp [e n]⟩
theorem witness_MemoryFrame_read : Tidy (lab []) ∧ (lab []).upsets = [] ∧ leafClass (leaf 0 0x100000) = 0 ∧
    (((lab []).who? (.lane 1 0 0)).any fun w => okB (readPlace w 0x100000 ⟨0x100000, leaf 0 0x100000, none⟩ 8 true (lab []))
      fun _ _ => true) = true := ⟨tidy_of_unheld (by decide +kernel), by decide +kernel⟩
theorem witness_MemoryFrame_write : Tidy (lab []) ∧ ([0x100000, 0x100038].all fun a => decide (a % 64 + 8 ≤ 64) && !(lab []).isPoison (a / 64) &&
    ((lab []).who? (.lane 1 0 0)).any fun w => okB (writePlace w ⟨a, leaf 0 0x100000, some 0x222000⟩ (List.replicate 8 7) (lab []))
      fun _ _ => true) = true := ⟨tidy_of_unheld (by decide +kernel), by decide +kernel⟩
theorem witness_MemoryFrame_atomic : (((lab []).who? (.lane 1 0 0)).any fun w => okB (storePlace w 0x100038 false (lab [])) fun r s₁ =>
    (s₁.lines.all fun e => e.2.holders.isEmpty) && s₁.upsets.isEmpty && decide (leafClass r.1.leaf = 0 ∧ r.1.pa % 64 + 8 ≤ 64) && !s₁.isPoison (r.1.pa / 64) &&
      okB (genAtomic w 0x100038 .n64 .fadd 1 0 (lab [])) fun _ _ => true) = true := by decide +kernel

/-- What `StoreThenLoad` asks of a state, a core and bytes of a line, but for its order of holders. -/
def storeLoadB (s : State) (c line o : Nat) (bs : List Byte) (priv keep : Bool) : Bool :=
  (s.part? 0).any fun p =>
    let sl := s.slice (homeSlice 0 p.size line)
    let l := s.line line
    decide (o + bs.length ≤ 64) && !bs.isEmpty && decide (l.absWts sl < 2 ^ 63) && decide (l.absRts sl < 2 ^ 63) &&
    (l.holders.all fun h => decide (h.ts < 2 ^ 63)) && (l.holders.isEmpty || decide (l.absRts sl = l.absWts sl)) &&
    ((SMap.get? (s.core c).l1 line).all fun x => x.stable.isSome || (decide (x.lease ≤ l.absRts sl) && decide (x.wts ≤ l.absRts sl))) &&
    okB (coherentWrite 0 c 0 line o bs priv s) fun ts t => decide (ts < 2 ^ 63) && okB (coherentRead 0 c line o bs.length keep t) fun _ _ => true
/-- Line 0x4000, privatised by cores 0 and 1, of which core 0 keeps an L1 copy. -/
def labShared : State :=
  ({ lab [] with lines := [(0x4000, { LineSt.init with wts := 9, rts := 9, holders := [⟨0, 0xFF, 0, [(1, 7)], 10⟩, ⟨1, 0xFF00, 0, [], 9⟩] })] } : State)
    |>.updCore 0 fun k => { k with l1 := [(0x4000, ⟨2, 9, List.replicate 64 0, 0, none⟩)] }
theorem witness_StoreThenLoad_home : Tidy (lab []) ∧ ([0, 56].all fun o => [true, false].all fun priv =>
    storeLoadB (lab []) 0 0x4000 o (List.replicate 8 7) priv true) = true := ⟨tidy_of_unheld (by decide +kernel), by decide +kernel⟩
/-- A state that lists one line is tidy where that line is. -/
theorem tidy_of_one {s : State} {n : Nat} {l : LineSt} (h : s.lines = [(n, l)]) (h1 : (l.holders.map (·.core)).Nodup)
    (h2 : ∀ h ∈ l.holders, SMap.rising none h.dirty = true ∧ ∀ e ∈ h.dirty, e.1 < 64 ∧ h.mask.getLsbD e.1 = true)
    (h3 : l.holders.Pairwise fun g h => g.mask &&& h.mask = 0) : Tidy s := by
  have e : ∀ m, (s.line m).holders = l.holders ∨ (s.line m).holders = [] := fun m => by
    by_cases hm : n = m <;> simp [State.line, SMap.getD, SMap.get?, h, LineSt.init, hm]
  refine ⟨fun m => ?_, fun m => ?_, fun m => ?_⟩ <;> rcases e m with e | e <;> rw [e]
  · exact h1
  · simp
  · exact h2
  · simp
  · exact h3
  · simp
theorem witness_StoreThenLoad_holder : Tidy labShared ∧ storeLoadB labShared 0 0x4000 0 (List.replicate 8 7) true true = true :=
  ⟨tidy_of_one rfl (by decide) (by decide) (by decide), by decide +kernel⟩

end Sys2Proof.Tests
end

