-- ==== Sys2Proof/Tests/WitnessTasks.lean ====
section
/-!
SUPPORT. For each clause of the statements about tasks, launches and announcements, a concrete state and operands
that meet its premises together.
-/

set_option Elab.async false

namespace Sys2Proof.Tests

open Sys2Proof Sys2Proof.Machine Sys2Proof.Claims

/-- Whether an instruction with one 32-bit source is executed, and the source passes a test. -/
def rawB (i : Instr) (s : State) (p : Who → Form → Fields → (Nat → DWord) → State → Bool) : Bool :=
  issueB i s fun w fm f => src1 (readSrcs w f.imm [srcRaw f.sa] (onward s w fm)) fun a s₁ => p w fm f a s₁

/-! ## The register pool -/

/-- The group with a window of w registers, as many allocated. -/
def labWin (w : Nat) (regs : SMap Word) : State := (lab regs).updGroup (.lane 1 0 0) fun g => { g with w := w, alloc := regsOf w }
/-- The fields of a pool form with a count in v2. -/
def pool (k : BitVec 8) : Fields := fl (.v 0) (.v 2) (.immS k)
theorem witness_RegisterPool_bad : ([0, 449].all fun n => rawB (.alloc (pool 0)) (labWin 64 [(2, n)]) fun w _ f a s₁ =>
    let n := (a w.low).toNat % 2 ^ 32
    decide (rawImm f.imm f.sb ≠ 1 ∧ (n = 0 ∨ 512 < (s₁.groupOf w).w + n))) = true ∧
    rawB (.claim (fl (.v 0) (.v 2) (.v 0))) (labWin 64 []) (fun w _ _ a _ => (a w.low).toNat % 2 ^ 32 = 0) = true := by decide +kernel
theorem witness_RegisterPool_grow : ([(Instr.alloc (pool 0)), .claim (fl (.v 0) (.v 2) (.v 0))].all fun i =>
    rawB i (labWin 64 [(2, 8)]) fun w _ _ a s₁ =>
      let n := (a w.low).toNat % 2 ^ 32
      decide (0 < n ∧ (s₁.groupOf w).w + n ≤ 512) && s₁.canGrow w n) = true := by decide +kernel
theorem witness_RegisterPool_outside : ([0, 1572865].all fun n => rawB (.alloc (pool 1)) (lab [(2, n)]) fun w _ f a _ =>
      let n := (a w.low).toNat % 2 ^ 32
      decide (rawImm f.imm f.sb = 1 ∧ (n = 0 ∨ 1572864 < n))) = true ∧
    ([0, 64].all fun n => rawB (.releaseRegs (fl (.v 0) (.v 2) (.v 0))) (labWin 64 [(2, n)]) fun w _ _ a s₁ =>
      let n := (a w.low).toNat % 2 ^ 32
      decide (n = 0 ∨ (s₁.groupOf w).w < n + 1)) = true := by decide +kernel
/-- The small machine whose side has no register left, its task in a mode. -/
def labFull (mode : Mode) (n : Word) : State := (withTeam (labWin 64 [(2, n)]) fun x => { x with mode := mode }).updTeam 1 fun x =>
  { x with groups := x.groups ++ (List.range 31).map fun i => (2 * i + 2, { Group.start 0 512 0 0 with w := 512, alloc := regsOf 512, live := true }) }
theorem witness_RegisterPool_unmet : ([Mode.committed, .tentative, .direct].all fun m =>
    [(Instr.alloc (pool 0)), .claim (fl (.v 0) (.v 2) (.v 0))].all fun i => rawB i (labFull m 448) fun w _ _ a s₁ =>
      let n := (a w.low).toNat % 2 ^ 32
      decide (0 < n ∧ (s₁.groupOf w).w + n ≤ 512) && !s₁.canGrow w n && (s₁.firstOpen w = decide (m ≠ .committed))) = true := by decide +kernel
/-- The life without banks, or with bank 16 alone. -/
def labBanks (banks : List Nat) (n : Word) : State := (lab [(2, n)]).updLife 2 fun l => { l with banks := banks, scratch := 32768 * banks.length }
theorem witness_RegisterPool_banks : ([([16], 32769), ([], 1), ([], 65536), ([], 1572864)].all fun (e : List Nat × Nat) =>
    rawB (.alloc (pool 1)) (labBanks e.1 (BitVec.ofNat 32 e.2)) fun w _ f a s₁ =>
      let n := (a w.low).toNat % 2 ^ 32
      decide (rawImm f.imm f.sb = 1 ∧ w.level = .lane ∧ 0 < n ∧ n ≤ 1572864 ∧ n = e.2) && (s₁.life? w.life).any fun g =>
        g.banks = e.1 && if g.banks ≠ [] then decide (g.scratch < n)
          else decide ((s₁.freeBanks w.core).length * 32768 < n) = decide (n = 1572864)) = true ∧
    rawB (.alloc (pool 1)) (labH .handler [(2, 1)]) (fun w _ f a _ =>
      let n := (a w.low).toNat % 2 ^ 32
      decide (rawImm f.imm f.sb = 1 ∧ 0 < n ∧ n ≤ 1572864 ∧ w.level ≠ .lane)) = true := by decide +kernel
theorem witness_RegisterPool_scratch : ([1, 32768].all fun n => rawB (.alloc (pool 1)) (lab [(2, n)]) fun w _ f a s₁ =>
    let n := (a w.low).toNat % 2 ^ 32
    decide (rawImm f.imm f.sb = 1 ∧ w.level = .lane ∧ 0 < n ∧ n ≤ 1572864) &&
      (s₁.life? w.life).any fun g => !g.banks.isEmpty && decide (n ≤ g.scratch)) = true := by decide +kernel
theorem witness_RegisterPool_release : ([1, 63].all fun n => rawB (.releaseRegs (fl (.v 0) (.v 2) (.v 0))) (labWin 64 [(2, n)])
    fun w _ _ a s₁ =>
      let n := (a w.low).toNat % 2 ^ 32
      let win := (s₁.groupOf w).w
      decide (0 < n ∧ n + 1 ≤ win ∧ n + s₁.carriedTop w ≤ win ∧ w.level = .lane)) = true ∧
    rawB (.releaseRegs (fl (.v 0) (.v 2) (.v 0))) (labH .handler [(2, 8)]) (fun w _ _ a s₁ =>
      let n := (a w.low).toNat % 2 ^ 32
      let win := (s₁.groupOf w).w
      decide (0 < n ∧ n + 1 ≤ win ∧ n + s₁.carriedTop w ≤ win ∧ w.level ≠ .lane) && (s₁.group? w.agent).isSome) = true := by decide +kernel

/-! ## Task forms -/

/-- The task in tentative mode with one byte staged at 0x100000. -/
def labTent : State := withTeam (lab []) fun x => { x with mode := .tentative, tent := [(0x110000, 7)] }
theorem witness_TaskForms_commit : issueB (.commit none') labTent (fun w fm _ => okB (commitTask w (onward labTent w fm)) fun _ _ => true) =
    true := by decide +kernel
theorem witness_TaskForms_taskend : issueB (.taskend none') (lab []) (fun w _ _ => decide (w.level = .lane) && !w.front &&
    w.lanes.all fun i => i < ((lab []).groupOf w).lanes.length) = true := by decide +kernel
theorem witness_TaskForms_bins : (let s := withTeam (lab []) fun x => { x with bins := [(0, ⟨96, 4, 512, 0, [⟨[], 0, 0, 5⟩]⟩)] }
    issueB (.phase (fl (.v 0) (.s 2) (.v 0) .i8 0 2)) s fun w fm _ => ((onward s w fm).teamOf w).any fun x => !x.bins.isEmpty) = true := by
  decide +kernel
/-- The group with a scalar pair at s2. -/
def labS (n : Word) : State := (lab []).updGroup (.lane 1 0 0) fun g => { g with sreg := [(2, n)] }
theorem witness_TaskForms_phase : ([0, 96, 47].all fun n =>
    issueB (.phase (fl (.v 0) (.s 2) (.v 0) .i8 0 2)) (labS n) fun w fm f =>
      src1 (readSrcs w f.imm [srcPair f.sa] (onward (labS n) w fm)) fun a s₁ =>
        (((onward (labS n) w fm).teamOf w).all fun x => x.bins.isEmpty) && decide ((a w.low).toNat = n.toNat ∧ w.level = .lane) &&
          w.act.all fun i => i < (s₁.groupOf w).lanes.length) = true := by decide +kernel

/-- The machine with a launch descriptor at 0x110000: no ranges, its status record at 0x100100. -/
def labLaunchDesc : State :=
  ((lab [(2, 0x110000)]).setLe (0x110000 + 24) 8 0x100100)
/-- Whether a `launch` of lane 0 is executed, and the first fault, the second one and the rest pass a test. -/
def launchFormB (s : State) (p : Option Trap → Option Trap → Bool) : Bool :=
  issueB (.launch (only (fl (.v 0) (.v 2) (.v 0)))) s fun w fm f => okB (readEaA w f (onward s w fm)) fun ea s₁ =>
    let l : List Acc := (srcIssuers w f.sa).map fun i => ⟨i, ea i, ea i⟩
    let first : Option Trap := failing w kALIGN 1 l (fun x => decide (x.ea % 64 ≠ 0)) <|>
      failing w kLEASE 1 l fun x => !s₁.inLease w x.va 64 [rightR]
    if first.isSome then p first none
    else okB (collectM l (fun x => genRun w x.va 64) s₁) fun hs s₂ =>
      let ranges (i : Nat) : Nat := fieldOf ((((l.zip hs).find? fun e => e.1.lane = i).map fun e => e.2.1).getD []) 7 1
      let status : List Acc := (l.zip hs).map fun e => ⟨e.1.lane, fieldOf e.2.1 24 8, fieldOf e.2.1 24 8⟩
      let second : Option Trap :=
        failing w kLEASE 1 l (fun x => ranges x.lane ≠ 0 && decide (ranges x.lane ≤ 16) &&
          !s₂.inLease w (x.va + 64) (24 * ranges x.lane) [rightR]) <|> statusFault s₂ w status
      p first second && (second.isSome || okB (collectM l (fun x => if ranges x.lane ≤ 16 then genRun w (x.va + 64) (24 * ranges x.lane)
        else pure ([], false)) s₂) fun _ s₃ => okB (commitTask w s₃) fun _ s₄ =>
          okB (each status (fun x => walkReads w.part w.core w.ctx x.va) s₄) fun _ _ => true)
theorem witness_LaunchAndSpawn_launch : ([0, 1, 17].all fun n => launchFormB (labLaunchDesc.setLe (0x110000 + 7) 1 n) fun a b =>
    a.isNone && b.isNone) = true := by decide +kernel
theorem witness_LaunchAndSpawn_faults : launchFormB (lab [(2, 0x110001)]) (fun a _ => a.any fun t => t.kind = kALIGN) = true ∧
    launchFormB (lab [(2, 0x50000)]) (fun a _ => a.any fun t => t.kind = kLEASE) = true ∧
    launchFormB (lab [(2, 0x110000)]) (fun a b => a.isNone && b.isSome) = true := by decide +kernel
/-- A kernel of one range of code, with 32 registers a lane and no scratchpad. -/
def labKernel : Kernel := ⟨0, 0, 120000, [1, 1, 1], 0, 32, 0, 1, 7, 1, 1, 0, [⟨0, 0x10000, 5⟩]⟩
/-- The machine whose launch has a kernel. -/
def labK (regs : SMap Word) : State := (lab regs).updLaunch 3 fun l => { l with kernel := some labKernel }
/-- The same with a continuation record in its scratchpad: code at 0, one group, one point of each axis. -/
def labSpawn : State := (labK [(2, 0xF0000000)]).setSpad labLife 0xF0000000
  (leBytesOf 56 0 ++ leBytesOf 4 0 ++ leBytesOf 4 1 ++ leBytesOf 4 0 ++ leBytesOf 4 1 ++ leBytesOf 4 0 ++ leBytesOf 4 1 ++
    leBytesOf 3 0 ++ leBytesOf 1 1 ++ leBytesOf 44 0)
theorem witness_LaunchAndSpawn_spawn : rawB (.spawn (only (fl (.v 0) (.v 2) (.v 0)))) labSpawn (fun w _ f a s₁ =>
    let l := (srcIssuers w f.sa).map fun i => (i, (a i).toNat % 2 ^ 32)
    (firstFault w (l.map fun e => (e.1, spawnCheck s₁ w e.2))).isNone && okB (commitTask w s₁) fun _ s₂ => (s₂.part? w.part).any fun _ =>
        let pts := (s₂.core w.core).pts
        okB (touchRows w l 128 ((l.map fun e => TaskRec.ofBytes (s₁.spawnBytes w e.2)).foldl (fun s r =>
          let n := s.freshRec w.part w.ctx { r with slot := ((s₂.launch? w.launch).map (·.slot)).getD 0 } pts
          n.2.pushRec w.part w.ctx w.launch n.1 none []) s₂)) fun _ _ => true) = true ∧
    rawB (.spawn (only (fl (.v 0) (.v 2) (.v 0)))) (labK [(2, 0xF0000001)]) (fun w _ f a s₁ =>
      let l := (srcIssuers w f.sa).map fun i => (i, (a i).toNat % 2 ^ 32)
      (firstFault w (l.map fun e => (e.1, spawnCheck s₁ w e.2))).isSome) = true := by decide +kernel

/-! ## Task events -/

/-- The machine whose launch has a kernel, with an entry in the task queue. -/
def labQueue (e : QEnt) (f : State → State := id) : State := f ((labK []).updPart 0 fun p => { p with queue := [e] })
/-- The entry of a first phase, and that of a later phase of life 2. -/
def labFirst : QEnt := ⟨placedTask, 0, 3, none, [], 0, 0, 0, []⟩
def labLater : QEnt := ⟨{ placedTask with later := true }, 0, 3, some 2, [], 0, 0, 0, []⟩
theorem witness_TaskEvents_none : ((lab []).popChoice 0 1).isNone = true := by decide +kernel
theorem witness_TaskEvents_first : (labQueue labFirst).popChoice 0 1 = some labFirst := by decide +kernel
theorem witness_TaskEvents_later : (let s := labQueue labLater fun s => s.removeTeam 1
    decide (s.popChoice 0 0 = some labLater) && okB (startLater 0 2 labLater (s.popEntry 0 labLater)) fun _ _ => true) = true := by
  decide +kernel
/-- A test of the team of the small machine. -/
def teamB (s : State) (p : Team → Bool) : Bool := (s.team? 1).any p
theorem witness_TaskEvents_allowance : (let p (x : Team) : Bool := x.allow = 0 && !x.allowOut && x.fault.isNone && x.ending.isNone
    teamB (withTeam (lab []) fun x => { x with allow := 0, mode := .tentative }) (fun x => p x && x.mode ≠ .committed && !x.task.later) &&
    teamB (withTeam (lab []) fun x => { x with allow := 0 }) (fun x => p x && x.mode = .committed) &&
    teamB (lab []) fun x => x.allow ≠ 0) = true := by decide +kernel
/-- The team whose lanes have arrived at the end of their phase. -/
def labArrived : State := withTeam (labK []) fun x => { x with groups := SMap.modify x.groups 0 fun g =>
  { g with lanes := g.lanes.map fun l => { l with st := .arrived, tgt := 96 }, quads := g.quads.map fun q => { q with latch := none, cur := 0 } } }
theorem witness_TaskEvents_arrival : (match labArrived.team? 1, labArrived.life? 2 with
    | some x, some l => match SMap.get? x.groups 0, (labArrived.launch? l.launch).bind (·.kernel) with
      | some y, some k => y.live && y.noPath && y.anyArrived && y.flags.isEmpty && y.late.isEmpty && x.ending.isNone &&
          okB (finishTask 1 (
            let s := (labArrived.updPhase x.life fun p =>
              { p with arrived := p.arrived ||| BitVec.ofNat 64 (2 ^ 0), tsmax := max p.tsmax (labArrived.core x.core).pts }).putArea
                x.life 0 k (areaOf k y)
            let s := s.updGroup (.lane 1 0 0) fun y => { y with hasArrived := true, live := false }
            (s.updTeam 1 Team.trimDq).poolChanged x.core (0 % 2))) fun _ _ => true
      | _, _ => false
    | _, _ => false) = true := by decide +kernel
/-- The team ends, with no group left. -/
def labEnding (k : EndKind) : State := withTeam (lab []) fun x => { x with
  ending := some k, run := .halting, front := { x.front with run := false, latch := none }
  groups := SMap.modify x.groups 0 fun g => { g with live := false } }
theorem witness_TaskEvents_end : ([EndKind.life, .phase].all fun k =>
    let s := labEnding k
    teamB s fun x => x.fault.isNone && (x.lateOf 1).isNone && x.ending = some k && x.mode = .committed && x.groupsOver &&
      (s.life? x.life).any fun f => !s.opsOf x.life x.gen && okB (joinEnd f x.life x.core x.gen x.task s) fun _ _ => true) = true := by
  decide +kernel

/-! ## Launch events -/

/-- The machine whose launch stands in another state. -/
def labLaunched (f : Launch → Launch) (g : State → State := id) : State := g ((labK []).updLaunch 3 f)
/-- A test of launch 3 and partition 0. -/
def launchB (s : State) (p : Launch → Part → Bool) : Bool := (s.launch? 3).any fun l => (s.part? l.part).any fun q => p l q
/-- A kernel of a well-formed shape. -/
def labKernel' : Kernel := { labKernel with clw := 1, clh := 1, axes := 1, split := 0, prio := 7 }
/-- The machine with a launch 7 of some ranges, a parent. -/
def labInner (rs : List Range) : State := { lab [] with launches := [(3, labLaunch), (7, { labLaunch with ranges := rs })] }
theorem witness_LaunchEvents_idle : launchB (labK []) (fun l p => p.pstate ≠ 1 || l.st ≠ .pending || l.waiting.isSome) = true := by
  decide +kernel
theorem witness_LaunchEvents_grant : (let s := labLaunched fun l => { l with st := .pending, pins := [], ready := true }
    launchB s fun l p => p.pstate = 1 && l.st = .pending && l.waiting.isNone && l.ready && okB (grantSlot 3 l s) fun _ _ => true) = true := by
  decide +kernel
/-- A walk of the launch's one range through the root table at 0x220000. -/
def labWalkRange (rights : BitVec 8) (f : State → State) : State :=
  f (labLaunched fun l => { l with
    st := .pending, pins := [], ready := false, statusPin := ⟨0x100000, 0x10000, leaf 0 0x100000, 0⟩, status := 0x100000
    ranges := [⟨0, 0x10000, rights⟩] })
/-- Whether the last step of LAUNCH_GRANT answers. -/
def slotB (n : Nat) (u : State) : Bool := (u.launch? n).all fun m => !m.ready || okB (grantSlot n m u) fun _ _ => true
/-- Whether a failed check of LAUNCH_GRANT answers. -/
def turnedB (n : Nat) (t : Stuck) (s : State) : Bool :=
  match t with
  | .refuse code detail => okB (endLaunch n code (some detail) s) fun _ u => slotB n u
  | .absent va pages => (s.launch? n).any fun l => okB (postResidency n l va pages s) fun _ u => slotB n u
/-- Whether the walk of a launch answers, and a test of what it found. -/
def walkedB (n : Nat) (l : Launch) (s : State) (q : Option Stuck → Bool) : Bool :=
  let x := walkRanges s l l.ranges
  okB (schedWalks l.part l.ctx l.clk (x.1.map (·.lo) ++ Stuck.at? x.2) s) fun clk s₁ =>
    let t := (s₁.updLaunch n fun l => { l with clk := max l.clk clk }).updLaunch n fun l => { l with pins := pinsOf x.1 }
    let e := x.2 <|> spanRights t l.part x.1
    q e && match e with
      | some e => turnedB n e t
      | none => slotB n (t.updLaunch n fun l => { l with ready := true })
/-- The premises of a walk, and a test of what it found. -/
def walkB (s : State) (q : Option Stuck → Bool) : Bool :=
  launchB s fun l p => p.pstate = 1 && l.st = .pending && l.waiting.isNone && !l.ready && l.kernel.isSome && walkedB 3 l s q
/-- Whether a check refused, and whether a page is absent. -/
def refused : Option Stuck → Bool
  | some (.refuse ..) => true
  | _ => false
def absent' : Option Stuck → Bool
  | some (.absent ..) => true
  | _ => false
theorem witness_LaunchEvents_walk : walkB (labWalkRange 1 id) absent' = true ∧
    walkB (labWalkRange 1 fun s => s.setLe 0x220000 8 0x7F) refused = true := by decide +kernel
/-- A table of one page of class 0 at address 0 under the root table. -/
def labTable (s : State) : State :=
  ((((s.setLe 0x220000 8 0x231001).setLe 0x231000 8 0x232001).setLe 0x232000 8 0x233001).setLe 0x233000 8 0x234001).setLe 0x234000 8
    (leaf 0 0x100000).toNat
theorem witness_LaunchEvents_walked : walkB (labWalkRange 1 labTable) Option.isNone = true ∧ walkB (labWalkRange 4 labTable) refused = true := by
  decide +kernel
/-- A launch whose kernel is not read: its descriptor stands at 0x40, with a number of registers and one lease record. -/
def labKdesc (regs : Nat) (f : State → State) : State :=
  let d := 0x100040
  ((((((((labWalkRange 1 f).updLaunch 3 fun l => { l with kernel := none, kdesc := 0x40, rangen := 0, ranges := [] }).setLe
    (d + 16) 4 0x01010101).setLe (d + 22) 2 regs).setLe (d + 28) 4 1).setLe (d + 32) 4 1).setLe (d + 36) 4 1).setLe (d + 44) 4 128
      |> fun s => (s.setLe (d + 128) 1 5).setLe (d + 136) 8 0x10000)
/-- The premises of a grant that reads its kernel, with tests of the reading, the checks and the walk. -/
def declareB (s : State) (read check walk : Option Stuck → Bool) : Bool :=
  launchB s fun l p => p.pstate = 1 && l.st = .pending && l.waiting.isNone && !l.ready && l.kernel.isNone &&
    okB (readKernel 3 l s) fun r s₁ => read r.1 && match r.1 with
      | some e => turnedB 3 e s₁
      | none => (s₁.launch? 3).any fun l₁ => l₁.kernel.any fun k =>
          let rs := k.ranges ++ l.ranges
          let c := declareCheck s₁ l₁ k r.2 rs
          check c && match c with
            | some e => turnedB 3 e s₁
            | none => walkedB 3 { l₁ with ranges := rs } (s₁.updLaunch 3 fun _ => { l₁ with ranges := rs }) walk
theorem witness_LaunchEvents_declare : declareB (labKdesc 32 id) absent' (fun _ => true) (fun _ => true) = true ∧
    declareB (labKdesc 0 labTable) Option.isNone refused (fun _ => true) = true ∧
    declareB (labKdesc 32 labTable) Option.isNone Option.isNone (fun _ => true) = true := by decide +kernel
theorem witness_LaunchEvents_codes : (let l : Launch := { labLaunch with rangen := 0, args := 0 }
    let r (b n : Nat) (x : BitVec 8) : Range := ⟨b, n, x⟩
    16 < labKernel.ranges.length + 16 ∧ (r 0 0 5).bad = true ∧ (r 0 0x10000 5).bad = false ∧
    badShape l { labKernel with regs := 0 } = true ∧ badShape l { labKernel with regs := 513 } = true ∧ badShape l labKernel' = false ∧
    overlaps 0 0x20000 0x10000 0x10000 = true ∧
    declareCheck (lab []) l labKernel' 128 [⟨0, 0x10000, 5⟩] = none ∧
    declareCheck (labInner [⟨0, 0x10000, 5⟩]) { l with parent := some 7 } labKernel' 128 [⟨0, 0x10000, 5⟩] = none) := by
  decide +kernel
theorem witness_LaunchEvents_answer : ([0, 1, 2].all fun n =>
    let s := (labLaunched (fun l => { l with
        st := .pending, waiting := some 0, statusPin := ⟨0x100000, 0x10000, leaf 0 0x100000, 0⟩, status := 0x100000 })
      fun s => s.updPart 0 fun p => { p with resq := [⟨0, 3, 0x100000⟩] }).setLe 0x3F0000 4 n
    (s.part? 0).any fun p => (p.resq.find? fun r => r.slot = 0).any fun r => p.pstate = 1 &&
      okB (mergeLine 0 ((p.cfg.resq + 32 * 0) / 64) s) fun _ s₁ => s₁.le (p.cfg.resq + 32 * 0) 4 = n && (n ≠ 2 ||
        okB (endLaunch r.launch 0x17 (some r.va) ((s₁.updPart 0 fun p => { p with resq := p.resq.filter fun x => x ≠ r }).updLaunch
          r.launch fun l => { l with waiting := none })) fun _ _ => true)) = true := by decide +kernel
theorem witness_LaunchEvents_busy : launchB (lab []) (fun l _ => l.st = .granted && (lab []).launchBusy 3 l) = true := by decide +kernel
theorem witness_LaunchEvents_ckpt : ([none, some 24].all fun (k : Option Nat) =>
    let s := (labLaunched (fun l => { l with killed := k, status := 0x100000, statusPin := ⟨0x100000, 0x10000, leaf 0 0x100000, 0⟩ })
      fun s => { s with teams := [], lives := [] }).setLe 0x200000 1 5
    launchB s fun l p => l.st = .granted && !s.launchBusy 3 l && (l.host && s.ctxCkpt p l.ctx) &&
      match l.killed with
      | none => okB (checkpoint 3 l s) fun _ s₁ => okB (endLaunch 3 2 none s₁) fun _ _ => true
      | some _ => okB (rollbackContext 0 l.ctx s) fun _ _ => true) = true := by decide +kernel
theorem witness_LaunchEvents_end : ([none, some 24].all fun (k : Option Nat) =>
    let s := (labLaunched (fun l => { l with killed := k, status := 0x100000, statusPin := ⟨0x100000, 0x10000, leaf 0 0x100000, 0⟩ })
      fun s => { s with teams := [], lives := [] })
    launchB s fun l p => l.st = .granted && !s.launchBusy 3 l && !(l.host && s.ctxCkpt p l.ctx) &&
      match l.killed with
      | none => okB (endLaunch 3 2 none s) fun _ _ => true
      | some a => okB (endLaunch 3 3 (some a) s) fun _ _ => true) = true := by decide +kernel

/-! ## Announcements -/

theorem witness_AnnounceForms_annq : ([0, 0x10001].all fun n => rawB (.annq (fl (.v 8) (.v 2) (.v 0))) (lab [(2, n)])
    fun _ _ _ _ _ => true) = true ∧
    rawB (.annq (fl (.v 8) (.v 2) (.v 0))) (lab []) (fun w _ f a s₁ => okB (commitTask w s₁) fun _ s₂ =>
      okB (each (accessLanes w f.dst) (fun i => meetRecord w.part w.ctx ((a i).toNat % 2 ^ 32)) s₂) fun _ s₃ =>
        okB (reserveDst w f.dst s₃) fun _ _ => true) = true := by decide +kernel
theorem witness_AnnounceForms_help : ([0x100000, 0x110008, 0x50000].all fun n =>
    let s := lab [(2, n)]
    issueB (.helpObj (only (fl (.v 8) (.v 2) (.v 0)))) s fun w fm f => okB (readEaA w f (onward s w fm)) fun ea s₁ =>
      let l := s₁.accs w false ea (accessLanes w f.dst)
      if (failing w kLEASE 1 l fun a => !s₁.inLease w a.va 1 [rightR, rightW]).isSome then n = 0x50000
      else okB (commitTask w s₁) fun _ s₂ => okB (collectM l (helpLane w) s₂) fun _ s₃ => okB (reserveDst w f.dst s₃) fun _ _ => true) =
    true := by decide +kernel
theorem witness_AnnounceForms_ann : ([AOp.fadd, .cas].all fun op =>
    let s := lab [(2, 0x110000), (4, 3), (5, 0)]
    [Opnd.v 8, .p 15].all fun d => issueB (.ann op (only { (if op = .cas then r4 .n32 else r3 .n32) with dst := d })) s fun w fm f =>
      src3 (readSrcs w f.imm [srcPair f.sa, srcTyped f.ty f.sb, if op = .cas then srcTyped f.ty (thirdOf f) else srcRaw (.v 0)]
        (onward s w fm)) fun a c e s₁ =>
        let l := s₁.accs w false (fun i => (a i).toNat) (accessLanes w f.dst)
        (objFault s₁ w f.ty.bytes l).isNone && okB (commitTask w s₁) fun _ s₂ => okB (takeRecords w l.length l s₂) fun is s₃ =>
          okB (collectM (l.zip is) (fun x => annLane w op f.ty (decide (f.dst = .p 15)) x.1 x.2 (c x.1.lane) (e x.1.lane)) s₃)
            fun _ _ => true) = true := by decide +kernel

theorem witness_AnnounceForms_collect : (let s := lab [(2, 0x10005)]
    let done := s.annPut 0 0 1 11 1 2
    [s, done].all fun s => issueB (.collect (fl (.v 8) (.v 2) (.v 0))) s fun w fm f =>
      src1 (readSrcs w f.imm [srcRaw f.sa] (onward s w fm)) fun a s₀ =>
        let h (i : Nat) : Nat := (a i).toNat % 2 ^ 32
        let lanes := accessLanes w f.dst
        okB (each lanes (fun i => meetRecord w.part w.ctx (h i)) s₀) fun _ s₁ =>
        let l := (lanes.filterMap fun i => (s₁.annTakes w.part w.ctx (h i)).map fun r => (i, r)).map
          fun e => (⟨e.1, s₁.annGet w.part w.ctx e.2 24 8, e.2⟩ : Acc)
        (failing w kLEASE 1 l fun x => s₁.annState w.part w.ctx x.va = 1 &&
          !s₁.inLease w x.ea (s₁.annWidth w.part w.ctx x.va) [rightR, rightW]).isNone && okB (commitTask w s₁) fun _ s₂ =>
            okB (collectM lanes (fun i => collectLane w (h i)) s₂) fun _ _ => true) = true := by decide +kernel
/-- Handles of record 1 as the table counts them, and the record in a state: whether it is taken. -/
def labTaken (st : Nat) : State := (lab []).annPut 0 0 1 11 1 st
theorem witness_AnnounceForms_taken : ((lab []).who? (.lane 1 0 0)).any (fun w =>
    ((labTaken 2).annTakes w.part w.ctx ((labTaken 2).annHandle w.part w.ctx 1) = some 1) && (labTaken 2).annState w.part w.ctx 1 = 2 &&
    ((labTaken 0).annTakes w.part w.ctx ((labTaken 0).annHandle w.part w.ctx 1)).isNone) = true := by decide +kernel
/-- The small machine without a free record of its table of announcements. -/
def labNoRec (s : State) : State := s.setLe 0x210000 2 0
theorem witness_AnnounceForms_none : (let s := labNoRec (lab [(2, 0x110000), (4, 3), (5, 0)])
    issueB (.ann .fadd (only (r3 .n32))) s fun w fm f =>
      src3 (readSrcs w f.imm [srcPair f.sa, srcTyped f.ty f.sb, srcRaw (.v 0)] (onward s w fm)) fun a _ _ s₁ =>
        let l := s₁.accs w false (fun i => (a i).toNat) (accessLanes w f.dst)
        (objFault s₁ w f.ty.bytes l).isNone && okB (commitTask w s₁) fun _ s₂ => okB (meetLine (s₂.atab w.part w.ctx / 64) s₂) fun _ u =>
          (u.isPoison (s₂.atab w.part w.ctx / 64) || (u.annAlloc w.part w.ctx l.length).isNone)) = true ∧
    (let s := lab [(2, 0x110002), (4, 3), (5, 0)]
    issueB (.ann .fadd (only (r3 .n32))) s fun w fm f =>
      src3 (readSrcs w f.imm [srcPair f.sa, srcTyped f.ty f.sb, srcRaw (.v 0)] (onward s w fm)) fun a _ _ s₁ =>
        (objFault s₁ w f.ty.bytes (s₁.accs w false (fun i => (a i).toNat) (accessLanes w f.dst))).isSome) = true := by decide +kernel
theorem witness_AnnounceForms_bcas : ([0, 1, 2].all fun bad =>
    let s := lab [(2, 0x110000), (4, 0x110008), (6, if bad = 1 then 0xF0000001 else 0xF0000000)]
    let s := if bad = 2 then labNoRec s else s
    issueB (.bcas (only { r4 .n32 with imm := 6 })) s fun w fm f =>
      src3 (readSrcs w f.imm [srcPair f.sa, srcPair f.sb, srcRaw (thirdOf f)] (onward s w fm)) fun a b c s₁ =>
        let lanes := accessLanes w f.dst
        let xs := s₁.accs w false (fun i => (a i).toNat) lanes
        let ys := s₁.accs w false (fun i => (b i).toNat) lanes
        let cs := spadAccs (fun i => (c i).toNat % 2 ^ 32) lanes
        if (objFault s₁ w f.ty.bytes ((xs.zip ys).flatMap fun e => [e.1, e.2]) <|> spadFault s₁ w 32 32 cs).isSome then bad = 1
        else okB (reserveDst w f.dst s₁) fun _ s₂ => okB (commitTask w s₂) fun _ s₃ =>
          okB (collectM cs (fun x => bcasArgs w x.ea) s₃) fun args s₄ =>
            if okB (meetLine (s₄.atab w.part w.ctx / 64) s₄) (fun _ u => u.isPoison (s₄.atab w.part w.ctx / 64) ||
              (u.annAlloc w.part w.ctx (2 * lanes.length)).isNone) then bad = 2
            else okB (takeRecords w (2 * lanes.length) xs s₄) fun is s₅ =>
              okB (collectM (((xs.zip ys).zip (cs.zip args)).zip (List.range lanes.length)) (fun e =>
                bcasPart w f.dst e.1.1.1 e.1.1.2 e.1.2.1.ea (is.getD (2 * e.2) 0) (is.getD (2 * e.2 + 1) 0) e.1.2.2.1 e.1.2.2.2)
                s₅) fun _ _ => bad = 0) = true := by decide +kernel

/-- The machine with record 1, of an addition to 0x110000, in a state since cycle 0, at a cycle. -/
def labWalk (st cyc : Nat) : State :=
  let s := (((lab []).updPart 0 fun p => { p with annSince := [(1, 0)] }).annPut 0 0 1 11 1 st).annPut 0 0 1 32 8 0x110000
  { s with cyc := cyc }
theorem witness_AnnounceForms_walker : (labWalk 0 8191).cyc < 0 + Config.walkerAge ∧
    0 + Config.walkerAge ≤ (labWalk 0 8192).cyc ∧ (labWalk 0 8192).annState 0 0 1 ≠ 1 ∧
    ((labWalk 0 8192).part? 0).bind (fun p => SMap.get? p.annSince (0 * 65536 + 1)) = some 0 := by decide +kernel
theorem witness_AnnounceForms_walk : (labWalk 1 8192).annState 0 0 1 = 1 ∧ okB (walkRecord 0 0 1 (labWalk 1 8192)) (fun _ _ => true) = true := by
  decide +kernel

end Sys2Proof.Tests
end

section
/-!
PROOFS. Bytes written in a scratchpad and in memory: each reads back, and nothing else changes (R2, R214, R218).
-/

namespace Sys2Proof

variable {α ι : Type} [DecidableEq α] (d : α) (key : ι → Nat) (val : ι → α)

/-! ## A sparse table after a run of writes -/

/-- A key that no write of the run names reads as before. -/
theorem SMap.getD_foldl_putD_of_ne {l : List ι} {k : Nat} (h : ∀ i ∈ l, k ≠ key i) (m : SMap α) :
    SMap.getD d (l.foldl (fun m i => SMap.putD d m (key i) (val i)) m) k = SMap.getD d m k := by
  induction l generalizing m with
  | nil => rfl
  | cons j t ih =>
    obtain ⟨hj, ht⟩ := List.forall_mem_cons.1 h
    rw [List.foldl_cons, ih ht, SMap.getD_putD_ne d m _ hj]

/-- Where no two writes of the run share a key, each value reads back: no later write covers it. -/
theorem SMap.getD_foldl_putD_of_mem {l : List ι} (hinj : ∀ i ∈ l, ∀ j ∈ l, key i = key j → i = j) {i : ι}
    (hi : i ∈ l) (m : SMap α) :
    SMap.getD d (l.foldl (fun m i => SMap.putD d m (key i) (val i)) m) (key i) = val i := by
  induction l generalizing m with
  | nil => cases hi
  | cons j t ih =>
    rw [List.foldl_cons]
    by_cases hit : i ∈ t
    · exact ih (fun a ha b hb => hinj a (.tail _ ha) b (.tail _ hb)) hit _
    · obtain rfl : i = j := (List.mem_cons.1 hi).resolve_right hit
      have hlater : ∀ b ∈ t, key i ≠ key b := fun b hb e => hit (hinj i hi b (.tail _ hb) e ▸ hb)
      rw [SMap.getD_foldl_putD_of_ne d key val hlater, SMap.getD_putD_self]

end Sys2Proof

namespace Sys2Proof.Machine

variable (s : State) (g : Life) (a : Nat) (bs : List Byte)

/-! ## Scratchpad bytes after a scratchpad write -/

/-- What the write leaves of its own core: every field but the bytes. -/
theorem State.core_setSpad_self : (s.setSpad g a bs).core g.core =
    { s.core g.core with sram := ((s.setSpad g a bs).core g.core).sram } := by
  simp only [State.setSpad, State.core_updCore_self]

@[simp] theorem State.core_setSpad_ne {c : Nat} (h : c ≠ g.core) : (s.setSpad g a bs).core c = s.core c :=
  s.core_updCore_ne _ h

@[simp] theorem State.setSpad_mem : (s.setSpad g a bs).mem = s.mem := s.updCore_mem _ _

@[simp] theorem State.setSpad_stags :
    ((s.setSpad g a bs).core g.core).stags = (s.core g.core).stags := by rw [State.core_setSpad_self]

@[simp] theorem State.setSpad_spois :
    ((s.setSpad g a bs).core g.core).spois = (s.core g.core).spois := by rw [State.core_setSpad_self]

/-- The bytes of the written core's SRAM are those of a run of table writes, one for each byte. -/
theorem State.sramByte_setSpad_core (k : Nat) : (s.setSpad g a bs).sramByte g.core k =
    SMap.getD 0 ((List.range bs.length).foldl (fun m i =>
      SMap.putD 0 m (spotOf g (spRot a) (spOff a + i)) (bs.getD i 0)) (s.core g.core).sram) k := by
  simp only [State.sramByte, State.setSpad, State.core_updCore_self]

theorem State.sramByte_setSpad_in
    (hinj : ∀ i j, i < bs.length → j < bs.length →
      spotOf g (spRot a) (spOff a + i) = spotOf g (spRot a) (spOff a + j) → i = j) {i : Nat} (hi : i < bs.length) :
    (s.setSpad g a bs).sramByte g.core (spotOf g (spRot a) (spOff a + i)) = bs.getD i 0 := by
  rw [State.sramByte_setSpad_core]
  exact SMap.getD_foldl_putD_of_mem 0 (fun i => spotOf g (spRot a) (spOff a + i)) (fun i => bs.getD i 0)
    (fun i hi j hj => hinj i j (List.mem_range.1 hi) (List.mem_range.1 hj)) (List.mem_range.2 hi) _

theorem State.sramByte_setSpad_out {k : Nat} (h : ∀ i < bs.length, k ≠ spotOf g (spRot a) (spOff a + i)) :
    (s.setSpad g a bs).sramByte g.core k = s.sramByte g.core k := by
  rw [State.sramByte_setSpad_core]
  exact SMap.getD_foldl_putD_of_ne 0 _ _ (fun i hi => h i (List.mem_range.1 hi)) _

theorem State.sramByte_setSpad_ne {c : Nat} (h : c ≠ g.core) (k : Nat) :
    (s.setSpad g a bs).sramByte c k = s.sramByte c k := by simp [State.sramByte, h]

/-! ## A number in memory after it is written -/

/-- A number written in `n` bytes reads back modulo what `n` bytes hold (R2). -/
theorem State.le_setLe (n x : Nat) : (s.setLe a n x).le a n = x % 2 ^ (8 * n) := by
  have hbytes : (s.setLe a n x).bytes a n = leBytesOf n x := by
    simpa [State.setLe] using s.bytes_setBytes (leBytesOf n x) a
  calc (s.setLe a n x).le a n = leOf (leBytesOf n x) := congrArg leOf hbytes
    _ = x % 256 ^ n := leOf_leBytesOf n x
    _ = x % 2 ^ (8 * n) := by rw [Nat.pow_mul]

/-- Settles O28, from the run of table writes that a scratchpad write is and from the rules of memory's bytes. -/
theorem storedBytes : Obligations.StoredBytes := by
  unfold Obligations.StoredBytes
  constructor
  · intro s g a bs at' hinj
    exact ⟨fun i hi => s.sramByte_setSpad_in g a bs hinj hi, fun k hk => s.sramByte_setSpad_out g a bs hk,
      fun c k hc => s.sramByte_setSpad_ne g a bs hc k, s.setSpad_mem g a bs, s.setSpad_stags g a bs,
      s.setSpad_spois g a bs⟩
  · intro s a n x bs
    exact ⟨fun i hi => s.byte_setBytes_in bs a i hi, fun k hk => s.byte_setBytes_out bs a k hk, s.le_setLe a n x,
      s.setBytes_tags bs a, s.setBytes_cores bs a⟩

end Sys2Proof.Machine
end

section
/-!
PROOFS. What the issue of an instruction that passes every check comes to, and what the building blocks of the effects
answer.
-/

namespace Sys2Proof.Machine

open Sys2Proof.Claims

variable {α β : Type} {s s₁ t : State} {w : Who} {i : Instr} {fm : Form} {f : Fields} {body : Who → Fields → M Unit}
  {x : Trap}

/-! ## Sequences -/

theorem bind_look_run (f : State → α) (g : α → M β) (s : State) : (look f >>= g) s = g (f s) s := rfl
theorem bind_upd_run (f : State → State) (g : Unit → M β) (s : State) : (upd f >>= g) s = g () (f s) := rfl
theorem bind_check_none (g : Unit → M β) (s : State) : (check none >>= g) s = g () s := rfl
theorem bind_check_some (x : Trap) (g : Unit → M β) (s : State) : (check (some x) >>= g) s = .error (.trap x) := rfl

/-! ## An instruction that its issuer executes -/

/-- What becomes of the issuer of an executed instruction is what its effect comes to once the issuer has moved on. -/
theorem issue_resolves (h : Issues i s w fm f) :
    issue i body s = resolve s w fm.ends (body w f (onward s w fm)) := by
  obtain ⟨w₀, hw, rfl⟩ := h.issuer
  rw [issue_eq hw h.isForm h.isFields, issueAs_runs h.legal h.free h.part h.queues, if_pos rfl]

/-- The same where the issuer stays before the instruction until its answer (R127). -/
theorem issueStay_resolves (h : Issues i s w fm f) : issueStay i body s = resolve s w fm.ends (body w f s) := by
  obtain ⟨w₀, hw, rfl⟩ := h.issuer
  rw [issueStay_eq hw h.isForm h.isFields, issueAs_runs h.legal h.free h.part h.queues, if_neg Bool.false_ne_true]

theorem issue_next (h : Issues i s w fm f) (hb : body w f (onward s w fm) = .ok ((), t)) :
    issue i body s = .next t := by rw [issue_resolves h, hb, resolve_ok]

theorem issue_trap (h : Issues i s w fm f) (hb : body w f (onward s w fm) = .error (.trap x)) :
    issue i body s = .next (s.raiseTrap w fm.ends x) := by rw [issue_resolves h, hb, resolve_trap]

theorem issueStay_next (h : Issues i s w fm f) (hb : body w f s = .ok ((), t)) : issueStay i body s = .next t := by
  rw [issueStay_resolves h, hb, resolve_ok]

theorem issueStay_trap (h : Issues i s w fm f) (hb : body w f s = .error (.trap x)) :
    issueStay i body s = .next (s.raiseTrap w fm.ends x) := by rw [issueStay_resolves h, hb, resolve_trap]

/-- The YIELD hint of an executed instruction's issuer is that of its word (R28). -/
theorem young_of_issues (h : Issues i s w fm f) : w.young = f.yield := by
  obtain ⟨w₀, -, rfl⟩ := h.issuer
  rfl

/-! ## Sources, checks, faults after issue, operations -/

theorem read2_run {imm : BitVec 32} {p q : SrcSpec} {a b : Nat → DWord}
    (h : readSrcs w imm [p, q] s = .ok ([a, b], s₁)) : read2 w imm p q s = .ok ((a, b), s₁) := by
  unfold read2
  rw [bind_run_ok h]
  rfl

theorem failing_of_filter_nil {kind cause : Nat} {l : List Acc} {bad : Acc → Bool} (h : l.filter bad = []) :
    failing w kind cause l bad = none := by simp [failing, h]

/-- The fault of a failed check names the first access that fails it and the lanes of all that do (R99). -/
theorem failing_of_filter_head {kind cause : Nat} {l : List Acc} {bad : Acc → Bool} {a : Acc}
    (h : (l.filter bad).head? = some a) :
    failing w kind cause l bad =
      some { kind := kind, cause := cause, mask := w.failMask ((l.filter bad).map (·.lane)), addr := a.ea } := by
  obtain ⟨rest, hl⟩ := List.head?_eq_some_iff.1 h
  simp [failing, hl]

theorem lateNow_run (late : Option Trap) (s : State) : lateNow w late s = .ok ((), recorded w late s) := by
  cases late <;> rfl

theorem eccuSp_eq_rowEccu (w : Who) (bad : List Acc) : eccuSp w bad = rowEccu w bad := by
  cases bad <;> rfl

theorem startOp_started (kind : OpKind) (dests : List RegRef) (vals : List (RegRef × DWord)) (late : Option Trap)
    (waits : List Wait) (s : State) :
    startOp w kind dests vals late (s.core w.core).pts waits s =
      .ok (s.serial, started w kind dests vals late waits s) := rfl

end Sys2Proof.Machine
end

section
/-!
PROOFS. Append pages at issue: `append`, `tailr`, `sealq` and `seal` (R127, R128, R130 to R132).
-/

namespace Sys2Proof.Machine

open Sys2Proof.Claims

variable {s s₁ s₂ s₃ s₄ : State} {w : Who} {f : Fields} {x : Trap}

/-! ## append at issue -/

/-- The accesses of an `append`'s lanes to its frame (R128). -/
abbrev appendAccs (w : Who) (f : Fields) (a : Nat → DWord) : List Acc :=
  (accessLanes w f.dst).map fun i => ⟨i, (a w.low).toNat, (a w.low).toNat⟩

/-- The accesses of an `append`'s lanes to the rows of its source (R127). -/
abbrev appendRows (w : Who) (f : Fields) (b : Nat → DWord) : List Acc :=
  spadAccs (fun i => (b i).toNat % 2 ^ 32) (accessLanes w f.dst)

/-- What an `append` reads at issue for one lane, and whether it just met an error there (R127, R475). -/
def readAppendSrc (w : Who) (n : Nat) (x : Acc) : M (AppendSrc × Bool) := do
  let g ← look fun s => s.laneSpad w.life x.ea
  match g with
  | none => pure (⟨List.replicate n 0, [], []⟩, false)
  | some g => appendSrc g x.ea n

/-- The request that an `append` sends to the home of its frame (R127). -/
def appendRequest (w : Who) (f : Fields) (va : Nat) (pl : Place) (src : List Acc) (srcs : List (AppendSrc × Bool))
    (s : State) : AppendReq :=
  ⟨va, pl.pa / 65536 * 65536, f.imm.toNat, accessLanes w f.dst, w.act, srcs.map (·.1),
    src.filterMap fun x => s.namedLife w.life (spCore x.ea), f.dst, leafT pl.leaf, s.appendRoom w va,
    pl.entry.getD noEntry, w.young⟩

/-- The state in which a gang waits for the answer to the request that it sent (R127). -/
def requested (w : Who) (f : Fields) (r : AppendReq) (s : State) : State :=
  (started w (.append r) ((destRefs w f.dst false).map (·.2)) [] none [] s).updGroup w.agent fun g =>
    g.updQuads w.quads fun q => { q with await := some s.serial }

section Append

variable {a b : Nat → DWord} (hsrc : readSrcs w f.imm [srcPair f.sa, srcRaw f.sb] s = .ok ([a, b], s₁))

include hsrc

theorem appendBody_trap (hx : appendFault s₁ w f.imm.toNat (appendAccs w f a) (appendRows w f b) = some x) :
    appendBody w f s = .error (.trap x) := by
  unfold appendBody
  rw [bind_run_ok (read2_run hsrc)]
  dsimp only
  rw [bind_look_run, hx, bind_check_some]

theorem appendBody_run {pl : Place} {srcs : List (AppendSrc × Bool)}
    (hok : appendFault s₁ w f.imm.toNat (appendAccs w f a) (appendRows w f b) = none)
    (hcommit : commitTask w s₁ = .ok ((), s₂)) (hplace : placeOf w (a w.low).toNat s₂ = .ok (pl, s₃))
    (hread : collectM (appendRows w f b) (readAppendSrc w f.imm.toNat) s₃ = .ok (srcs, s₄)) :
    let s₅ := recorded w (rowEccu w ((((appendRows w f b).zip srcs).filter fun e => e.2.2).map (·.1))) s₄
    appendBody w f s = .ok ((), requested w f
      (appendRequest w f (a w.low).toNat pl (appendRows w f b) srcs s₅) s₅) := by
  unfold appendBody
  rw [bind_run_ok (read2_run hsrc)]
  dsimp only
  rw [bind_look_run, hok, bind_check_none, bind_run_ok hcommit, bind_run_ok hplace]
  refine (bind_run_ok hread).trans ?_
  rw [bind_run_ok (lateNow_run _ s₄), eccuSp_eq_rowEccu, bind_look_run, bind_look_run, bind_run_ok (ptsOf_run _ _),
    bind_run_ok (startOp_started ..), upd_run]
  rfl

end Append

/-! ## tailr, sealq -/

/-- What one lane of `tailr` or `sealq` reads of the record of its frame (R130, R132). -/
def readLaneRec (val : AppendRec → Nat) (w : Who) (x : Acc) : M (Nat × Nat) := do
  let pl ← placeOf w x.va
  let c := leafClass pl.leaf
  if c = 3 || c = 4 || c = 5 then do
    let r ← readRec w (pl.pa / 65536 * 65536)
    pure (x.lane, val r)
  else pure (x.lane, 2 ^ 32 - 1)

/-- The accesses of a form at `[a+b]` (R140). -/
abbrev recAccs (s : State) (w : Who) (f : Fields) (ea : Nat → Nat) : List Acc :=
  s.accs w false ea (accessLanes w f.dst)

section Addressed

variable {ea : Nat → Nat} (hea : readEa w f s = .ok (ea, s₁))

include hea

theorem recordRead_trap {val : AppendRec → Nat} {y : Acc}
    (hy : ((recAccs s₁ w f ea).filter fun a => !(s₁.inLease w a.va 1 [rightR])).head? = some y) :
    recordRead val w f s = .error (.trap
      { kind := kLEASE, cause := 1, addr := y.ea,
        mask := w.failMask (((recAccs s₁ w f ea).filter fun a => !(s₁.inLease w a.va 1 [rightR])).map (·.lane)) }) := by
  unfold recordRead
  rw [bind_run_ok hea, bind_look_run, bind_look_run, failing_of_filter_head hy, bind_check_some]

theorem recordRead_run {val : AppendRec → Nat} {got : List (Nat × Nat)}
    (hin : (recAccs s₁ w f ea).filter (fun a => !(s₁.inLease w a.va 1 [rightR])) = [])
    (hgot : collectM (recAccs s₁ w f ea) (readLaneRec val w) s₁ = .ok (got, s₂))
    (hdst : reserveDst w f.dst s₂ = .ok ((), s₃)) :
    recordRead val w f s = .ok ((), started w .load ((destRefs w f.dst false).map (·.2))
      (landings w f.dst false false fun i => w64 (((got.find? fun e => e.1 = i).map (·.2)).getD 0)) none [] s₃) := by
  unfold recordRead
  rw [bind_run_ok hea, bind_look_run, bind_look_run, failing_of_filter_nil hin, bind_check_none]
  refine (bind_run_ok hgot).trans ?_
  rw [bind_run_ok hdst, bind_run_ok (ptsOf_run _ _), bind_run_ok (startOp_started ..), pure_run]

/-! ## seal -/

theorem sealBody_trap (hx : sealFault s₁ w (recAccs s₁ w f ea) = some x) : sealBody w f s = .error (.trap x) := by
  unfold sealBody
  rw [bind_run_ok hea, bind_look_run, bind_look_run, hx, bind_check_some]

end Addressed

/-- The seal event of one lane's frame (R131): an open frame starts to seal. -/
def sealLane (w : Who) (x : Acc) : M (Nat × Nat) := do
  let pl ← placeOf w x.va
  let frame := pl.pa / 65536 * 65536
  let rl ← look fun s => s.recLine w.part frame
  mergeLine w.part rl
  meetLine rl
  let r ← look fun s => s.frameRec w.part frame
  let starts ← look fun s => s.openStarts w.part frame
  if r.st = 0 then do
    let pts ← ptsOf w.core
    let ts ← appendWrite w.part pts frame ({ r with st := 1 }.settle starts)
    raisePts w.core ts
  else pure ()
  pure (x.lane, frame)

theorem sealBody_run {ea : Nat → Nat} {got : List (Nat × Nat)} (hea : readEa w f s = .ok (ea, s₁))
    (hok : sealFault s₁ w (recAccs s₁ w f ea) = none) (hcommit : commitTask w s₁ = .ok ((), s₂))
    (hgot : collectM (recAccs s₁ w f ea) (sealLane w) s₂ = .ok (got, s₃))
    (hdst : reserveDst w f.dst s₃ = .ok ((), s₄)) :
    sealBody w f s = .ok ((), started w
      (.seal ((dstRefs w f.dst).filterMap fun e => (got.find? fun g => g.1 = e.1).map fun g => (e.2, g.2)))
      ((destRefs w f.dst false).map (·.2)) [] none [] s₄) := by
  unfold sealBody
  rw [bind_run_ok hea, bind_look_run, bind_look_run, hok, bind_check_none, bind_run_ok hcommit]
  refine (bind_run_ok hgot).trans ?_
  rw [bind_run_ok hdst, bind_run_ok (ptsOf_run _ _), bind_run_ok (startOp_started ..), pure_run]

/-- Settles O32: each form is the run of its body, whose checks, commit, reads and start of an operation follow one
another as the clauses say. -/
theorem appendForms : Obligations.AppendForms := by
  unfold Obligations.AppendForms
  intro s s₁ w fm f
  refine ⟨fun a b hi hsrc => ?append, fun i val ea hform hi hea => ?read, fun ea hi hea => ?sealing⟩
  case append =>
    refine ⟨fun t ht => issueStay_trap hi (appendBody_trap hsrc ht), ?_⟩
    intro s₂ s₃ s₄ pl srcs hok hcommit hplace hread
    have hrun := issueStay_next hi (appendBody_run hsrc hok hcommit hplace hread)
    rw [appendRequest, young_of_issues hi] at hrun
    exact hrun
  case read =>
    have hexec : exec i s = issue i (recordRead val) s := by
      rcases hform with ⟨rfl, rfl⟩ | ⟨rfl, rfl⟩ <;> rfl
    rw [hexec]
    exact ⟨fun x hx => issue_trap hi (recordRead_trap hea hx),
      fun got s₂ s₃ hin hgot hdst => issue_next hi (recordRead_run hea hin hgot hdst)⟩
  case sealing =>
    exact ⟨fun t ht => issue_trap hi (sealBody_trap hea ht),
      fun got s₂ s₃ s₄ hok hcommit hgot hdst => issue_next hi (sealBody_run hea hok hcommit hgot hdst)⟩

end Sys2Proof.Machine
end

section
/-!
PROOFS. Append pages at home: the answer to a request, the registers that a grant writes, reservations and seals that
complete (R123, R124, R127, R129, R131, R177).
-/

namespace Sys2Proof.Machine

open Sys2Proof.Claims

/-! ## The answer to a request -/

theorem foldl_minN_le (l : List Nat) (m : Nat) : l.foldl minN m ≤ m ∧ ∀ x ∈ l, l.foldl minN m ≤ x := by
  induction l generalizing m with
  | nil => simp
  | cons y t ih =>
    obtain ⟨hm, ht⟩ := ih (minN m y)
    have hmin : minN m y ≤ m ∧ minN m y ≤ y := by unfold minN; split <;> omega
    exact ⟨Nat.le_trans hm hmin.1, List.forall_mem_cons.2 ⟨Nat.le_trans hm hmin.2, ht⟩⟩

/-- SETTLED is at most the tail and the start of every reservation that is not complete (R124). -/
theorem AppendRec.settled_settle_le (a : AppendRec) (starts : List Nat) :
    (a.settle starts).settled ≤ a.tail ∧ ∀ x ∈ starts, (a.settle starts).settled ≤ x := foldl_minN_le starts a.tail

/-- The fault with which a request is answered (R127). -/
abbrev AppendReq.fault (r : AppendReq) (kind cause : Nat) : Trap :=
  { kind := kind, cause := cause, mask := laneMask r.lanes, addr := r.va }

variable {r : AppendReq} {a : AppendRec} {g : Group}

theorem grantFault_sealed (hst : a.st = 1 ∨ a.st = 2) : grantFault r a = some (r.fault kSEALED 0) := by
  rcases hst with h | h <;> simp [grantFault, h]

section Open

variable (h1 : a.st ≠ 1) (h2 : a.st ≠ 2)

include h1 h2

theorem grantFault_overLimit (hfull : 64 * a.limit < a.tail + r.lanes.length * r.n) :
    grantFault r a = some (r.fault kAPPENDLIM 1) := by
  simp [grantFault, h1, h2, Nat.mul_comm a.limit, hfull]

theorem grantFault_overRoom (hfits : a.tail + r.lanes.length * r.n ≤ 64 * a.limit)
    (hroom : r.room < a.tail + r.lanes.length * r.n) : grantFault r a = some (r.fault kLEASE 1) := by
  simp [grantFault, h1, h2, Nat.mul_comm a.limit, Nat.not_lt.2 hfits, hroom]

theorem grantFault_none (hfits : a.tail + r.lanes.length * r.n ≤ 64 * a.limit)
    (hroom : a.tail + r.lanes.length * r.n ≤ r.room) : grantFault r a = none := by
  simp [grantFault, h1, h2, Nat.mul_comm a.limit, Nat.not_lt.2 hfits, Nat.not_lt.2 hroom]

end Open

/-- Settles O33: the cases of the home's answer in their order, and SETTLED as the least of the tail and the starts. -/
theorem appendAnswer : Obligations.AppendAnswer := by
  unfold Obligations.AppendAnswer
  intro r a k trap
  exact ⟨grantFault_sealed, grantFault_overLimit, grantFault_overRoom, grantFault_none, fun starts =>
    have ⟨htail, hstarts⟩ := a.settled_settle_le starts
    ⟨rfl, htail, hstarts, rfl⟩⟩

/-! ## Registers that a grant writes -/

theorem Lane.pred_setPred_self (l : Lane) {n : Nat} (b : Bool) (h : n < 15) : (l.setPred n b).pred n = b := by
  have hbit : (BitVec.ofNat 15 (2 ^ n)).getLsbD n = true := by
    rw [BitVec.getLsbD_ofNat, Nat.testBit_two_pow_self, decide_eq_true h, Bool.and_true]
  rw [Lane.pred, Lane.setPred, if_pos h, decide_eq_false (Nat.ne_of_lt h), Bool.false_or]
  cases b with
  | true => rw [if_pos rfl, BitVec.getLsbD_or, hbit, Bool.or_true]
  | false => rw [if_neg Bool.false_ne_true, BitVec.getLsbD_and, BitVec.getLsbD_not, hbit, Bool.not_true, Bool.and_false,
      Bool.and_false]

section Writes

variable {ι : Type} (key : ι → Nat) (f : ι → Lane → Lane)

/-- A lane after a run of writes is what the last write that touches it made of it, or as before where none does. -/
theorem Group.lane_foldl_updLane (l : List ι) (g : Group) {i : Nat} (hi : i < g.lanes.length) :
    (∃ y ∈ l, key y = i ∧ ∃ v, (l.foldl (fun g x => g.updLane (key x) (f x)) g).lane i = f y v) ∨
      (∀ y ∈ l, key y ≠ i) ∧ (l.foldl (fun g x => g.updLane (key x) (f x)) g).lane i = g.lane i := by
  induction l generalizing g with
  | nil => exact .inr ⟨fun _ h => (List.not_mem_nil h).elim, rfl⟩
  | cons z t ih =>
    rw [List.foldl_cons]
    rcases ih (g.updLane (key z) (f z)) (by rwa [Group.lanes_length_updLane]) with ⟨y, hy, hl⟩ | ⟨hnone, hl⟩
    · exact .inl ⟨y, .tail _ hy, hl⟩
    · rw [Group.lane_updLane] at hl
      by_cases hz : i = key z
      · exact .inl ⟨z, .head _, hz.symm, _, hl.trans (if_pos ⟨hz, hz ▸ hi⟩)⟩
      · exact .inr ⟨List.forall_mem_cons.2 ⟨Ne.symm hz, hnone⟩, hl.trans (if_neg fun h => hz h.1)⟩

/-- A lane that some write of the run touches is what one of those writes made of it. -/
theorem Group.lane_foldl_updLane_of_mem (g : Group) {l : List ι} {x : ι} (hx : x ∈ l) (hi : key x < g.lanes.length) :
    ∃ y ∈ l, key y = key x ∧ ∃ v, (l.foldl (fun g x => g.updLane (key x) (f x)) g).lane (key x) = f y v :=
  (Group.lane_foldl_updLane key f l g hi).resolve_right fun h => h.1 x hx rfl

end Writes

/-- Whether the part of a grant that starts `i` lengths after the tail ends at the frame's limit (R127). -/
def endsAtLimit (r : AppendReq) (a : AppendRec) (i : Nat) : Bool := a.tail + i * r.n + r.n = a.limit * 64

theorem mem_zip_range {l : List Nat} {k i : Nat} : (k, i) ∈ (List.range l.length).zip l ↔ l[k]? = some i := by
  rw [List.mem_iff_getElem?]
  constructor
  · rintro ⟨j, hj⟩
    obtain ⟨hr, hl⟩ := List.getElem?_zip_eq_some.1 hj
    obtain ⟨hj', hk⟩ := List.getElem?_eq_some_iff.1 hr
    obtain rfl : j = k := (List.getElem_range _).symm.trans hk
    exact hl
  · intro hl
    obtain ⟨hk, -⟩ := List.getElem?_eq_some_iff.1 hl
    exact ⟨k, List.getElem?_zip_eq_some.2 ⟨List.getElem?_range hk, hl⟩⟩

/-- Each appending lane gets its own offset and its own p14 (R127). -/
theorem grantRegs_lane {n : BitVec 9} (hlt : ∀ i ∈ r.lanes, i < 32) (hnd : r.lanes.Nodup) (hlen : g.lanes.length = 32)
    (hdst : r.dst = .v n) {k i : Nat} (hk : r.lanes[k]? = some i) :
    ∃ l : Lane, (grantRegs r a g).lane i = (l.setReg n.toNat (w32 (a.tail + k * r.n))).setPred 14 (endsAtLimit r a k) := by
  have hi : i < g.lanes.length := hlen ▸ hlt i (List.mem_of_getElem? hk)
  obtain ⟨⟨k', i'⟩, hmem, hkey, l, hl⟩ := Group.lane_foldl_updLane_of_mem Prod.snd
    (fun e l => (l.setReg n.toNat (w32 (a.tail + e.1 * r.n))).setPred 14 (endsAtLimit r a e.1)) g (mem_zip_range.2 hk) hi
  have hk' : r.lanes[k']? = some i := (mem_zip_range.1 hmem).trans (congrArg some hkey)
  have hsame : k' = k := by
    obtain ⟨hlt', -⟩ := List.getElem?_eq_some_iff.1 hk'
    exact (List.getElem?_inj hlt' hnd).1 (hk'.trans hk.symm)
  refine ⟨l, ?_⟩
  rw [grantRegs, hdst]
  exact hsame ▸ hl

/-- A scalar DST takes the first offset (R127). -/
theorem scalar_grantRegs {n : BitVec 7} (hdst : r.dst = .s n) : (grantRegs r a g).scalar n.toNat = w32 a.tail := by
  rw [grantRegs, hdst]
  exact Group.updLanes_induct (P := fun g => g.scalar n.toNat = w32 a.tail) _ _ _ (fun _ _ h => h)
    (Group.scalar_setScalar_self g _ _)

/-- With a scalar DST every lane that takes part gets the p14 of the first part (R127). -/
theorem pred_grantRegs_scalar {n : BitVec 7} (hlen : g.lanes.length = 32) (hdst : r.dst = .s n) {i : Nat}
    (hi : i ∈ r.act) (hlt : i < 32) : ((grantRegs r a g).lane i).pred 14 = endsAtLimit r a 0 := by
  obtain ⟨j, -, -, l, hl⟩ := Group.lane_foldl_updLane_of_mem id (fun _ l => l.setPred 14 (endsAtLimit r a 0))
    (g.setScalar n.toNat (w32 a.tail)) hi (hlen.symm ▸ hlt)
  rw [grantRegs, hdst]
  exact (congrArg (Lane.pred · 14) hl).trans (Lane.pred_setPred_self l _ (by decide))

/-! ## APPEND_GRANT -/

/-- The partition whose home answers an issuer's operations. -/
abbrev State.homePart (s : State) (o : Owner) : Nat := (s.partOfCore o.core).getD 0

/-- The record of a frame met at its home (R123, R475). -/
abbrev meetRec (part line : Nat) : M Unit := do
  mergeLine part line
  meetLine line

/-- A request refused (R127): it leaves the table, its flag falls, and a gang that still waits takes the fault. -/
def refuseAppend (id : Nat) (o : Op) (x : Trap) (s : State) : State :=
  let t := ({ s with ops := SMap.del s.ops id } : State).updOwner o.owner
    (fun g => match o.flag with | none => g | some n => g.setFlag n (g.flag n - 1)) fun p => p
  match s.awaiter id o.owner with
  | none => t
  | some w => t.raiseTrap w false x

/-- A request granted (R127), whose gang is `who`: it waits for its reservations, and the gang gets its offsets. -/
def grantAppend (id : Nat) (o : Op) (r : AppendReq) (a : AppendRec) (ids : List Nat) (ts : Nat) (who : Option Who)
    (s : State) : State :=
  let s := s.updCore o.owner.core fun k => { k with pts := maxN k.pts ts }
  let s : State :=
    { s with ops := SMap.put s.ops id { o with kind := .appended r.lives, ts := ts, waits := ids.map .res } }
  match who with
  | none => s
  | some w => (s.updGroup w.agent fun g =>
      (grantRegs r a g).updQuads w.quads fun q => { q with await := none }).passedAppend { w with young := r.young }

section Grant

variable {s s₁ s₂ : State} {id ts : Nat} {o : Op} {ids : List Nat} {x : Trap}
  (hop : SMap.get? s.ops id = some o) (hkind : o.kind = .append r)
  (hmet : meetRec (s.homePart o.owner) (s.recLine (s.homePart o.owner) r.frame) s = .ok ((), s₁))

include hop hkind hmet

theorem appendGrant_refused (hx : grantFault r (s₁.frameRec (s.homePart o.owner) r.frame) = some x) :
    appendGrant id s = .ok ((), refuseAppend id o x s₁) := by
  obtain ⟨owner, flag, kind, dests, vals, late, clk, waits, iaddr⟩ := o
  obtain rfl : kind = .append r := hkind
  obtain ⟨⟨⟩, u, hmerge, hmeet⟩ := bind_ok hmet
  unfold appendGrant
  rw [bind_look_run, hop]
  dsimp only
  rw [bind_look_run, bind_look_run, bind_run_ok hmerge, bind_run_ok hmeet, bind_look_run, bind_look_run, hx]
  rfl

theorem appendGrant_granted (hx : grantFault r (s₁.frameRec (s.homePart o.owner) r.frame) = none)
    (hgrant : grantAt (s.homePart o.owner) o.ts (((s₁.life? o.owner.life).map (·.launch)).getD 0)
      (((s₁.life? o.owner.life).map (·.ctx)).getD 0) r (s₁.frameRec (s.homePart o.owner) r.frame) s₁ =
      .ok ((ids, ts), s₂)) :
    appendGrant id s = .ok ((),
      grantAppend id o r (s₁.frameRec (s.homePart o.owner) r.frame) ids ts (s₁.awaiter id o.owner) s₂) := by
  obtain ⟨owner, flag, kind, dests, vals, late, clk, waits, iaddr⟩ := o
  obtain rfl : kind = .append r := hkind
  obtain ⟨⟨⟩, u, hmerge, hmeet⟩ := bind_ok hmet
  have hlife : ((s₁.life? owner.life).map fun f => (f.launch, f.ctx)).getD (0, 0) =
      (((s₁.life? owner.life).map (·.launch)).getD 0, ((s₁.life? owner.life).map (·.ctx)).getD 0) := by
    cases s₁.life? owner.life <;> rfl
  unfold appendGrant
  rw [bind_look_run, hop]
  dsimp only
  rw [bind_look_run, bind_look_run, bind_run_ok hmerge, bind_run_ok hmeet, bind_look_run, bind_look_run, hx]
  dsimp only
  rw [bind_look_run, hlife, bind_run_ok hgrant, bind_run_ok (raisePts_run s₂ owner.core ts), bind_upd_run]
  cases s₁.awaiter id owner <;> rfl

end Grant

/-! ## RESERVATION_COMPLETE, SEAL_COMPLETION -/

/-- What a reservation does to the lines of one of its pieces when its bytes land (R124, R129). -/
def landPiece (part : Nat) (r : Resv) (e : Nat × Nat) : M Nat := do
  let l := (r.frame + e.1) / 64
  mergeLine part l
  if e.2 < 64 then meetLine l else pure ()
  stampWrite part l r.clk fun h => LineSt.dirtied { h with lastCore := none, lastMask := 0 } (some r.ctx)

/-- A reservation's bytes and tags landed, ECCU where a piece was lost, and the reservation gone (R124, R129, R477). -/
def landResv (part id : Nat) (r : Resv) (s : State) : State :=
  ((s.lateLost r (s.lostPieces r)).landBytes part r).updPart part fun p =>
    { p with resvs := p.resvs.filter fun x => x.id ≠ id }

theorem reservationComplete_run {s s₁ s₂ s₄ : State} {part id last : Nat} {p : Part} {r : Resv} {ts : List Nat}
    (hp : s.part? part = some p) (hr : p.resvs.find? (fun r => r.id = id) = some r)
    (hleaf : setLeafBitAt part r.clk r.entry 7 s = .ok ((), s₁))
    (hpieces : collectM (pieces r.start r.src.bytes.length) (landPiece part r) s₁ = .ok (ts, s₂))
    (hrec : appendWrite part (ts.foldl maxN 0) r.frame (((landResv part id r s₂).frameRec part r.frame).settle
      ((landResv part id r s₂).openStarts part r.frame)) (landResv part id r s₂) = .ok (last, s₄)) :
    reservationComplete part id s = .ok ((), s₄.waitOver (.res id) last) := by
  have hfind : ((s.part? part).bind fun p => p.resvs.find? fun r => r.id = id) = some r := by rw [hp]; exact hr
  unfold reservationComplete
  rw [bind_look_run, hfind]
  dsimp only
  rw [bind_run_ok hleaf]
  refine (bind_run_ok hpieces).trans ?_
  rw [bind_upd_run, bind_look_run, bind_look_run]
  refine (bind_run_ok hrec).trans ?_
  rfl

section Seal

variable {s s₁ : State} {id : Nat} {o : Op} {frames : List (RegRef × Nat)}

/-- A frame that has settled since its seal started (R131). -/
def Settled (s : State) (part frame : Nat) : Prop :=
  1 ≤ (s.frameRec part frame).st ∧ (s.frameRec part frame).settled = (s.frameRec part frame).tail

/-- The event that seals a settled frame, or the clock of the one that sealed it (R131, R177). -/
def sealedTs (part ts : Nat) (e : RegRef × Nat) : M Nat := do
  let r ← look fun s => s.frameRec part e.2
  if r.st = 1 then appendWrite part ts e.2 { r with st := 2 }
  else do
    let (wts, _) ← homeTs part ((← look fun s => s.recLine part e.2))
    pure wts

/-- Whether all frames of a seal have settled, as SEAL_COMPLETION looks at it. -/
theorem all_settled_iff (part : Nat) :
    (frames.all fun e => decide (1 ≤ (s.frameRec part e.2).st) &&
      decide ((s.frameRec part e.2).settled = (s.frameRec part e.2).tail)) = true ↔ ∀ e ∈ frames, Settled s part e.2 := by
  simp [List.all_eq_true, Settled]

variable (hop : SMap.get? s.ops id = some o) (hkind : o.kind = .seal frames)

include hop hkind

theorem sealComplete_waits (hopen : ∃ e ∈ frames, ¬Settled s (s.homePart o.owner) e.2) :
    sealComplete id s = .ok ((), s) := by
  obtain ⟨owner, flag, kind, dests, vals, late, clk, waits, iaddr⟩ := o
  obtain rfl : kind = .seal frames := hkind
  have hall := mt (all_settled_iff (s := s) (s.homePart owner)).1 (by simpa using hopen)
  unfold sealComplete
  rw [bind_look_run, hop]
  dsimp only
  rw [bind_look_run, bind_look_run, eq_false_of_ne_true hall]
  rfl

theorem sealComplete_completes {tss : List Nat} (hdone : ∀ e ∈ frames, Settled s (s.homePart o.owner) e.2)
    (hts : collectM frames (sealedTs (s.homePart o.owner) o.ts) s = .ok (tss, s₁)) :
    let o' : Op := { o with vals := frames.map fun e => (e.1, w64 (s₁.frameRec (s.homePart o.owner) e.2).tail),
                            ts := tss.foldl maxN o.ts }
    sealComplete id s = .ok ((), ({ s₁ with ops := SMap.put s₁.ops id o' } : State).finishOp id) := by
  obtain ⟨owner, flag, kind, dests, vals, late, clk, waits, iaddr⟩ := o
  obtain rfl : kind = .seal frames := hkind
  have hall := (all_settled_iff (s := s) (s.homePart owner)).2 hdone
  unfold sealComplete
  rw [bind_look_run, hop]
  dsimp only
  rw [bind_look_run, bind_look_run, hall]
  refine (bind_run_ok hts).trans ?_
  rfl

end Seal

/-- Settles O34: each event is the run of its body, and a grant's registers are those of a run of writes to lanes. -/
theorem appendEvents : Obligations.AppendEvents := by
  unfold Obligations.AppendEvents
  intro s
  refine ⟨fun id o r s₁ hop hkind hmet => ?grant, fun r a g n hlt hnd hlen hdst k i hk => ?lanes,
    fun r a g n hlen hdst => ?scalar, fun part id p r ts s₁ s₂ s₄ last hp hr hleaf hpieces hrec => ?reservation,
    fun id o frames hop hkind => ?sealing⟩
  case grant =>
    exact ⟨fun t hx => event_ok (appendGrant_refused hop hkind hmet hx),
      fun ids ts s₂ hx hgrant => event_ok (appendGrant_granted hop hkind hmet hx hgrant)⟩
  case lanes =>
    obtain ⟨l, hl⟩ := grantRegs_lane hlt hnd hlen hdst hk
    rw [hl]
    exact ⟨by simp, Lane.pred_setPred_self _ _ (by decide)⟩
  case scalar =>
    refine ⟨scalar_grantRegs hdst, fun i hi hi' => ?_⟩
    rw [pred_grantRegs_scalar hlen hdst hi hi']
    simp [endsAtLimit]
  case reservation => exact event_ok (reservationComplete_run hp hr hleaf hpieces hrec)
  case sealing =>
    exact ⟨fun hopen => event_ok (sealComplete_waits hop hkind hopen),
      fun tss s₁ hdone hts => event_ok (sealComplete_completes hop hkind hdone hts)⟩

end Sys2Proof.Machine
end
